-- ==== Sys2Proof/Word.lean ====
section
/-! DEFINITION. The word types of the device (00 R3: bit 0 is the least significant; memory is little-endian)
and the association lists in which the state keeps its sparse tables. -/
namespace Sys2Proof

/-- A 64-bit register, address or literal. -/
abbrev Word := BitVec 64
/-- A byte of memory. -/
abbrev Byte := BitVec 8

/-- A sparse table: a list of keys and values, the first entry of a key counting. -/
abbrev Map (α : Type) := List (Nat × α)

/-- The value at a key, if any. -/
def Map.get? {α : Type} : Map α → Nat → Option α
  | [], _ => none
  | (k, v) :: m, n => if k = n then some v else Map.get? m n
/-- The value at a key, or the default of an unlisted key. -/
def Map.get {α : Type} (d : α) (m : Map α) (n : Nat) : α := (Map.get? m n).getD d
/-- Replace the value at a key, or add the key. -/
def Map.set {α : Type} : Map α → Nat → α → Map α
  | [], n, x => [(n, x)]
  | (k, v) :: m, n, x => if k = n then (k, x) :: m else (k, v) :: Map.set m n x
/-- Remove a key. -/
def Map.del {α : Type} : Map α → Nat → Map α
  | [], _ => []
  | (k, v) :: m, n => if k = n then Map.del m n else (k, v) :: Map.del m n

end Sys2Proof
end

