-- ==== Sys2Proof/Syntax.lean ====
section
/-! DEFINITION. The instructions: one constructor per row of spec/opcode_table.json.

The rows with words (ADD ... EVLOOK) carry their operands as the decoder reads them (03 R63, R64); a
register field stays its 5-bit code, because R66 reads one code by the operand class of the entry.
The rows without words (TASK_DISPATCH ... PF_FUNCTION_LEVEL_RESET) are steps of the device (spec/95):
they have no encoding, and their arguments say which core, queue entry, launch or input the step is about. -/
namespace Sys2Proof

/-- The type tag codes of 03 R67. Code 0xF is `bits` in a vector register and `res` in a tile. -/
inductive Tag where
  | empty | i8 | i16 | i32 | i64 | n8 | n16 | n32 | n64 | f64 | f32 | bf16 | f16 | e4m3 | e5m2 | bits
deriving DecidableEq, Repr

/-- The code of a tag, 03 R67. -/
def Tag.code : Tag → BitVec 4
  | .empty => 0x0#4 | .i8 => 0x1#4 | .i16 => 0x2#4 | .i32 => 0x3#4 | .i64 => 0x4#4 | .n8 => 0x5#4
  | .n16 => 0x6#4 | .n32 => 0x7#4 | .n64 => 0x8#4 | .f64 => 0x9#4 | .f32 => 0xA#4 | .bf16 => 0xB#4
  | .f16 => 0xC#4 | .e4m3 => 0xD#4 | .e5m2 => 0xE#4 | .bits => 0xF#4

/-- The tag of a code, 03 R67. -/
def Tag.ofCode (c : BitVec 4) : Tag :=
  match c.toNat with
  | 0 => .empty | 1 => .i8 | 2 => .i16 | 3 => .i32 | 4 => .i64 | 5 => .n8 | 6 => .n16 | 7 => .n32
  | 8 => .n64 | 9 => .f64 | 10 => .f32 | 11 => .bf16 | 12 => .f16 | 13 => .e4m3 | 14 => .e5m2 | _ => .bits

/-- Width in bits of one element in a vector register (10 R205); 64 stands for `empty`, which has none. -/
def Tag.width : Tag → Nat
  | .i8 | .n8 | .e4m3 | .e5m2 => 8
  | .i16 | .n16 | .bf16 | .f16 => 16
  | .i32 | .n32 | .f32 | .bits => 32
  | .i64 | .n64 | .f64 | .empty => 64

/-- Elements of a vector register of this tag, 10 R205. -/
def Tag.elems (t : Tag) : Nat := 1024 / t.width

/-- A signed integer tag. -/
def Tag.isSigned : Tag → Bool
  | .i8 | .i16 | .i32 | .i64 => true
  | _ => false
/-- An unsigned integer tag. -/
def Tag.isUnsigned : Tag → Bool
  | .n8 | .n16 | .n32 | .n64 => true
  | _ => false
/-- A floating-point tag. -/
def Tag.isFp : Tag → Bool
  | .f64 | .f32 | .bf16 | .f16 | .e4m3 | .e5m2 => true
  | _ => false

/-- An operand held in imm32 or in the literal word (03 R69). -/
inductive Src where
  | imm (v : BitVec 32)
  | lit (v : BitVec 64)
deriving DecidableEq, Repr

/-- The length field of an F-X instruction with this operand, 03 R58. -/
def Src.len : Src → BitVec 2
  | .imm _ => 2#2
  | .lit _ => 3#2
/-- The imm32 field. -/
def Src.immPart : Src → BitVec 32
  | .imm v => v
  | .lit _ => 0#32
/-- The literal word. -/
def Src.litPart : Src → BitVec 64
  | .imm _ => 0#64
  | .lit v => v
/-- Bytes of an F-X instruction with this operand, 03 R58. -/
def Src.size : Src → Nat
  | .imm _ => 12
  | .lit _ => 20
/-- The operand with imm32 sign-extended, 03 R68. -/
def Src.sext : Src → BitVec 64
  | .imm v => v.signExtend 64
  | .lit v => v
/-- The operand with imm32 zero-extended, 03 R68. -/
def Src.zext : Src → BitVec 64
  | .imm v => v.setWidth 64
  | .lit v => v

/-- The source of kset, 17 R338. -/
inductive ScaleSrc where
  | reg (a : BitVec 5)
  | imm (v : BitVec 32)
deriving DecidableEq, Repr
def ScaleSrc.aux : ScaleSrc → BitVec 4
  | .reg _ => 0#4
  | .imm _ => 1#4
def ScaleSrc.reg' : ScaleSrc → BitVec 5
  | .reg a => a
  | .imm _ => 0#5
def ScaleSrc.immPart : ScaleSrc → BitVec 32
  | .reg _ => 0#32
  | .imm v => v

/-- The value operand of evset and evadd: a register, imm32 or the literal word (20 R370). -/
inductive LeafSrc where
  | reg (c : BitVec 5)
  | imm (v : BitVec 32)
  | lit (v : BitVec 64)
deriving DecidableEq, Repr
def LeafSrc.len : LeafSrc → BitVec 2
  | .reg _ | .imm _ => 2#2
  | .lit _ => 3#2
def LeafSrc.aux : LeafSrc → BitVec 4
  | .reg _ => 0#4
  | .imm _ | .lit _ => 8#4
def LeafSrc.reg' : LeafSrc → BitVec 5
  | .reg c => c
  | .imm _ | .lit _ => 0#5
def LeafSrc.immPart : LeafSrc → BitVec 32
  | .imm v => v
  | .reg _ | .lit _ => 0#32
def LeafSrc.litPart : LeafSrc → BitVec 64
  | .lit v => v
  | .reg _ | .imm _ => 0#64
/-- Bytes of the instruction, 03 R58. -/
def LeafSrc.size : LeafSrc → Nat
  | .reg _ | .imm _ => 12
  | .lit _ => 20

/-- The contribution of qarr: none, or a vector source with its tag (13 R290). -/
inductive Contribution where
  | none
  | vec (t : Tag) (b : BitVec 5)
deriving DecidableEq, Repr
def Contribution.aux : Contribution → BitVec 4
  | .none => 0#4
  | .vec _ _ => 1#4
def Contribution.stag : Contribution → BitVec 4
  | .none => 0#4
  | .vec t _ => t.code
def Contribution.reg' : Contribution → BitVec 5
  | .none => 0#5
  | .vec _ b => b

/-- What bind names: a post register or a channel (11 R261). -/
inductive BindTarget where
  | post (p : BitVec 5)
  | chan (q : BitVec 2)
deriving DecidableEq, Repr
def BindTarget.isChan : BindTarget → Bool
  | .post _ => false
  | .chan _ => true
def BindTarget.chanPart : BindTarget → BitVec 2
  | .post _ => 0#2
  | .chan q => q
def BindTarget.postPart : BindTarget → BitVec 5
  | .post p => p
  | .chan _ => 0#5

/-- The AtomicOps that the completer supports, 23 R407. -/
inductive HostAtomic where
  | fetchAdd | swap | cas
  /-- An AtomicOp of any of these at BAR0 (23 R407). -/
  | atBar0
deriving DecidableEq, Repr

/-- Where a debugger resumes a stopped context, 08 R194. -/
inductive ResumeAt where
  | same | next | addr (v : BitVec 64)
deriving DecidableEq, Repr

/-- A word of a region's state (19 R354) as the debugger names it: clock, count, committed clock, lookahead, the arm and mode bits of
the status word of 20 R382, first leaf, number of leaves, exponent, kind, draw form, table and its length, key and lid of a held arm,
how many queue and log entries there are, and word k of entry i of the neighbours, handlers, queue and log. -/
inductive RegionField where
  | clock | count | committed | look | flags | base | leaves | exponent | kind | draws | table | tableLength | heldKey | heldLid
  | queued | logged
  | neighbour (i : Nat) | handler (i : Nat) | queue (i k : Nat) | log (i k : Nat)
deriving DecidableEq, Repr

/-- What a debugger reads or writes while a core is stopped, 24 R427. A byte named by its place in the
model's memory covers translated memory, the CLM and operand memory; reads are returned in `hostOut`. -/
inductive DebugAccess where
  | readMem (va : BitVec 64) (n : Nat)
  | writeMem (va : BitVec 64) (bytes : List (BitVec 8))
  | readClm (off n : Nat)
  | writeClm (off : Nat) (bytes : List (BitVec 8))
  | readOpm (slot off n : Nat)
  | writeOpm (slot off : Nat) (bytes : List (BitVec 8))
  | readImage (u off : Nat)
  | writeImage (u off : Nat) (v : BitVec 64)
  | readLeaf (i : Nat)
  | writeLeaf (i : Nat) (v : BitVec 64)
  | readHandle (u : Nat) (h : BitVec 4)
  | writeHandle (u : Nat) (h : BitVec 4) (v : BitVec 64)
  /-- A word of the state of a region of the core's cluster. -/
  | readRegion (r : Nat) (f : RegionField)
  | writeRegion (r : Nat) (f : RegionField) (v : BitVec 64)
  | setBreak (i : Nat) (entry : BitVec 64) (tag : Option (BitVec 6)) (lid : Option (BitVec 48)) (stop : Bool)
deriving DecidableEq, Repr

/-- The outcome of one step of the start sequence for one unit, 25 R434, R435. -/
inductive StartOutcome where
  | pass | fail | timeout
deriving DecidableEq, Repr
/-- A result reported by the start sequence: the step (1-9), the unit and how it ended (25 R435). -/
structure StepResult where
  step : Nat
  unit : Nat
  outcome : StartOutcome
deriving DecidableEq, Repr

/-- The SRAM and DRAM units of 25 R440. -/
inductive EccUnit where
  | l1 | l2 | clm | operand | regCache | icache | garnet | tables | dram
deriving DecidableEq, Repr
/-- A word of a cluster's engines, 25 R440: a leaf word or a region's state, a group entry or an Opal cell, a lineage entry, the queue
entry of a task. -/
inductive EngineWord where
  | leaf (i : Nat) | region (r : Nat) | group (ent : Nat) | cell (i : Nat) | lineage (i : Nat) | queue (u : Nat)
deriving DecidableEq, Repr
/-- A soft error, 25 R440: corrected and counted for a VF, or a poisoned word: of the model's memory, a stack slot of a task in its
core's register cache, an instruction word in a core's instruction cache, or a word of a cluster's engines. -/
inductive SoftError where
  | corrected (vf : Nat)
  | poison (unit : EccUnit) (loc : Nat)
  | poisonSlot (u slot : Nat)
  | poisonCached (g loc : Nat)
  | poisonEngine (cl : Nat) (w : EngineWord)
deriving DecidableEq, Repr

/-- The instruction set and the steps of the device. -/
inductive Instr where
  /-- ADD (R171). Sets X(d) to X(a) plus X(b) modulo 2^64. -/
  | add (d a b : BitVec 5)
  /-- SUB (R171). Sets X(d) to X(a) minus X(b) modulo 2^64. -/
  | sub (d a b : BitVec 5)
  /-- AND (R171). Sets X(d) to the bitwise and of X(a) and X(b). -/
  | and (d a b : BitVec 5)
  /-- OR (R171). Sets X(d) to the bitwise or of X(a) and X(b). -/
  | or (d a b : BitVec 5)
  /-- XOR (R171). Sets X(d) to the bitwise xor of X(a) and X(b). -/
  | xor (d a b : BitVec 5)
  /-- ANDN (R171). Sets X(d) to X(a) and not X(b). -/
  | andn (d a b : BitVec 5)
  /-- SLL (R171). Shifts X(a) left by X(b)[5:0]. -/
  | sll (d a b : BitVec 5)
  /-- SRL (R171). Shifts X(a) right by X(b)[5:0] with zeros in. -/
  | srl (d a b : BitVec 5)
  /-- SRA (R171). Shifts X(a) right by X(b)[5:0] with copies of bit 63 in. -/
  | sra (d a b : BitVec 5)
  /-- ADDW (R171). Sets X(d) to the sign-extended low 32 bits of X(a) plus X(b). -/
  | addw (d a b : BitVec 5)
  /-- SUBW (R171). Sets X(d) to the sign-extended low 32 bits of X(a) minus X(b). -/
  | subw (d a b : BitVec 5)
  /-- MIN (R171). Sets X(d) to the signed lesser of X(a) and X(b). -/
  | min (d a b : BitVec 5)
  /-- MAX (R171). Sets X(d) to the signed greater of X(a) and X(b). -/
  | max (d a b : BitVec 5)
  /-- MINN (R171). Sets X(d) to the unsigned lesser of X(a) and X(b). -/
  | minn (d a b : BitVec 5)
  /-- MAXN (R171). Sets X(d) to the unsigned greater of X(a) and X(b). -/
  | maxn (d a b : BitVec 5)
  /-- ADDI (R172). Adds the sign-extended imm14 to X(a) into X(d). -/
  | addi (d a : BitVec 5) (imm : BitVec 14)
  /-- ADDI_LIT (R172). Adds the 64-bit literal word to X(a) into X(d). -/
  | addiLit (d a : BitVec 5) (lit : BitVec 64)
  /-- ANDI (R172). Ands X(a) with a sign-extended imm32 or literal into X(d). -/
  | andi (d a : BitVec 5) (src : Src)
  /-- ORI (R172). Ors X(a) with a sign-extended imm32 or literal into X(d). -/
  | ori (d a : BitVec 5) (src : Src)
  /-- XORI (R172). Xors X(a) with a sign-extended imm32 or literal into X(d). -/
  | xori (d a : BitVec 5) (src : Src)
  /-- SLLI (R172). Shifts X(a) left by an immediate count 0 to 63. -/
  | slli (d a : BitVec 5) (n : BitVec 6)
  /-- SRLI (R172). Shifts X(a) right by an immediate count with zeros in. -/
  | srli (d a : BitVec 5) (n : BitVec 6)
  /-- SRAI (R172). Shifts X(a) right by an immediate count with copies of bit 63 in. -/
  | srai (d a : BitVec 5) (n : BitVec 6)
  /-- LI (R173). Loads the sign-extended imm14 into X(d). -/
  | li (d : BitVec 5) (imm : BitVec 14)
  /-- LI_LIT (R173). Loads the 64-bit literal word into X(d). -/
  | liLit (d : BitVec 5) (lit : BitVec 64)
  /-- MUL (R174). Sets X(d) to the low 64 bits of the product. -/
  | mul (d a b : BitVec 5)
  /-- MULH (R174). Sets X(d) to the high 64 bits of the signed 128-bit product. -/
  | mulh (d a b : BitVec 5)
  /-- MULHN (R174). Sets X(d) to the high 64 bits of the unsigned 128-bit product. -/
  | mulhn (d a b : BitVec 5)
  /-- DIV (R174). Signed 64-bit division, with DIVZ when status.dz is set and the divisor is 0. -/
  | div (d a b : BitVec 5)
  /-- DIVN (R174). Unsigned 64-bit division. -/
  | divn (d a b : BitVec 5)
  /-- REM (R174). Signed 64-bit remainder. -/
  | rem (d a b : BitVec 5)
  /-- REMN (R174). Unsigned 64-bit remainder. -/
  | remn (d a b : BitVec 5)
  /-- MULW (R174). Sets X(d) to the sign-extended low 32 bits of the product. -/
  | mulw (d a b : BitVec 5)
  /-- DIVW (R174). Signed 32-bit division on the sign-extended low words. -/
  | divw (d a b : BitVec 5)
  /-- REMW (R174). Signed 32-bit remainder on the sign-extended low words. -/
  | remw (d a b : BitVec 5)
  /-- CLZ (R175). Counts the leading zero bits of X(a). -/
  | clz (d a : BitVec 5)
  /-- CTZ (R175). Counts the trailing zero bits of X(a). -/
  | ctz (d a : BitVec 5)
  /-- POPC (R175). Counts the one bits of X(a). -/
  | popc (d a : BitVec 5)
  /-- REV8 (R175). Reverses the eight bytes of X(a). -/
  | rev8 (d a : BitVec 5)
  /-- ROTL (R175). Rotates X(a) left by X(b)[5:0]. -/
  | rotl (d a b : BitVec 5)
  /-- ROTR (R175). Rotates X(a) right by X(b)[5:0]. -/
  | rotr (d a b : BitVec 5)
  /-- BEXT (R175). Packs the bits of X(a) at the one positions of X(b). -/
  | bext (d a b : BitVec 5)
  /-- BDEP (R175). Deposits the low bits of X(a) at the one positions of X(b). -/
  | bdep (d a b : BitVec 5)
  /-- SEQ (R176). Writes 1 if X(a) equals X(b), else 0. -/
  | seq (d a b : BitVec 5)
  /-- SNE (R176). Writes 1 if X(a) differs from X(b), else 0. -/
  | sne (d a b : BitVec 5)
  /-- SLT (R176). Writes 1 if X(a) is signed less than X(b). -/
  | slt (d a b : BitVec 5)
  /-- SLTN (R176). Writes 1 if X(a) is unsigned less than X(b). -/
  | sltn (d a b : BitVec 5)
  /-- SEL (R176). Selects X(a) or X(b) into X(d) by the condition in X(d). -/
  | sel (d a b : BitVec 5)
  /-- FADD (R177). Scalar floating-point addition rounded once. -/
  | fadd (rm : BitVec 2) (w : Bool) (d a b : BitVec 5)
  /-- FSUB (R177). Scalar floating-point subtraction rounded once. -/
  | fsub (rm : BitVec 2) (w : Bool) (d a b : BitVec 5)
  /-- FMUL (R177). Scalar floating-point multiplication rounded once. -/
  | fmul (rm : BitVec 2) (w : Bool) (d a b : BitVec 5)
  /-- FDIV (R177). Scalar floating-point division rounded once. -/
  | fdiv (rm : BitVec 2) (w : Bool) (d a b : BitVec 5)
  /-- FSQRT (R177). Scalar floating-point square root rounded once. -/
  | fsqrt (rm : BitVec 2) (w : Bool) (d a : BitVec 5)
  /-- FMIN (R177). Scalar floating-point minimum per R95. -/
  | fmin (w : Bool) (d a b : BitVec 5)
  /-- FMAX (R177). Scalar floating-point maximum per R95. -/
  | fmax (w : Bool) (d a b : BitVec 5)
  /-- FSGNJ (R177). Takes the magnitude of a with the sign of b. -/
  | fsgnj (w : Bool) (d a b : BitVec 5)
  /-- FSGNJN (R177). Takes the magnitude of a with the inverted sign of b. -/
  | fsgnjn (w : Bool) (d a b : BitVec 5)
  /-- FFMA (R178). Fused a times b plus c with one rounding. -/
  | ffma (rm : BitVec 2) (w : Bool) (d a b c : BitVec 5)
  /-- FFMS (R178). Fused a times b minus c with one rounding. -/
  | ffms (rm : BitVec 2) (w : Bool) (d a b c : BitVec 5)
  /-- FFNMA (R178). Fused minus a times b plus c with one rounding. -/
  | ffnma (rm : BitVec 2) (w : Bool) (d a b c : BitVec 5)
  /-- FCVT (R179). Converts between f64 and f32. -/
  | fcvt (rm : BitVec 2) (w : Bool) (d a : BitVec 5)
  /-- FTOI (R179). Converts a float to i64. -/
  | ftoi (rm : BitVec 2) (w : Bool) (d a : BitVec 5)
  /-- FTOIW (R179). Converts a float to i32, sign-extended. -/
  | ftoiw (rm : BitVec 2) (w : Bool) (d a : BitVec 5)
  /-- FTON (R179). Converts a float to n64. -/
  | fton (rm : BitVec 2) (w : Bool) (d a : BitVec 5)
  /-- FTONW (R179). Converts a float to n32, zero-extended. -/
  | ftonw (rm : BitVec 2) (w : Bool) (d a : BitVec 5)
  /-- ITOF (R179). Converts an i64 to a float. -/
  | itof (rm : BitVec 2) (w : Bool) (d a : BitVec 5)
  /-- NTOF (R179). Converts an n64 to a float. -/
  | ntof (rm : BitVec 2) (w : Bool) (d a : BitVec 5)
  /-- FROUND (R179). Rounds a float to an integral value of its format. -/
  | fround (rm : BitVec 2) (w : Bool) (d a : BitVec 5)
  /-- FCLASS (R180). Writes a one-hot class mask of a float. -/
  | fclass (w : Bool) (d a : BitVec 5)
  /-- FEQ (R181). Writes 1 if a equals b. -/
  | feq (w : Bool) (d a b : BitVec 5)
  /-- FLT (R181). Writes 1 if a is less than b. -/
  | flt (w : Bool) (d a b : BitVec 5)
  /-- FLE (R181). Writes 1 if a is at most b. -/
  | fle (w : Bool) (d a b : BitVec 5)
  /-- FUNORD (R181). Writes 1 if either operand is a NaN. -/
  | funord (w : Bool) (d a b : BitVec 5)
  /-- BEQ (R182). Branches if X(a) equals X(b). -/
  | beq (a b : BitVec 5) (disp : BitVec 11)
  /-- BNE (R182). Branches if X(a) differs from X(b). -/
  | bne (a b : BitVec 5) (disp : BitVec 11)
  /-- BLT (R182). Branches if X(a) is signed less than X(b). -/
  | blt (a b : BitVec 5) (disp : BitVec 11)
  /-- BGE (R182). Branches if X(a) is signed at least X(b). -/
  | bge (a b : BitVec 5) (disp : BitVec 11)
  /-- BLTN (R182). Branches if X(a) is unsigned less than X(b). -/
  | bltn (a b : BitVec 5) (disp : BitVec 11)
  /-- BGEN (R182). Branches if X(a) is unsigned at least X(b). -/
  | bgen (a b : BitVec 5) (disp : BitVec 11)
  /-- BANY (R182). Branches if X(a) and X(b) share a one bit. -/
  | bany (a b : BitVec 5) (disp : BitVec 11)
  /-- BNONE (R182). Branches if X(a) and X(b) share no one bit. -/
  | bnone (a b : BitVec 5) (disp : BitVec 11)
  /-- J (R183). Jumps by a 24-bit word displacement. -/
  | j (disp : BitVec 24)
  /-- CALL (R184). Slides the register window, writes the link into a15 and jumps to the literal target. -/
  | call (n : BitVec 4) (target : BitVec 64)
  /-- JR (R184). Jumps to X(a). -/
  | jr (a : BitVec 5)
  /-- CALLR (R184). Calls the target in X(a) with the slide in the b field. -/
  | callr (n : BitVec 4) (a : BitVec 5)
  /-- RET (R184). Restores the window from the link in a15 and returns. -/
  | ret
  /-- TRAP (R185). Takes the trap with cause TRAP and the operand X(a). -/
  | trap (a : BitVec 5)
  /-- TRET (R185). Reporting point, then returns from the current trap level. -/
  | tret
  /-- LD (R186). Loads 64 bits from X(a) plus imm14. -/
  | ld (d a : BitVec 5) (imm : BitVec 14)
  /-- LD_X (R186). Typed load with imm32 or literal displacement and optional acquire. -/
  | ldX (t : Tag) (acq : Bool) (scope : BitVec 3) (d a : BitVec 5) (disp : Src)
  /-- LD_INDEXED (R186). Typed load at X(a) plus X(b) shifted. -/
  | ldIndexed (t : Tag) (acq : Bool) (scope : BitVec 3) (d a b : BitVec 5) (sh : BitVec 2)
  /-- ST (R186). Stores 64 bits at X(a) plus imm14. -/
  | st (d a : BitVec 5) (imm : BitVec 14)
  /-- ST_X (R186). Typed store with imm32 or literal displacement and optional release. -/
  | stX (t : Tag) (rel : Bool) (scope : BitVec 3) (d a : BitVec 5) (disp : Src)
  /-- ST_INDEXED (R186). Typed store at X(a) plus X(b) shifted. -/
  | stIndexed (t : Tag) (rel : Bool) (scope : BitVec 3) (d a b : BitVec 5) (sh : BitVec 2)
  /-- AMOADD (R188). Atomically adds at the home and returns the old value. -/
  | amoadd (t : Tag) (acq rel : Bool) (scope : BitVec 3) (d a b : BitVec 5) (disp : Src)
  /-- AMOAND (R188). Atomically ands at the home and returns the old value. -/
  | amoand (t : Tag) (acq rel : Bool) (scope : BitVec 3) (d a b : BitVec 5) (disp : Src)
  /-- AMOOR (R188). Atomically ors at the home and returns the old value. -/
  | amoor (t : Tag) (acq rel : Bool) (scope : BitVec 3) (d a b : BitVec 5) (disp : Src)
  /-- AMOXOR (R188). Atomically xors at the home and returns the old value. -/
  | amoxor (t : Tag) (acq rel : Bool) (scope : BitVec 3) (d a b : BitVec 5) (disp : Src)
  /-- AMOSWAP (R188). Atomically swaps at the home and returns the old value. -/
  | amoswap (t : Tag) (acq rel : Bool) (scope : BitVec 3) (d a b : BitVec 5) (disp : Src)
  /-- AMOCAS (R188). Atomic compare-and-swap at the home against X(c). -/
  | amocas (t : Tag) (acq rel : Bool) (scope : BitVec 3) (d a b c : BitVec 5) (disp : Src)
  /-- AMOMIN (R188). Atomic signed minimum at the home. -/
  | amomin (t : Tag) (acq rel : Bool) (scope : BitVec 3) (d a b : BitVec 5) (disp : Src)
  /-- AMOMAX (R188). Atomic signed maximum at the home. -/
  | amomax (t : Tag) (acq rel : Bool) (scope : BitVec 3) (d a b : BitVec 5) (disp : Src)
  /-- AMOMINN (R188). Atomic unsigned minimum at the home. -/
  | amominn (t : Tag) (acq rel : Bool) (scope : BitVec 3) (d a b : BitVec 5) (disp : Src)
  /-- AMOMAXN (R188). Atomic unsigned maximum at the home. -/
  | amomaxn (t : Tag) (acq rel : Bool) (scope : BitVec 3) (d a b : BitVec 5) (disp : Src)
  /-- AMOFADD (R188). Atomic floating-point add at the home. -/
  | amofadd (t : Tag) (acq rel : Bool) (scope : BitVec 3) (d a b : BitVec 5) (disp : Src)
  /-- REDADD (R189). Reduces by addition into an update-only copy. -/
  | redadd (t : Tag) (rel : Bool) (scope : BitVec 3) (a b : BitVec 5) (disp : Src)
  /-- REDMIN (R189). Reduces by minimum into an update-only copy. -/
  | redmin (t : Tag) (rel : Bool) (scope : BitVec 3) (a b : BitVec 5) (disp : Src)
  /-- REDMAX (R189). Reduces by maximum into an update-only copy. -/
  | redmax (t : Tag) (rel : Bool) (scope : BitVec 3) (a b : BitVec 5) (disp : Src)
  /-- REDAND (R189). Reduces by and into an update-only copy. -/
  | redand (t : Tag) (rel : Bool) (scope : BitVec 3) (a b : BitVec 5) (disp : Src)
  /-- REDOR (R189). Reduces by or into an update-only copy. -/
  | redor (t : Tag) (rel : Bool) (scope : BitVec 3) (a b : BitVec 5) (disp : Src)
  /-- REDXOR (R189). Reduces by xor into an update-only copy. -/
  | redxor (t : Tag) (rel : Bool) (scope : BitVec 3) (a b : BitVec 5) (disp : Src)
  /-- REDFADD (R189). Reduces by floating-point addition, trapping ORDSENS in dmodes 1 and 2. -/
  | redfadd (t : Tag) (rel : Bool) (scope : BitVec 3) (a b : BitVec 5) (disp : Src)
  /-- FENCE (R190). Reporting point, then orders earlier and later accesses at a scope. -/
  | fence (acq rel : Bool) (scope : BitVec 3)
  /-- DRAINST (R191). Waits until S is 0, then is a reporting point. -/
  | drainst
  /-- WAITC (R192). Waits until the L, S, C and T counters meet their limits, then reports. -/
  | waitc (lim : BitVec 32)
  /-- NOP (R193). Has no effect. -/
  | nop
  /-- BRK (R194). Stops for a debugger under dstop, otherwise traps BRK. -/
  | brk
  /-- KPOINT (R193). Kill point with no other effect. -/
  | kpoint
  /-- ICINV (R195). Discards the core's instruction cache. -/
  | icinv
  /-- TLBINV (R196). Discards translations of the partition or of one address and waits for walks in flight. -/
  | tlbinv (a : BitVec 5)
  /-- SRR (R197). Reads a system register into X(d). -/
  | srr (d : BitVec 5) (n : BitVec 12)
  /-- SRW (R198). Writes X(a) into a system register. -/
  | srw (a : BitVec 5) (n : BitVec 12)
  /-- PERF_START (R199). Clears the capture, sets the group and starts counting. -/
  | perfStart (group : BitVec 8)
  /-- PERF_STOP (R199). Stops the capture and stores its eight-word record. -/
  | perfStop (a : BitVec 5)
  /-- VADD (R214). Element-wise integer addition. -/
  | vadd (t : Tag) (sc : Bool) (mask : BitVec 3) (d a b : BitVec 5)
  /-- VSUB (R214). Element-wise integer subtraction. -/
  | vsub (t : Tag) (sc : Bool) (mask : BitVec 3) (d a b : BitVec 5)
  /-- VMUL (R214). Element-wise low product. -/
  | vmul (t : Tag) (sc : Bool) (mask : BitVec 3) (d a b : BitVec 5)
  /-- VMULH (R214). Element-wise high product. -/
  | vmulh (t : Tag) (sc : Bool) (mask : BitVec 3) (d a b : BitVec 5)
  /-- VMIN (R214). Element-wise integer minimum. -/
  | vmin (t : Tag) (sc : Bool) (mask : BitVec 3) (d a b : BitVec 5)
  /-- VMAX (R214). Element-wise integer maximum. -/
  | vmax (t : Tag) (sc : Bool) (mask : BitVec 3) (d a b : BitVec 5)
  /-- VAND (R214). Element-wise and. -/
  | vand (t : Tag) (sc : Bool) (mask : BitVec 3) (d a b : BitVec 5)
  /-- VOR (R214). Element-wise or. -/
  | vor (t : Tag) (sc : Bool) (mask : BitVec 3) (d a b : BitVec 5)
  /-- VXOR (R214). Element-wise xor. -/
  | vxor (t : Tag) (sc : Bool) (mask : BitVec 3) (d a b : BitVec 5)
  /-- VSLL (R214). Element-wise left shift. -/
  | vsll (t : Tag) (sc : Bool) (mask : BitVec 3) (d a b : BitVec 5)
  /-- VSRL (R214). Element-wise logical right shift. -/
  | vsrl (t : Tag) (sc : Bool) (mask : BitVec 3) (d a b : BitVec 5)
  /-- VSRA (R214). Element-wise arithmetic right shift. -/
  | vsra (t : Tag) (sc : Bool) (mask : BitVec 3) (d a b : BitVec 5)
  /-- VADDSAT (R214). Element-wise saturating addition. -/
  | vaddsat (t : Tag) (sc : Bool) (mask : BitVec 3) (d a b : BitVec 5)
  /-- VSUBSAT (R214). Element-wise saturating subtraction. -/
  | vsubsat (t : Tag) (sc : Bool) (mask : BitVec 3) (d a b : BitVec 5)
  /-- VMOV (R215). Copies active elements and retags the destination. -/
  | vmov (t : Tag) (mask : BitVec 3) (d a : BitVec 5)
  /-- VLI (R215). Writes an immediate or literal to every active element. -/
  | vli (t : Tag) (mask : BitVec 3) (d : BitVec 5) (src : Src)
  /-- VFADD (R216). Element-wise floating-point addition. -/
  | vfadd (rm : BitVec 2) (t : Tag) (sc : Bool) (mask : BitVec 3) (d a b : BitVec 5)
  /-- VFSUB (R216). Element-wise floating-point subtraction. -/
  | vfsub (rm : BitVec 2) (t : Tag) (sc : Bool) (mask : BitVec 3) (d a b : BitVec 5)
  /-- VFMUL (R216). Element-wise floating-point multiplication. -/
  | vfmul (rm : BitVec 2) (t : Tag) (sc : Bool) (mask : BitVec 3) (d a b : BitVec 5)
  /-- VFDIV (R216). Element-wise floating-point division. -/
  | vfdiv (rm : BitVec 2) (t : Tag) (sc : Bool) (mask : BitVec 3) (d a b : BitVec 5)
  /-- VFFMA (R216). Element-wise fused multiply-add. -/
  | vffma (rm : BitVec 2) (t : Tag) (sc : Bool) (mask : BitVec 3) (d a b c : BitVec 5)
  /-- VFMIN (R216). Element-wise floating-point minimum. -/
  | vfmin (t : Tag) (sc : Bool) (mask : BitVec 3) (d a b : BitVec 5)
  /-- VFMAX (R216). Element-wise floating-point maximum. -/
  | vfmax (t : Tag) (sc : Bool) (mask : BitVec 3) (d a b : BitVec 5)
  /-- VFSQRT (R216). Element-wise square root. -/
  | vfsqrt (rm : BitVec 2) (t : Tag) (mask : BitVec 3) (d a : BitVec 5)
  /-- VCMPEQ (R217). Compares for equality into a mask. -/
  | vcmpeq (t : Tag) (sc : Bool) (mask d : BitVec 3) (a b : BitVec 5)
  /-- VCMPNE (R217). Compares for inequality into a mask. -/
  | vcmpne (t : Tag) (sc : Bool) (mask d : BitVec 3) (a b : BitVec 5)
  /-- VCMPLT (R217). Compares less-than into a mask. -/
  | vcmplt (t : Tag) (sc : Bool) (mask d : BitVec 3) (a b : BitVec 5)
  /-- VCMPLE (R217). Compares less-or-equal into a mask. -/
  | vcmple (t : Tag) (sc : Bool) (mask d : BitVec 3) (a b : BitVec 5)
  /-- VSEL (R218). Selects elements of a or b by a selector mask. -/
  | vsel (t : Tag) (mask : BitVec 3) (d a b : BitVec 5)
  /-- MAND (R219). Ands two masks. -/
  | mand (d a b : BitVec 3)
  /-- MOR (R219). Ors two masks. -/
  | mor (d a b : BitVec 3)
  /-- MANDN (R219). Ands a mask with the complement of another. -/
  | mandn (d a b : BitVec 3)
  /-- MXOR (R219). Xors two masks. -/
  | mxor (d a b : BitVec 3)
  /-- MPOP (R219). Counts the one bits of a mask into X(d). -/
  | mpop (d : BitVec 5) (a : BitVec 3)
  /-- MEDGE (R220). Builds the mask of strip elements inside an extent. -/
  | medge (t : Tag) (d : BitVec 3) (a b : BitVec 5)
  /-- VLD (R221). Unit-stride vector load. -/
  | vld (t : Tag) (acq : Bool) (scope mask : BitVec 3) (d a : BitVec 5) (disp : Src)
  /-- VST (R221). Unit-stride vector store. -/
  | vst (t : Tag) (rel : Bool) (scope mask : BitVec 3) (d a : BitVec 5) (disp : Src)
  /-- VLDS (R221). Strided vector load. -/
  | vlds (t : Tag) (acq : Bool) (scope mask : BitVec 3) (d a b : BitVec 5) (disp : Src)
  /-- VSTS (R221). Strided vector store. -/
  | vsts (t : Tag) (rel : Bool) (scope mask : BitVec 3) (d a b : BitVec 5) (disp : Src)
  /-- VGATH (R223). Gathers elements from indexed addresses. -/
  | vgath (t : Tag) (acq : Bool) (scope mask : BitVec 3) (d a b : BitVec 5) (disp : Src) (sh : BitVec 2)
  /-- VSCAT (R224). Scatters elements to indexed addresses, highest index winning. -/
  | vscat (t : Tag) (rel : Bool) (scope mask : BitVec 3) (d a b : BitVec 5) (disp : Src) (sh : BitVec 2)
  /-- VPERM (R225). Permutes elements by an index register. -/
  | vperm (t : Tag) (mask : BitVec 3) (d a b : BitVec 5)
  /-- VBCAST (R225). Broadcasts a scalar to active elements. -/
  | vbcast (t : Tag) (mask : BitVec 3) (d a : BitVec 5)
  /-- VSLIDE (R225). Slides elements by a signed amount. -/
  | vslide (t : Tag) (mask : BitVec 3) (d a : BitVec 5) (amount : BitVec 32)
  /-- VREDSUM (R226). Tree-sums elements into a scalar. -/
  | vredsum (rm : BitVec 2) (t : Tag) (mask : BitVec 3) (d a : BitVec 5)
  /-- VREDMIN (R226). Tree-minimum of elements into a scalar. -/
  | vredmin (t : Tag) (mask : BitVec 3) (d a : BitVec 5)
  /-- VREDMAX (R226). Tree-maximum of elements into a scalar. -/
  | vredmax (t : Tag) (mask : BitVec 3) (d a : BitVec 5)
  /-- VEXT (R227). Extracts one element into a scalar. -/
  | vext (t : Tag) (d a : BitVec 5) (idx : BitVec 32)
  /-- VCVT (R228). Converts elements between formats by part. -/
  | vcvt (t : Tag) (rm : BitVec 2) (mask : BitVec 3) (d a : BitVec 5) (p : BitVec 3) (sat : Bool)
  /-- TCLAIM (R332). Claims slots first fit and makes a LIVE zeroed Onyx tile. -/
  | tclaim (t : Tag) (d : BitVec 4) (br bc : BitVec 3)
  /-- TFREE (R333). Empties a handle and frees or dereferences its tile. -/
  | tfree (a : BitVec 4)
  /-- HMOV (R334). Moves a handle between registers of the task. -/
  | hmov (d a : BitVec 4)
  /-- HSEND (R337). Sends a handle to a register of another context. -/
  | hsend (core : BitVec 5) (k n a : BitVec 4)
  /-- HDUP (R335). Duplicates a handle, making the tile Shared. -/
  | hdup (d a : BitVec 4)
  /-- HINFO (R336). Reads a handle value into X(d). -/
  | hinfo (d : BitVec 5) (a : BitVec 4)
  /-- KSET (R338). Writes raw FP32 bits into a block-scale register. -/
  | kset (d : BitVec 4) (v : ScaleSrc)
  /-- TLD (R340). Loads a tile image from memory into a tile. -/
  | tld (t : Tag) (int4 acq : Bool) (scope : BitVec 3) (d : BitVec 4) (a c : BitVec 5) (disp : BitVec 32)
  /-- TST (R341). Stores a tile to memory, reconstructing res tiles under scales. -/
  | tst (t : Tag) (rel : Bool) (scope : BitVec 3) (d : BitVec 4) (a c : BitVec 5) (rs cs : BitVec 4) (disp : BitVec 32)
  /-- TMMA (R342). Accumulates A times B into an Onyx accumulator. -/
  | tmma (d a b : BitVec 4)
  /-- TZERO (R343). Zeroes a tile and sets its tag. -/
  | tzero (t : Tag) (d : BitVec 4)
  /-- TCVT (R344). Converts every element of one tile into another. -/
  | tcvt (t : Tag) (rm : BitVec 2) (d a rs cs : BitVec 4)
  /-- TSPLIT (R345). Splits an Onyx tile into two children in a lineage entry. -/
  | tsplit (axis : Bool) (d a b : BitVec 4) (cut : BitVec 3)
  /-- TREJOIN (R346). Waits for both children and rejoins them into the parent. -/
  | trejoin (d a b : BitVec 4)
  /-- C1D (R300). Queues a linear byte copy. -/
  | c1d (acq rel : Bool) (scope : BitVec 3) (d a b c e : BitVec 5)
  /-- C2D (R300). Queues a two-dimensional copy from a shape descriptor. -/
  | c2d (acq rel : Bool) (scope : BitVec 3) (d a b c e : BitVec 5)
  /-- C3D (R300). Queues a three-dimensional copy from a shape descriptor. -/
  | c3d (acq rel : Bool) (scope : BitVec 3) (d a b c e : BitVec 5)
  /-- CTILE_LD (R302). Queues a copy of a tile image from memory into a tile. -/
  | ctileLd (acq rel : Bool) (scope : BitVec 3) (d a : BitVec 5) (b : BitVec 4) (e : BitVec 5)
  /-- CTILE_ST (R302). Queues a copy of a tile to a memory image. -/
  | ctileSt (acq rel : Bool) (scope : BitVec 3) (d a : BitVec 5) (b : BitVec 4) (e : BitVec 5)
  /-- CFILL (R301). Queues a fill of memory with a 64-bit pattern. -/
  | cfill (acq rel : Bool) (scope : BitVec 3) (d a b c e : BitVec 5)
  /-- CUNSEAL (R304). Queues authenticated decryption of a sealed image. -/
  | cunseal (acq rel : Bool) (scope : BitVec 3) (tile : Bool) (d a b c e : BitVec 5)
  /-- CWAIT (R310). Waits until a copy command is not BUSY and acquires its writes. -/
  | cwait (a : BitVec 5)
  /-- CSTAT (R310). Reads a copy command's state. -/
  | cstat (d a : BitVec 5)
  /-- SLEEPU (R311). Waits for completion or the promise plus slack. -/
  | sleepu (a : BitVec 5) (slack : BitVec 32)
  /-- SPAWN (R255). Creates a task on a chosen or drawn core, or bounces. -/
  | spawn (d a : BitVec 5) (b : BitVec 4) (c e : BitVec 5) (entry : Src) (n : BitVec 3) (ord : Bool)
  /-- START (R256). Creates a task on the issuing core from context 0. -/
  | start (d : BitVec 5) (b : BitVec 4) (c e : BitVec 5) (entry : Src) (n : BitVec 3)
  /-- RFORK (R257). Recruits tasks along the fork tree under an Opal cell. -/
  | rfork (d a : BitVec 5) (b : BitVec 4) (c e : BitVec 5) (entry : Src) (n : BitVec 3)
  /-- EXIT (R258). Waits for the counters, reports, and ends or exits the task. -/
  | exit
  /-- YIELD (R258). Refills the budget and requeues behind a lower-key task. -/
  | yield
  /-- KEYSET (R259). Sets the deadline key. -/
  | keyset (a : BitVec 5)
  /-- BUDSET (R259). Sets the budget and its refill value. -/
  | budset (a : BitVec 5)
  /-- PSEND (R260). Sends a scalar to a post register of a core. -/
  | psend (rel : Bool) (scope : BitVec 3) (p a b : BitVec 5)
  /-- CSEND (R260). Sends a vector entry to a channel of a core. -/
  | csend (t : Tag) (rel : Bool) (scope : BitVec 3) (a b : BitVec 5) (q : BitVec 2)
  /-- BIND (R261). Binds or unbinds a post register or channel to an entry. -/
  | bind (c e : BitVec 5) (entry : Src) (tgt : BindTarget) (ord : Bool)
  /-- PWAIT (R262). Waits for a post register value and takes it. -/
  | pwait (d p : BitVec 5)
  /-- HORZ (R263). Reads the last received horizon key. -/
  | horz (d : BitVec 5)
  /-- GETLID (R263). Reads the task's lid. -/
  | getlid (d : BitVec 5)
  /-- GJOIN (R289). Joins a barrier or quorum group at its home. -/
  | gjoin (a b : BitVec 5)
  /-- GLEAVE (R289). Leaves a barrier group. -/
  | gleave (a : BitVec 5)
  /-- BARINIT (R289). Sets a group to BARRIER over a rectangle or frees it. -/
  | barinit (a b : BitVec 5)
  /-- BARARR (R273). Arrives in the pending barrier phase. -/
  | bararr (a : BitVec 5)
  /-- BARWAIT (R273). Waits until the barrier phase passes the task's arrival. -/
  | barwait (a : BitVec 5)
  /-- QINIT (R290). Reads a descriptor and arms an Opal cell with a quorum group. -/
  | qinit (d a b : BitVec 5)
  /-- QARR (R280). Releases at domain scope and arrives at an Opal cell. -/
  | qarr (a : BitVec 5) (con : Contribution)
  /-- QWAIT (R290). Waits until the cell is RELEASED and reads its state word. -/
  | qwait (d a : BitVec 5)
  /-- QSTAT (R290). Reads a cell's state word. -/
  | qstat (d a : BitVec 5)
  /-- QREC (R290). Reads a cell's release-record pointer. -/
  | qrec (d a : BitVec 5)
  /-- EVCFG (R376). Configures or removes a Garnet region. -/
  | evcfg (ord acq rel : Bool) (scope : BitVec 3) (a b c e : BitVec 5)
  /-- EVSET (R377). Sends a leaf-word write to a region. -/
  | evset (a b : BitVec 5) (v : LeafSrc)
  /-- EVADD (R377). Sends a signed rate delta to a leaf. -/
  | evadd (a b : BitVec 5) (v : LeafSrc)
  /-- EVGET (R378). Reads a leaf word. -/
  | evget (d a b : BitVec 5)
  /-- EVSUM (R378). Reads a region's exact sum. -/
  | evsum (d a : BitVec 5)
  /-- EVNEXT (R379). Takes the next event of a region, optionally spawning its handler. -/
  | evnext (spawn acq rel : Bool) (scope : BitVec 3) (d a c e : BitVec 5)
  /-- EVSCHED (R380). Schedules a boundary event into a region's queue. -/
  | evsched (d a b c e : BitVec 5)
  /-- EVCLK_CLOCK (R381). Reads a region's clock. -/
  | evclkClock (d a : BitVec 5)
  /-- EVCLK_COUNT (R381). Reads a region's event counter. -/
  | evclkCount (d a : BitVec 5)
  /-- EVHOR_BOUND (R382). Reads a region's conservative bound. -/
  | evhorBound (d a : BitVec 5)
  /-- EVHOR_COMMIT (R382). Reads a region's committed clock. -/
  | evhorCommit (d a : BitVec 5)
  /-- EVHOR_STATUS (R382). Reads a region's status word. -/
  | evhorStatus (d a : BitVec 5)
  /-- EVLOOK (R383). Sets a region's lookahead and a neighbour slot. -/
  | evlook (a b c : BitVec 5) (slot : BitVec 3)
  /-- TASK_DISPATCH (R230). A core dispatches its lowest-key queued task to an EMPTY helper context. -/
  | taskDispatch (g : Nat)
  /-- POST_MESSAGE_ARRIVAL (R239). A message reaches a post register, setting it or waiting in the queue area. -/
  | postMessageArrival (k : Nat)
  /-- CHANNEL_ENTRY_ARRIVAL (R240). A channel entry moves from the input buffer into its channel by priority. -/
  | channelEntryArrival (g : Nat)
  /-- BUDGET_EXHAUSTED (R237). A budget count reaches 0 and the task takes BUDGET before its next instruction. -/
  | budgetExhausted (u : Nat)
  /-- HORIZON_HOLDER_SWITCH_OUT (R234). After 4,096 cycles without a free helper, the highest-key resident task is switched out for the horizon holder. -/
  | horizonHolderSwitchOut (g : Nat)
  /-- HORIZON_UPDATE (R246). The min-network delivers a new horizon value to a core. -/
  | horizonUpdate (g : Nat)
  /-- COMMIT (R249). An exited ordered task at or below the horizon commits its versions, atomics, messages and Garnet changes. -/
  | commit
  /-- ORDERED_ABORT (R248). An ordered task discards its provisional state, leaves its context and is requeued. -/
  | orderedAbort (u : Nat)
  /-- KILL (R165). A context is killed, writes its kill record, posts its lid to p31 and becomes EMPTY. -/
  | kill (u : Nat)
  /-- STORE_PERFORMED (R131). A store leaves the queue and is performed, tracked or versioned at its home or bank. -/
  | storePerformed (u k : Nat)
  /-- UPDATE_COPY_EVICTION (R147). An evicted update-only copy is combined alone at its home. -/
  | updateCopyEviction (k : Nat)
  /-- REPLICA_APPLY (R136). A die applies a received write to its replica or home in causal order. -/
  | replicaApply (die k : Nat)
  /-- PIN_LIFT (R132). The device lifts a core-scope pin, at latest 4,096 cycles after the first retry. -/
  | pinLift (k : Nat)
  /-- SFQ_64_BOUND (R164). At the 64th instruction after a store, the store is resolved and reported if refused. -/
  | sfq64Bound (u : Nat)
  /-- COPY_BEAT (R295). The copy engine completes one beat of up to 512 bytes of a command or HSEND transfer. -/
  | copyBeat (cl : Nat)
  /-- PROMISE_EXPIRY (R311). A waiting sleepu's promise plus slack passes while the command is BUSY, raising PROMISE. -/
  | promiseExpiry (u : Nat)
  /-- TILE_COMPLETE (R325). An accepted tile instruction completes, writes its tile and leaves T. -/
  | tileComplete (g k : Nat)
  /-- HSEND_LANDED (R321). An inter-cluster tile's last element lands and the target handle becomes LIVE. -/
  | hsendLanded (k : Nat)
  /-- BARRIER_RELEASE (R274). The sweep network releases a barrier phase and barwaits return. -/
  | barrierRelease (cl ent : Nat)
  /-- QUORUM_DEADLINE (R282). An armed cell's deadline is reached and it releases with how DEADLINE. -/
  | quorumDeadline (cl cell : Nat)
  /-- DEADLINE_PASS (R233). A live task's deadline passes and a trace record is written. -/
  | deadlinePass (u : Nat)
  /-- GARNET_UPDATE (R359). A leaf update is performed at the owner engine or refused into a store-fault record. -/
  | garnetUpdate (u : Nat)
  /-- LAUNCH_COMMIT (R393). A write covering bytes 0x38–0x3F commits a launch slot and the hub checks the record. -/
  | launchCommit (vf slot : Nat) (word : BitVec 64) (relaxed : Bool)
  /-- LAUNCH_PLACE (R399). The distributor places a launch on cores that have room and queues its tasks. -/
  | launchPlace
  /-- PRIORITY_AGING (R398). Each full 1 ms QUEUED lowers a launch's effective priority by 1. -/
  | priorityAging (l : Nat)
  /-- SLICE_EXPIRY (R399). At a slice's end a held launch pre-empts the longest-resident blocking launch of equal priority. -/
  | sliceExpiry (l : Nat)
  /-- PREEMPTION (R402). A launch stops dispatching on its cores and lets resident tasks run on for the grace. -/
  | preemption (l : Nat)
  /-- GRACE_EXPIRY (R402). The grace ends and resident tasks are frozen OUT, then the handler or save runs. -/
  | graceExpiry (l : Nat)
  /-- COOP_HANDLER_BUDGET_END (R403). The pre-emption handler's budget runs out and it is ended without a kill record. -/
  | coopHandlerBudgetEnd (u : Nat)
  /-- REGISTER_CACHE_SWAP (R404). Both register-cache transfers finish and the halves change roles. -/
  | registerCacheSwap (g : Nat)
  /-- LAUNCH_RESTORE (R405). A pre-empted launch is restored, checking the valid word and running the handler with a0 = 1. -/
  | launchRestore (l : Nat)
  /-- LAUNCH_END (R394). A launch with no tasks, commands or uncommitted work ends DONE and its state is freed. -/
  | launchEnd (l : Nat)
  /-- GANG_RESERVATION (R400). The leader learns of the last reservation and sends T and C to every member. -/
  | gangReservation (l : Nat) (last : BitVec 64)
  /-- GANG_GO (R400). At C plus 500 ns the leader sends go unless an earlier-stamped cancel arrived. -/
  | gangGo (l : Nat)
  /-- GANG_START (R400). At tick T each member that received go starts its tasks. -/
  | gangStart (l : Nat)
  /-- GANG_CANCEL (R401). A cancel releases every member's reservation and requeues the gang. -/
  | gangCancel (l : Nat) (stamp : BitVec 64)
  /-- FUNCTION_LEVEL_RESET (R406). A VF reset abandons saves, scrubs the VF's state and ends its launches as FLR-ABORT. -/
  | functionLevelReset (vf : Nat)
  /-- SETROOT (R412). Mailbox request to set xroot with PF approval and invalidate translations. -/
  | setroot (vf : Nat) (approved : Bool)
  /-- GETCFG (R412). Mailbox request returning the partition record with xroot as 0. -/
  | getcfg (vf : Nat)
  /-- PFMSG (R412). Mailbox request passing an opaque message to the PF driver. -/
  | pfmsg (vf : Nat)
  /-- MAILBOX_BADOP (R412). A mailbox request with an unknown op is answered BADOP. -/
  | mailboxBadop (vf : Nat)
  /-- PF_MAILBOX_ANSWER (R412). The PF answers a VF request and the hub copies it into mrsp and mres. -/
  | pfMailboxAnswer (vf : Nat) (status : BitVec 16) (reply : List (BitVec 8))
  /-- APPLY (R414). pcmd APPLY checks and installs a partition record, scrubbing new units. -/
  | apply (vf : Nat)
  /-- DISSOLVE (R414). pcmd DISSOLVE scrubs and frees everything a partition held. -/
  | dissolve (vf : Nat)
  /-- GET_VERSION (R419). SPDM request for supported versions. -/
  | getVersion (vf : Nat)
  /-- GET_CAPABILITIES (R419). SPDM request for responder capabilities. -/
  | getCapabilities (vf : Nat)
  /-- NEGOTIATE_ALGORITHMS (R419). SPDM request selecting algorithms. -/
  | negotiateAlgorithms (vf : Nat)
  /-- GET_DIGESTS (R419). SPDM request for certificate digests. -/
  | getDigests (vf : Nat)
  /-- GET_CERTIFICATE (R419). SPDM request for a certificate chain. -/
  | getCertificate (vf : Nat)
  /-- CHALLENGE (R419). SPDM challenge authentication request. -/
  | challenge (vf : Nat)
  /-- GET_MEASUREMENTS (R420). SPDM request for the measurement blocks. -/
  | getMeasurements (vf : Nat)
  /-- KEY_EXCHANGE (R419). SPDM request opening a session bound to the partition, at most four. -/
  | keyExchange (vf : Nat)
  /-- FINISH (R419). SPDM request completing session establishment. -/
  | finish (vf session : Nat)
  /-- END_SESSION (R419). SPDM request ending a session. -/
  | endSession (vf session : Nat)
  /-- KEY_SLOT_LOAD (R421). Vendor-defined request loading a key into slot 1–15 inside a bound session. -/
  | keySlotLoad (vf : Nat) (session slot : Nat) (key : BitVec 256) (model : BitVec 64)
  /-- KEY_SLOT_CLEAR (R421). Vendor-defined request clearing a key slot when no launch is live. -/
  | keySlotClear (vf : Nat) (session slot : Nat)
  /-- HOST_READ (R410). A host read through BAR2 translated by the partition's tables. -/
  | hostRead (vf : Nat) (addr : BitVec 64) (n : Nat)
  /-- HOST_WRITE (R410). A host posted write through BAR2 performed at its home. -/
  | hostWrite (vf : Nat) (addr : BitVec 64) (bytes : List (BitVec 8))
  /-- HOST_ATOMICOP (R416). A host AtomicOp through BAR2 performed at the home. -/
  | hostAtomicop (vf : Nat) (addr : BitVec 64) (op : HostAtomic) (w : Nat) (x cmp : BitVec 64)
  /-- BAR0_WRITE (R408). A write to a BAR0 register without a row of its own, held or discarded and logged. -/
  | bar0Write (vf : Nat) (off : Nat) (bytes : List (BitVec 8)) (relaxed : Bool)
  /-- TBASE_WRITE (R428). Writes the trace ring base, rejected if misaligned, unwritable or while enabled. -/
  | tbaseWrite (vf : Nat) (v : BitVec 64)
  /-- TSIZE_WRITE (R428). Writes the trace ring size, rejected if out of range or while enabled. -/
  | tsizeWrite (vf : Nat) (v : BitVec 64)
  /-- TWIDX_WRITE (R428). Writes the trace write index, rejected if beyond tsize. -/
  | twidxWrite (vf : Nat) (v : BitVec 64)
  /-- TRIDX_WRITE (R428). Writes the trace read index, draining the ring. -/
  | tridxWrite (vf : Nat) (v : BitVec 64)
  /-- TRACE_CONTROL_WRITE (R428). Writes the trace class enables and en. -/
  | traceControlWrite (vf : Nat) (v : BitVec 64)
  /-- DEBUGGER_ATTACH (R425). A debugger attaches through the JTAG port or the PF. -/
  | debuggerAttach
  /-- DEBUG_STOP (R425). A core stops dispatching and its contexts stop at instruction boundaries. -/
  | debugStop (g : Nat)
  /-- DEBUG_RESUME (R194). The debugger resumes a stopped context at P, Next or a written address. -/
  | debugResume (u : Nat) (at_ : ResumeAt)
  /-- DEBUG_ACCESS (R427). The debugger reads or writes images, memory, CLM, operand memory or Garnet state. -/
  | debugAccess (g : Nat) (what : DebugAccess)
  /-- DEBUGGER_KILL (R165). The debugger kills a task with reason 2. -/
  | debuggerKill (u : Nat)
  /-- START_SEQUENCE (R434). Power-on or cold reset runs the hub's start steps in order. -/
  | startSequence (results : List StepResult)
  /-- CLEARSTART (R436). MCTP request clearing the start record when no partition exists. -/
  | clearstart
  /-- DROOP_STRETCH (R439). A cluster's supply falls below 370 mV and its clock is stretched. -/
  | droopStretch (cl : Nat)
  /-- STRETCH_RELEASE (R439). The supply stays at or above 385 mV for 64 cycles and the stretch ends. -/
  | stretchRelease (cl : Nat)
  /-- POWER_LIMIT_STRETCH (R439). The 1 ms average power exceeds the form's limit and every cluster is stretched. -/
  | powerLimitStretch
  /-- POWER_LIMIT_RELEASE (R439). The average falls to 97 % of the limit and the stretch ends. -/
  | powerLimitRelease
  /-- SOFT_ERROR (R440). An SRAM error is corrected and counted, or poisons the word. -/
  | softError (what : SoftError)
  /-- LOAD_RETURN (R75). An outstanding load, vector load, gather or AMO returns its data or old value, or its fault, and leaves the L counter. -/
  | loadReturn (k : Nat)
  /-- PF_FUNCTION_LEVEL_RESET (R407). A function-level reset of the PF arrives from the host. -/
  | pfFunctionLevelReset
deriving DecidableEq, Repr

end Sys2Proof
end

