-- ==== Sys2Proof/Machine/Float.lean ====
section
/-! DEFINITION. Floating-point formats, rounding and exact arithmetic (spec/04 R86-R96, R103) and the draw
function (R107, R108).

A finite number is held exactly as a natural significand and an integer exponent; every operation is computed
exactly on these and rounded once. A quotient or a square root is computed to more bits than any format has,
with one further bit that says whether anything nonzero follows (so that one rounding gives the right result).
All of it is natural-number arithmetic by structural recursion. -/
namespace Sys2Proof.Machine

/-- Exponent bits, R86. -/
def expBits : Tag → Nat
  | .f32 | .bf16 => 8
  | .f16 | .e5m2 => 5
  | .e4m3 => 4
  | _ => 11
/-- Fraction bits, R86. -/
def fracBits : Tag → Nat
  | .f32 => 23
  | .f16 => 10
  | .bf16 => 7
  | .e4m3 => 3
  | .e5m2 => 2
  | _ => 52
/-- Bias, R86. -/
def fpBias (t : Tag) : Nat := 2 ^ (expBits t - 1) - 1
/-- Width in bits, R86. -/
def fpWidth (t : Tag) : Nat := 1 + expBits t + fracBits t
/-- The exponent of the last place of subnormals. -/
def fpQuantum (t : Tag) : Int := 1 - (fpBias t : Int) - (fracBits t : Int)
/-- The encoding of the largest finite magnitude, R86. -/
def fpMaxMag (t : Tag) : Nat :=
  if t == .e4m3 then 0x7E else (2 ^ expBits t - 1) * 2 ^ fracBits t - 1
/-- The encoding of +infinity; e4m3 has none and delivers its largest value (R90, R94). -/
def fpInfMag (t : Tag) : Nat := if t == .e4m3 then 0x7E else (2 ^ expBits t - 1) * 2 ^ fracBits t
/-- The canonical NaN, R86. -/
def fpNaN (t : Tag) : Nat :=
  if t == .e4m3 then 0x7F else (2 ^ expBits t - 1) * 2 ^ fracBits t + 2 ^ (fracBits t - 1)
/-- A magnitude with a sign. -/
def fpSigned (t : Tag) (neg : Bool) (mag : Nat) : Nat := if neg then mag + 2 ^ (fpWidth t - 1) else mag

/-- fflags bits, R92. -/
def fNV : BitVec 5 := 0x10#5
def fDZ : BitVec 5 := 0x08#5
def fOF : BitVec 5 := 0x04#5
def fUF : BitVec 5 := 0x02#5
def fNX : BitVec 5 := 0x01#5

/-- A floating-point datum: a NaN, an infinity, or (-1)^neg * m * 2^e exactly. -/
inductive FVal where
  | nan (signalling : Bool)
  | inf (neg : Bool)
  | fin (neg : Bool) (m : Nat) (e : Int)
deriving DecidableEq, Repr

/-- Read an encoding, R86, R87. -/
def fpDecode (t : Tag) (x : Nat) : FVal :=
  let neg := x / 2 ^ (fpWidth t - 1) % 2 == 1
  let ex := x / 2 ^ fracBits t % 2 ^ expBits t
  let fr := x % 2 ^ fracBits t
  let top := ex == 2 ^ expBits t - 1
  if t == .e4m3 && top && fr == 7 then .nan false
  else if t != .e4m3 && top then
    if fr == 0 then .inf neg else .nan (fr / 2 ^ (fracBits t - 1) == 0)
  else if ex == 0 then .fin neg fr (fpQuantum t)
  else .fin neg (fr + 2 ^ fracBits t) (fpQuantum t + (ex : Int) - 1)

/-- Round m * 2^e to a multiple of 2^qe: the multiple and whether the value changed (R89). -/
def roundAt (rm : BitVec 2) (neg : Bool) (m : Nat) (e qe : Int) : Nat × Bool :=
  if qe ≤ e then (m * 2 ^ (e - qe).toNat, false)
  else
    let sh := (qe - e).toNat
    let q := m / 2 ^ sh
    let r := m % 2 ^ sh
    let half := 2 ^ (sh - 1)
    let up :=
      match rm.toNat with
      | 0 => decide (half < r) || (r == half && q % 2 == 1)
      | 1 => false
      | 2 => !neg && r != 0
      | _ => neg && r != 0
    (if up then q + 1 else q, r != 0)

/-- Round(rm, t, (-1)^neg * m * 2^e): the encoding and the flags, R89-R91. A zero m gives the signed zero. -/
def fpRound (rm : BitVec 2) (t : Tag) (neg : Bool) (m : Nat) (e : Int) : Nat × BitVec 5 :=
  if m == 0 then (fpSigned t neg 0, 0#5)
  else
    let p := fracBits t + 1
    let qu := e + (m.log2 : Int) + 1 - (p : Int)      -- last place with the exponent range unbounded
    let qmin := fpQuantum t
    let qe := if qmin ≤ qu then qu else qmin
    let (q, inexact) := roundAt rm neg m e qe
    let tiny := decide (qu < qmin) &&
      !((roundAt rm neg m e qu).1 == 2 ^ p && decide (qu + 1 = qmin))
    let mag := (qe - qmin).toNat * 2 ^ fracBits t + q
    if fpMaxMag t < mag then
      let toInf := match rm.toNat with
        | 0 => true
        | 1 => false
        | 2 => !neg
        | _ => neg
      (fpSigned t neg (if toInf then fpInfMag t else fpMaxMag t), fOF ||| fNX)
    else
      (fpSigned t neg mag, (if inexact then fNX else 0#5) ||| (if tiny && inexact then fUF else 0#5))

/-- Whether a datum is a signalling NaN, and the flag it raises (R93). -/
def FVal.nv : FVal → BitVec 5
  | .nan true => fNV
  | _ => 0#5
def FVal.isNaN : FVal → Bool
  | .nan _ => true
  | _ => false
/-- Change the sign. -/
def FVal.neg' : FVal → FVal
  | .nan s => .nan s
  | .inf n => .inf (!n)
  | .fin n m e => .fin (!n) m e

/-- Round a datum that an operation produced; a NaN is canonical (R87). An infinity going into e4m3 gives 448 with NV (R94). -/
def fpPack (rm : BitVec 2) (t : Tag) (v : FVal) : Nat × BitVec 5 :=
  match v with
  | .nan _ => (fpNaN t, 0#5)
  | .inf n => (fpSigned t n (fpInfMag t), if t == .e4m3 then fNV else 0#5)
  | .fin n m e => fpRound rm t n m e

/-- The exact sum of two data and the flags of forming it (R88, R93). -/
def fpSumV (rm : BitVec 2) (x y : FVal) : FVal × BitVec 5 :=
  match x, y with
  | .nan s, .nan s' => (.nan false, if s || s' then fNV else 0#5)
  | .nan s, _ => (.nan false, if s then fNV else 0#5)
  | _, .nan s => (.nan false, if s then fNV else 0#5)
  | .inf a, .inf b => if a == b then (.inf a, 0#5) else (.nan false, fNV)
  | .inf a, _ => (.inf a, 0#5)
  | _, .inf b => (.inf b, 0#5)
  | .fin n1 m1 e1, .fin n2 m2 e2 =>
    let e := if e1 ≤ e2 then e1 else e2
    let v1 := m1 * 2 ^ (e1 - e).toNat
    let v2 := m2 * 2 ^ (e2 - e).toNat
    if n1 == n2 then (.fin n1 (v1 + v2) e, 0#5)
    else if v1 == v2 then (.fin (rm == 3#2) 0 e, 0#5)
    else if v2 < v1 then (.fin n1 (v1 - v2) e, 0#5)
    else (.fin n2 (v2 - v1) e, 0#5)

/-- The exact product of two data and the flags of forming it (R88, R93). -/
def fpMulV (x y : FVal) : FVal × BitVec 5 :=
  match x, y with
  | .nan s, .nan s' => (.nan false, if s || s' then fNV else 0#5)
  | .nan s, _ => (.nan false, if s then fNV else 0#5)
  | _, .nan s => (.nan false, if s then fNV else 0#5)
  | .inf a, .inf b => (.inf (a != b), 0#5)
  | .inf a, .fin b m _ => if m == 0 then (.nan false, fNV) else (.inf (a != b), 0#5)
  | .fin a m _, .inf b => if m == 0 then (.nan false, fNV) else (.inf (a != b), 0#5)
  | .fin n1 m1 e1, .fin n2 m2 e2 => (.fin (n1 != n2) (m1 * m2) (e1 + e2), 0#5)

/-- fadd, R177. -/
def fpAdd (rm : BitVec 2) (t : Tag) (x y : Nat) : Nat × BitVec 5 :=
  let (v, f) := fpSumV rm (fpDecode t x) (fpDecode t y)
  let (r, f') := fpPack rm t v
  (r, f ||| f')
/-- fsub, R177. -/
def fpSub (rm : BitVec 2) (t : Tag) (x y : Nat) : Nat × BitVec 5 :=
  let (v, f) := fpSumV rm (fpDecode t x) (fpDecode t y).neg'
  let (r, f') := fpPack rm t v
  (r, f ||| f')
/-- fmul, R177. -/
def fpMul (rm : BitVec 2) (t : Tag) (x y : Nat) : Nat × BitVec 5 :=
  let (v, f) := fpMulV (fpDecode t x) (fpDecode t y)
  let (r, f') := fpPack rm t v
  (r, f ||| f')
/-- (-1)^np * (a * b) + (-1)^nc * c with one rounding, R178. -/
def fpFma (rm : BitVec 2) (t : Tag) (np nc : Bool) (a b c : Nat) : Nat × BitVec 5 :=
  let (p, f) := fpMulV (fpDecode t a) (fpDecode t b)
  let p := if np then p.neg' else p
  let cv := fpDecode t c
  let (s, f') := fpSumV rm p (if nc then cv.neg' else cv)
  let (r, f'') := fpPack rm t s
  (r, f ||| f' ||| f'')

/-- Round (-1)^neg * (m1 / m2) * 2^e for nonzero m1 and m2. -/
def fpRatio (rm : BitVec 2) (t : Tag) (neg : Bool) (m1 m2 : Nat) (e : Int) : Nat × BitVec 5 :=
  let k := fracBits t + 5 + m2.log2 - m1.log2
  let num := m1 * 2 ^ k
  let q := num / m2
  fpRound rm t neg (2 * q + (if num % m2 == 0 then 0 else 1)) (e - (k : Int) - 1)

/-- fdiv, R177, R93. -/
def fpDiv (rm : BitVec 2) (t : Tag) (x y : Nat) : Nat × BitVec 5 :=
  match fpDecode t x, fpDecode t y with
  | .nan s, .nan s' => (fpNaN t, if s || s' then fNV else 0#5)
  | .nan s, _ => (fpNaN t, if s then fNV else 0#5)
  | _, .nan s => (fpNaN t, if s then fNV else 0#5)
  | .inf _, .inf _ => (fpNaN t, fNV)
  | .inf a, .fin b _ _ => (fpSigned t (a != b) (fpInfMag t), 0#5)
  | .fin a _ _, .inf b => (fpSigned t (a != b) 0, 0#5)
  | .fin n1 m1 e1, .fin n2 m2 e2 =>
    let neg := n1 != n2
    if m2 == 0 then
      if m1 == 0 then (fpNaN t, fNV) else (fpSigned t neg (fpInfMag t), fDZ)
    else if m1 == 0 then (fpSigned t neg 0, 0#5)
    else fpRatio rm t neg m1 m2 (e1 - e2)

/-- The integer square root, one bit at a time from bit `bits - 1`. -/
def isqrtGo (n : Nat) : Nat → Nat → Nat
  | 0, r => r
  | i + 1, r => isqrtGo n i (if (r + 2 ^ i) * (r + 2 ^ i) ≤ n then r + 2 ^ i else r)
/-- The integer square root. -/
def isqrt (n : Nat) : Nat := isqrtGo n (n.log2 / 2 + 1) 0

/-- fsqrt, R177. -/
def fpSqrt (rm : BitVec 2) (t : Tag) (x : Nat) : Nat × BitVec 5 :=
  match fpDecode t x with
  | .nan s => (fpNaN t, if s then fNV else 0#5)
  | .inf true => (fpNaN t, fNV)
  | .inf false => (fpInfMag t, 0#5)
  | .fin neg m e =>
    if m == 0 then (fpSigned t neg 0, 0#5)
    else if neg then (fpNaN t, fNV)
    else
      let k := fracBits t + 5
      let odd := if e % 2 == 0 then 0 else 1
      let n := m * 2 ^ (2 * k + odd)
      let r := isqrt n
      fpRound rm t false (2 * r + (if r * r == n then 0 else 1)) ((e - (odd : Int)) / 2 - (k : Int) - 1)

/-- a < b, with -0 equal to +0; false with a NaN. -/
def FVal.lt : FVal → FVal → Bool
  | .nan _, _ | _, .nan _ => false
  | .inf a, .inf b => a && !b
  | .inf a, .fin _ _ _ => a
  | .fin _ _ _, .inf b => !b
  | .fin n1 m1 e1, .fin n2 m2 e2 =>
    let e := if e1 ≤ e2 then e1 else e2
    let v1 : Int := (m1 * 2 ^ (e1 - e).toNat : Nat)
    let v2 : Int := (m2 * 2 ^ (e2 - e).toNat : Nat)
    decide ((if n1 then -v1 else v1) < (if n2 then -v2 else v2))
/-- a = b as numbers; false with a NaN. -/
def FVal.eqv (a b : FVal) : Bool := !a.isNaN && !b.isNaN && !a.lt b && !b.lt a
/-- The sign bit of a number. -/
def FVal.sign : FVal → Bool
  | .nan _ => false
  | .inf n => n
  | .fin n _ _ => n

/-- fmin (`mx` false) and fmax, R95: encodings in and out. -/
def fpMinMax (mx : Bool) (t : Tag) (x y : Nat) : Nat × BitVec 5 :=
  let a := fpDecode t x
  let b := fpDecode t y
  let f := a.nv ||| b.nv
  if a.isNaN && b.isNaN then (fpNaN t, f)
  else if a.isNaN then (y, f)
  else if b.isNaN then (x, f)
  else
    let xLess := a.lt b || (a.eqv b && a.sign && !b.sign)
    (if xLess == mx then y else x, f)

/-- feq, R181. -/
def fpEq (t : Tag) (x y : Nat) : Bool × BitVec 5 :=
  let a := fpDecode t x
  let b := fpDecode t y
  (a.eqv b, a.nv ||| b.nv)
/-- flt, R181. -/
def fpLt (t : Tag) (x y : Nat) : Bool × BitVec 5 :=
  let a := fpDecode t x
  let b := fpDecode t y
  (a.lt b, if a.isNaN || b.isNaN then fNV else 0#5)
/-- fle, R181. -/
def fpLe (t : Tag) (x y : Nat) : Bool × BitVec 5 :=
  let a := fpDecode t x
  let b := fpDecode t y
  (a.lt b || a.eqv b, if a.isNaN || b.isNaN then fNV else 0#5)
/-- funord, R181. -/
def fpUnord (t : Tag) (x y : Nat) : Bool × BitVec 5 :=
  let a := fpDecode t x
  let b := fpDecode t y
  (a.isNaN || b.isNaN, a.nv ||| b.nv)

/-- Conversion between floating-point formats, R94. -/
def fpConv (rm : BitVec 2) (src dst : Tag) (x : Nat) : Nat × BitVec 5 :=
  let v := fpDecode src x
  let (r, f) := fpPack rm dst v
  (r, v.nv ||| f)

/-- Clamp to lo..hi. -/
def clampInt (lo hi v : Int) : Int := if v < lo then lo else if hi < v then hi else v

/-- Conversion of a datum to an integer between lo and hi, R94. -/
def fpToInt (rm : BitVec 2) (lo hi : Int) (v : FVal) : Int × BitVec 5 :=
  match v with
  | .nan _ => (0, fNV)
  | .inf n => (if n then lo else hi, fNV)
  | .fin n m e =>
    let (q, inexact) := roundAt rm n m e 0
    let x : Int := if n then -(q : Int) else q
    if x < lo then (lo, fNV) else if hi < x then (hi, fNV) else (x, if inexact then fNX else 0#5)

/-- Conversion of an integer, R94. -/
def fpOfInt (rm : BitVec 2) (t : Tag) (v : Int) : Nat × BitVec 5 :=
  fpRound rm t (decide (v < 0)) v.natAbs 0

/-- fround, R179. -/
def fpIntegral (rm : BitVec 2) (t : Tag) (x : Nat) : Nat × BitVec 5 :=
  match fpDecode t x with
  | .nan s => (fpNaN t, if s then fNV else 0#5)
  | .inf n => (fpSigned t n (fpInfMag t), 0#5)
  | .fin n m e =>
    let (q, inexact) := roundAt rm n m e 0
    if inexact then ((fpRound rm t n q 0).1, fNX) else (x, 0#5)

/-- fclass, R180: the bit number of the class. -/
def fpClass (t : Tag) (x : Nat) : Nat :=
  match fpDecode t x with
  | .nan true => 8
  | .nan false => 9
  | .inf n => if n then 0 else 7
  | .fin n m _ =>
    if m == 0 then (if n then 3 else 4)
    else if m < 2 ^ fracBits t then (if n then 2 else 5)
    else if n then 1 else 6

/-- One level of Tree (R103): pairwise rounded sums. -/
def treeLevel (rm : BitVec 2) (t : Tag) : List FVal → List FVal × BitVec 5
  | a :: b :: rest =>
    let (v, f) := fpSumV rm a b
    let (r, f') := fpPack rm t v
    let (rs, g) := treeLevel rm t rest
    (fpDecode t r :: rs, f ||| f' ||| g)
  | l => (l, 0#5)
/-- Tree(F, p), R103, over 2^j exact terms: the value and the flags. -/
def treeSum (rm : BitVec 2) (t : Tag) : Nat → List FVal → FVal × BitVec 5
  | 0, l => (l.headD (.fin false 0 0), 0#5)
  | j + 1, l =>
    let (l', f) := treeLevel rm t l
    let (v, g) := treeSum rm t j l'
    (v, f ||| g)

/-! ### The draw function -/

/-- One round of Draw, R107. -/
def drawRound (x k : BitVec 64) : BitVec 64 :=
  let x := x + k
  let x := x ^^^ (x >>> 29)
  let x := x * 0xC2F15E84A7D33B6B#64
  x ^^^ (x >>> 32)
/-- The rounds of Draw. -/
def drawGo : Nat → BitVec 64 → BitVec 64 → BitVec 64
  | 0, x, _ => x
  | n + 1, x, k => drawGo n (drawRound x k) (k + 0x6A5D39E1F84CB217#64)
/-- Draw(K, C), R107. -/
def draw (key c : BitVec 64) : BitVec 64 := drawGo 6 c key

/-- Uniform(x) as the numerator over 2^53, R108. -/
def uniformNum (x : BitVec 64) : Nat := x.toNat / 2 ^ 11 + 1
/-- Uniform(x) in f64, R108. -/
def uniformVar (x : BitVec 64) : BitVec 64 := BitVec.ofNat 64 (fpRound 0#2 .f64 false (uniformNum x) (-53)).1
/-- Index(x, n), R108. -/
def drawIndex (x : BitVec 64) (n : Nat) : Nat := x.toNat * n / 2 ^ 64

/-- The series of artanh in units of 2^-300: the sum of s^(2i+1)/(2i+1), `pw` the next power of s. -/
def atanhGo (s2 : Nat) : Nat → Nat → Nat → Nat
  | 0, _, _ => 0
  | f + 1, pw, i => pw / (2 * i + 1) + atanhGo s2 f (pw * s2 / 2 ^ 300) (i + 1)
/-- ln(num / den) for den ≤ num ≤ 2 den, in units of 2^-300. -/
def lnFix (num den : Nat) : Nat :=
  let s := (num - den) * 2 ^ 300 / (num + den)
  2 * atanhGo (s * s / 2 ^ 300) 100 s 0
/-- ExpVar(x): -ln Uniform(x) rounded once to f64, R108. The 300-bit value lies within 2^-290 of the real one. -/
def expVar (x : BitVec 64) : BitVec 64 :=
  let u := uniformNum x
  if u == 2 ^ 53 then 0#64
  else
    let l := u.log2
    let v := (53 - l) * lnFix 2 1 - lnFix u (2 ^ l)
    BitVec.ofNat 64 (fpRound 0#2 .f64 false (2 * v + 1) (-301)).1

end Sys2Proof.Machine
end

