-- ==== Sys2Proof/Config.lean ====
section
/-! DEFINITION. What the spec leaves open. Every constant here is opaque: nothing in the model or in a proof can know
its value. Each is applied to the state's counter of free values, which advances with every use, so that every use
may have a value of its own. -/
namespace Sys2Proof.Config

/-- Which of two contents an access sees where the device may choose: the old or the new translation (05 R123), the
old or the new instruction word (03 R62), the source's old value or the copied one (15 R305). -/
opaque freeChoice : Nat → Bool
/-- A 64-bit value that the spec does not state. -/
opaque freeWord : Nat → BitVec 64
/-- A byte that the spec does not state: SPDM responses, signatures, certificates (23 R419). -/
opaque freeByte : Nat → BitVec 8
/-- The firmware that measurement blocks 1 and 2 are taken over (23 R420). -/
opaque firmware : Nat → List (BitVec 8)
/-- The silicon stepping (23 R409). -/
opaque stepping : BitVec 16

end Sys2Proof.Config
end

