-- ==== Sys2Proof/Machine/State.lean ====
section
/-! DEFINITION. The state of the device: plain data holding every piece of state that the spec names, the reasons a
step can stop, and the state after reset.

Numbers: a core is its global number g = 80d + 8r + c (00 R4); a cluster is 10d + r = g / 8; a die is g / 80.
Tasks and launches have internal numbers (`uid`, `lid` is the architectural identity). A location of memory is one
natural number: a physical address below 2^52 (05 R118); 2^52 + cluster * 2^21 + offset for CLM (05 R111);
2^53 + cluster * 2^22 + slot * 2^13 + byte for operand memory (16 R315). -/
namespace Sys2Proof.Machine

/-- Why the machine stops with a fault. -/
inductive Fault where
  /-- Raised by `step` alone, when the agenda lets a task issue that holds no context: the device issues
  instructions of resident tasks only (11 R230). Safe. -/
  | noResidentTask
  /-- Raised by `step` alone, when the agenda has a load performed that finds another value than the one which the agenda
  gave the load beforehand: no run of the device goes so (06 R129). Safe. -/
  | wrongGuess
deriving DecidableEq, Repr

/-- Why an instruction is refused. -/
inductive Refusal where
  /-- Raised by `exec` for an instruction without a meaning. No arm raises it now. Safe. -/
  | notModelled (mnemonic : String)
deriving DecidableEq, Repr

/-- What happens next, when the model's agenda says so: a step of the device, an instruction of a task, or time; a walk for
an address of a task, made before the access that uses it (05 R123); a word for the instruction cache of a task's core, fetched
before the instruction (03 R62); the bytes of an aligned 8-byte word that a load of a task returns before it is performed, and
the performance of the k-th load that has returned so (06 R129). -/
inductive Act where
  | event (i : Instr)
  | issue (u : Nat)
  | tick (n : Nat)
  | walk (u : Nat) (va : Word)
  | prefetch (u : Nat) (va : Word)
  | guess (u w : Nat) (bytes : List (BitVec 8))
  | redeem (k : Nat)
deriving DecidableEq, Repr

/-- An order pair (11 R246): keys first, then lids; where both are equal, creation words and then cores of creation decide
(R232). -/
structure Pair where
  key : Word := 0#64
  lid : Word := 0#64
  cw : Word := 0#64
  born : Nat := 0
deriving DecidableEq, Repr

/-- A trap as an instruction raises it: cause fields of 07 R160, tval and xval. -/
structure TrapInfo where
  code : BitVec 8 := 0#8
  tval : Word := 0#64
  kind : BitVec 4 := 0#4
  wlev : BitVec 4 := 0xF#4
  detail : BitVec 8 := 0#8
  imp : Bool := false
  xval : Word := 0#64
deriving DecidableEq, Repr

/-- The answer of an operation of an instruction: a value, a precise trap, or a wait at issue. -/
inductive Out (α : Type) where
  | ok (a : α)
  | trap (t : TrapInfo)
  | wait
deriving DecidableEq, Repr

/-- What an access needs of its page, 05 R121. -/
structure Need where
  rd : Bool := false
  w : Bool := false
  x : Bool := false
deriving DecidableEq, Repr

/-- Where a byte is: its location and what its page says of it (05 R120). -/
structure Loc where
  loc : Nat := 0
  clm : Bool := false
  det : Bool := false
  sysatom : Bool := false
  cache : BitVec 2 := 0#2
  key : BitVec 4 := 0#4
deriving DecidableEq, Repr

/-- Who makes an access: partition, core (for its TLB), cluster, whether the launch runs in dmode 1 or 2, and whether
the queue area at the top of CLM is open to it (11 R242). -/
structure Agent where
  vf : Nat := 0
  core : Nat := 0
  cl : Nat := 0
  det : Bool := false
  queueArea : Bool := false
  lid : Word := 0#64           -- the acting task's, for an MCHK (25 R440)
deriving DecidableEq, Repr

/-- A run of bytes of one page: its first virtual address, its location and its length. -/
structure Seg where
  va : Word := 0#64
  at_ : Loc := {}
  len : Nat := 0
deriving DecidableEq, Repr

/-- A refused translation: the lowest faulting address, the cause code, the walk level and the detail (05 R124). -/
structure XFault where
  va : Word := 0#64
  code : BitVec 8 := 0#8
  wlev : BitVec 4 := 0xF#4
  detail : BitVec 8 := 0#8
  lid : Word := 0#64           -- the acting task's, for an MCHK (25 R440)
deriving DecidableEq, Repr

/-! ### Tasks -/

/-- One trap bank, 07 R159. -/
structure Bank where
  cause : Word := 0#64
  ret : Word := 0#64
  tval : Word := 0#64
  save : Word := 0#64
  scr : Word := 0#64
  tvec : Word := 0#64
  xval : Word := 0#64
deriving DecidableEq, Repr

/-- The capture of perf, 08 R199. -/
structure Perf where
  active : Bool := false
  group : BitVec 8 := 0#8
  c0 : Word := 0#64
  c1 : Word := 0#64
  c2 : Word := 0#64
  c3 : Word := 0#64
  wrapped : Bool := false
  switched : Bool := false
  outTime : Word := 0#64
  start : Word := 0#64
deriving DecidableEq, Repr

/-- A store-fault record, 07 R164. -/
structure FaultRec where
  q0 : Word := 0#64
  q1 : Word := 0#64
  q2 : Word := 0#64
  q3 : Word := 0#64
  issued : Nat := 0            -- the task's retired count when the store issued (the 64-instruction bound)
  told : Bool := false         -- it has been reported at that bound
  detail : BitVec 8 := 0#8     -- cause.detail of its report, the unit of an MCHK (25 R440)
deriving DecidableEq, Repr

/-- The combining operation of a RED (08 R189). -/
inductive RedOp where
  | add | min | max | and | or | xor | fadd
deriving DecidableEq, Repr

/-- What a store-queue entry does to its bytes: write them, or combine a value (08 R189). -/
inductive StoreKind where
  | plain
  | red (op : RedOp) (t : Tag) (x : Word)
deriving DecidableEq, Repr

/-- A store that has issued and is not yet performed at its home (06 R131, 03 R75): `cells` are the bytes still in the
queue; others are in the L1 or on their way to the home under the serial `ser`. -/
structure StoreEnt where
  pc : Word := 0#64
  va : Word := 0#64
  kind : Nat := 2              -- access kind of 07 R160: 2 store, 5 RED, 9 vector store
  width : Nat := 8             -- element width in bytes
  op : StoreKind := .plain
  cells : List Host.Cell := []  -- location and byte, in ascending address order
  vas : List Nat := []         -- the virtual address of each byte
  ser : Nat := 0               -- the serial that its writes in the L1 and on the way to the home carry; 0 none yet
  split : Bool := false        -- a RED to host memory without SYSATOM: a read, then a write (06 R140)
  rmw : Bool := false          -- the write of such a RED, whose read has been made
  tracked : Bool := false      -- det = 1 page or CLM in dmode 1 or 2 (06 R148)
  direct : Bool := false       -- page with cache = 1 or 2, host memory, or CLM (06 R146)
  rel : Option (BitVec 3) := none
  issued : Nat := 0            -- the task's retired count at issue (the 64-instruction bound)
  keys : Map (BitVec 256) := []  -- its sectors under another key than slot 0's, and their keys (05 R118)
deriving DecidableEq, Repr

/-- Where a load puts its value. -/
inductive LoadDst where
  | x (d : BitVec 5) (t : Tag)             -- a register, extended by the tag
  | v (d : BitVec 5) (width : Nat)         -- elements of a vector register
deriving DecidableEq, Repr
/-- An element, or a byte, of a load that may still be performed: its index, its locations, and the bytes of an earlier
performance that it may take (06 R129); `due` where that performance is still to come. -/
structure LoadPart where
  idx : Nat := 0
  locs : List Nat := []
  early : List Byte := []
  due : Bool := false
deriving DecidableEq, Repr
/-- A load in counter L (03 R75). Until its register is used or the task orders it, it may still be performed (06 R129):
`parts` are the elements, or the bytes of a misaligned access, that LOAD_RETURN may read again. -/
structure LoadEnt where
  dst : LoadDst := .x 0#5 .i64
  bytes : List Byte := []      -- the bytes found so far, of a scalar load
  parts : List LoadPart := []
  write : List Host.Cell := []  -- the write of an AMO that the host agent has read for (06 R140)
  acq : Bool := false          -- an acquire: it is performed before the task's next instruction (06 R127)
  wide : Bool := false         -- an acquire at a scope that the L1 is not within (06 R127, R135)
  keys : Map (BitVec 256) := []  -- as of StoreEnt
  slot : Option Nat := none    -- the stack slot of a destination a0-a15: calls and returns slide the window (07 R154)
  fenced : Bool := false       -- a release fence stands after it: it is performed before the next plain write (06 R127)
deriving DecidableEq, Repr

/-- An aligned 8-byte word read ahead of the loads that may take it (06 R129): its bytes, the key and tweak under which its sector
was read (05 R118), or `due` where the agenda has given the bytes of a performance to come. -/
structure EarlyWord where
  word : Nat := 0
  bytes : List Byte := []
  held : BitVec 256 × Nat := (0#256, 0)
  due : Bool := false
deriving DecidableEq, Repr
/-- A load that has returned bytes and is still to be performed (06 R129). -/
structure Owed where
  owner : Nat := 0
  core : Nat := 0
  vf : Nat := 0
  locs : List Nat := []
  bytes : List Byte := []
  keys : Map (BitVec 256) := []
deriving DecidableEq, Repr

/-- State of one identifier of a context's copy commands, 15 R296. -/
inductive CopyState where
  | busy | done | fault
deriving DecidableEq, Repr

/-- A copy record of the context, 15 R307, 07 R153 offset 0x1400. -/
structure CopyRec where
  id : BitVec 16 := 0#16
  st : CopyState := .busy
  unreported : Bool := false
  fn : BitVec 8 := 0#8
  detail : BitVec 8 := 0#8
  wlev : BitVec 4 := 0xF#4
  tval : Word := 0#64
  written : Word := 0#64
  promise : Option Word := none
deriving DecidableEq, Repr

/-- A message to a post register or a channel, 11 R260. -/
structure Msg where
  chan : Bool := false
  idx : Nat := 0
  dst : Nat := 0               -- target core
  val : BitVec 1024 := 0#1024
  tag : Tag := .n64
  sender : Nat := 0            -- the sending task
  lid : Word := 0#64
  src : Nat := 0               -- the sending core
  launch : Nat := 0
  pair : Option Pair := none   -- an ordered sender's pair
  prov : Bool := false         -- provisional (11 R245)
  sent : Word := 0#64
  arrived : Word := 0#64
  rel : Option (BitVec 3) := none
  kill : Bool := false         -- a kill lid to p31 (07 R165)
  ser : Nat := 0               -- a number of its own from its arrival on, by which the task that it activates knows it (24 R430)
  counted : Bool := false      -- its delay is in the table of its core (24 R430)
  stored : Nat := 0            -- 0 on chip, 1 in the partition queue area, 2 in the swap area (11 R242)
  left : Nat := 0              -- the serial under which it went to the swap area
deriving DecidableEq, Repr

/-- A leaf update that a context has sent to its region, 19 R359. -/
structure LeafUpd where
  add : Bool := false
  pc : Word := 0#64
  region : Word := 0#64
  leaf : Word := 0#64
  val : Word := 0#64
  issued : Nat := 0            -- the task's retired count at issue (20 R372)
deriving DecidableEq, Repr

/-- What an access does to a word (06 R149). -/
inductive TrackAcc where
  | read | write | both | red (op : RedOp) (width : Nat)
deriving DecidableEq, Repr
/-- A read of an ordered task, 11 R247: the 4-byte word and the version's owner pair, none for the ordinary value. -/
structure ReadRec where
  word : Nat := 0
  own : Option Pair := none
deriving DecidableEq, Repr

/-- What a task is, fixed at creation (11 R230-R236). -/
structure TaskId where
  lid : Word := 0#64
  cw : Word := 0#64
  launch : Nat := 0
  vf : Nat := 0
  kind : BitVec 4 := 0#4       -- tinfo.kind, R236
  ord : Bool := false
  entry : Word := 0#64
  tag : BitVec 6 := 63#6       -- routing tag, 24 R424
  creator : Nat := 0           -- the creating task, 0 for none
  creatorLid : Option Word := none  -- for 06 R150
  args : List Word := []
  bud : BitVec 63 := 0#63      -- tbudinit at creation, 0 for no budget
  born : Nat := 0              -- the core it was created on
  msgFrom : Nat := 0           -- the sender of the message that activated it (11 R247 case 3)
  bind : Option Nat := none    -- the binding it is an activation of
  cell : Option (Nat × Nat × Nat) := none  -- rfork recruit: cluster, cell, index (11 R257)
  region : Option (Nat × Nat × Word) := none  -- Garnet handler: cluster, region, event index (19 R358)
  handler : Bool := false      -- pre-emption handler (22 R403)
  msgSrc : Nat := 0            -- 24 R430
  msgSent : Word := 0#64
  msgArr : Word := 0#64
  msgSer : Nat := 0
deriving DecidableEq, Repr

/-- Where a task is, 11 R230. `unqueued` is ABORTED, or created, and not yet in a queue: it waits for an entry. -/
inductive Life where
  | unqueued | queued | resident | exited
deriving DecidableEq, Repr
/-- State of the context that holds the task, 07 R152 (EMPTY is a context without a task). -/
inductive RunSt where
  | ready | wait | out
deriving DecidableEq, Repr

/-- A kill that waits for a kill point, 13 R284: code, tval, level and reason of its record. -/
structure PendKill where
  code : BitVec 8 := 0#8
  tval : Word := 0#64
  level : BitVec 2 := 0#2
  reason : BitVec 2 := 1#2
  quorum : Option (Nat × Nat) := none   -- the released cell of an unarrived member: cluster, cell
deriving DecidableEq, Repr

/-- Placement and progress of a task. -/
structure Place where
  core : Nat := 0
  ctx : Nat := 0
  life : Life := .queued
  run : RunSt := .ready
  doomed : Bool := false       -- to be aborted (11 R247)
  discard : Bool := false      -- and then not requeued (11 R248 step 3, 19 R362)
  pend : Option PendKill := none
  stopped : Bool := false      -- by the debugger (24 R425)
  retired : Nat := 0
  stack : Option Nat := none   -- stack slot held (22 R397)
  passed : Bool := false       -- its deadline has passed (11 R233)
  saved : Bool := false        -- its register image is in memory (07 R152, 22 R404)
  swapped : Bool := false      -- its queue entry is in the launch's swap area (11 R242)
  left : Nat := 0              -- the serial under which it went there
  qarea : Bool := false        -- its queue entry is in the partition queue area
  reserve : Option (BitVec 4 × Word) := none  -- what a waiting trejoin has reserved, and the register's value before
  outAt : Word := 0#64         -- dtime of the switch-out
  backAt : Word := 0#64        -- dtime at which a context took it again
  waitSeq : Option (BitVec 16) := none  -- the seq of the cell when a qwait began to wait (13 R290)
  waitPost : Option Nat := none  -- the post register for which it waits in a pwait (11 R241)
  got : Option Msg := none     -- the message that this wait has been given, not yet in its register (11 R241)
  answer : Bool := false       -- the answer of a Garnet command is on its way: the results are in its registers (20 R371, R375)
  want : Option Nat := none    -- the context kept for it (11 R257)
  began : Option Word := none  -- dtime of its first dispatch
  issuedAt : Word := 0#64      -- dtime of its latest issue (11 R234)
deriving DecidableEq, Repr

/-- The register image: scalar window, vector, handle and scale registers. -/
structure Regs where
  pc : Word := 0#64
  wbase : Word := 0#64
  slots : Map Word := []       -- stack slots held in the register cache, by address / 8
  lines : List (Nat × Bool) := []  -- resident 128-byte lines and whether they are dirty
  g : Map Word := []
  v : Map (BitVec 1024) := []
  vt : Map Tag := []           -- tags; unlisted is empty
  m : Map (BitVec 32) := []
  h : Map Word := []
  k : Map (BitVec 32) := []
  bad : List Nat := []         -- poisoned stack slots of the register cache (25 R440)
deriving DecidableEq, Repr

/-- The system registers of a task. -/
structure Sys where
  stkbase : Word := 0#64
  stklim : Word := 0#64
  dz : Bool := false
  timeok : Bool := false
  tl : BitVec 2 := 0#2
  lastBank : BitVec 2 := 0#2   -- the last bank taken, 0 for none (07 R165, krec2)
  fflags : BitVec 5 := 0#5
  b1 : Bank := {}
  b2 : Bank := {}
  mdsel : BitVec 7 := 0#7
  lcoord : Word := 0#64
  key : Word := 0#64
  budOn : Bool := false
  budLeft : BitVec 63 := 0#63
  budInit : BitVec 63 := 0#63
  cre : BitVec 32 := 0#32
  cfault : Word := 0#64
  cdone : Word := 0#64
deriving DecidableEq, Repr

/-- The operations a task has outstanding. -/
structure Io where
  lq : List LoadEnt := []      -- loads not returned; counter L is its length (03 R75)
  early : List EarlyWord := []
  sq : List StoreEnt := []     -- the store queue, oldest first; counter S is its length
  sfq : List FaultRec := []    -- store-fault records, head first
  ovf : Bool := false
  cc : BitVec 16 := 0#16
  crecs : List CopyRec := []   -- the 64 latest, oldest first; counter C is how many are busy
  tiles : Nat := 0             -- counter T
  inbound : List Nat := []     -- PENDING handle registers that hsend moved here within the cluster (16 R321)
  held : List Msg := []        -- messages held until commit (11 R245), oldest first
  upds : List LeafUpd := []    -- leaf updates sent and not yet performed
  reads : List ReadRec := []   -- ordered reads recorded at the homes (11 R247)
  unord : List (Nat × TrackAcc × Nat) := []  -- accesses that enter tracking at commit (01 R25): word, access, va
  stood : List Host.Cell := []  -- bytes of an ordered task's ordinary writes to those words (11 R442)
  wrote : List Nat := []       -- lines written and not ordered by a release since (06 R132)
  perf : Perf := {}
deriving DecidableEq, Repr

/-- A task. -/
structure Task where
  tid : TaskId := {}
  pl : Place := {}
  rf : Regs := {}
  sy : Sys := {}
  io : Io := {}
deriving DecidableEq, Repr

/-! ### Cores -/

/-- A binding of a post register or a channel, 11 R241. -/
structure Binding where
  entry : Word := 0#64
  key : Option Word := none    -- none: an ordered binding uses the message's key
  ord : Bool := false
  bud : Option Word := none
  launch : Nat := 0
  vf : Nat := 0
  binder : Nat := 0
  binderLid : Word := 0#64
  count : BitVec 32 := 0#32
  live : Nat := 0              -- the live activation of a channel binding, 0 for none
deriving DecidableEq, Repr

/-- A breakpoint, 24 R426. -/
structure Break where
  entry : Word := 0#64
  tag : Option (BitVec 6) := none
  lid : Option Word := none
  stop : Bool := false
deriving DecidableEq, Repr

/-- An entry of the message delay table, 24 R430. -/
structure Delay where
  sender : Nat := 0
  count : Nat := 0
  transit : Nat := 0
  queue : Nat := 0
  run : Nat := 0
deriving DecidableEq, Repr

/-- What an accepted tile instruction does when it completes, 16 R325. -/
inductive TileKind where
  | load (t : Tag) (int4 : Bool) (cells : List Nat)   -- memory locations of the image's bytes
  | store (cells vas lost : List Nat) (scales : List (BitVec 32)) (target : Tag)
  | mma (a b : Word)
  | zero
  | cvt (src : Word) (scales : List (BitVec 32)) (rm : BitVec 2)
deriving DecidableEq, Repr

/-- An accepted tile instruction. `dst` is the handle value whose slots it writes or, for a store, reads. -/
structure TileOp where
  owner : Nat := 0
  pc : Word := 0#64
  what : TileKind := .zero
  dst : Word := 0#64
  vf : Nat := 0
  launch : Nat := 0
  acq : Bool := false          -- the owner's later accesses come after it (06 R142)
  rel : Option (BitVec 3) := none  -- a release at the scope (06 R142)
  wrote : Bool := false        -- its data effect has been made; the release is not yet performed at its scope
  holds : List (Nat × Nat) := []  -- handle registers, by task, that hsend moved and that become LIVE only after it (16 R321)
  keys : Map (BitVec 256) := []  -- as of StoreEnt
  wide : Bool := false         -- as of LoadEnt
  dead : Bool := false         -- the owner was killed as an unreleased member: its versions are discarded (06 R145)
deriving DecidableEq, Repr

/-- One core's task engine, breakpoints and queues. -/
structure CoreSt where
  posts : Map Msg := []        -- present post registers with the message that set them
  pendPosts : List Msg := []   -- messages waiting for a post register, oldest first
  chans : Map (List Msg) := [] -- channel entries, head first
  inbuf : List Msg := []       -- the input buffer, oldest first
  binds : Map Binding := []    -- 0-31 post registers, 32-35 channels
  killq : Map (List FaultRec) := []  -- kill records per launch, head first (07 R165)
  horizon : Word := 0xFFFFFFFFFFFFFFFF#64
  senders : Map (Nat × Word) := []   -- the phase and first sender lid of each target (01 R30)
  breaks : Map Break := []
  stopped : Bool := false
  delay : Map (List Delay) := []     -- per launch; the entry with sender 5120 is the overflow bucket
  tileq : List TileOp := []
  half : Bool := false         -- which register cache half is active (07 R155)
  swapDue : Bool := false      -- an outgoing launch's lines have been written back; the incoming one's have not filled (22 R404)
  cycle : Word := 0#64         -- the cycle of the core's latest issue
  ports : List Nat := []       -- ports that have issued in it: 0 scalar, 1 vector, 2 engine command (01 R18)
deriving DecidableEq, Repr

/-! ### Clusters -/

/-- A lineage entry, 16 R322. -/
structure Lineage where
  parent : Word := 0#64
  axis : Bool := false
  cut : BitVec 3 := 0#3
  launch : Nat := 0
  gone0 : Bool := false
  gone1 : Bool := false
  freed0 : Bool := false       -- that side's slots have been freed, its own split being at an end (17 R333)
  freed1 : Bool := false
deriving DecidableEq, Repr

/-- A transfer the copy engine runs, 15 R295. -/
inductive CopyKind where
  | shape (src dst : Word) (len n1 n2 : Nat) (srow drow splane dplane : Word)
  | fill (dst pat : Word) (len : Nat)
  | tileLd (h : BitVec 4) (hv : Word) (addr : Word)
  | tileSt (h : BitVec 4) (hv : Word) (addr : Word)
  | unseal (dst : Word) (tile : Option (BitVec 4 × Word)) (src : Word) (slot : Nat) (first n : Nat) (key : BitVec 256)
  | hsend (hv hv' : Word) (cl' : Nat) (uid' : Nat) (n' : BitVec 4)
deriving DecidableEq, Repr

/-- A queued transfer. -/
structure CopyCmd where
  owner : Nat := 0
  core : Nat := 0
  ctx : Nat := 0
  lid : Word := 0#64
  launch : Nat := 0
  vf : Nat := 0
  id : BitVec 16 := 0#16
  what : CopyKind := .fill 0#64 0#64 0
  acq : Bool := false
  rel : Bool := false
  scope : BitVec 3 := 0#3
  pos : Nat := 0               -- bytes of the command already moved
  todo : List (Sum Nat Byte × Nat) := []  -- the beat in hand: where each byte comes from, or the byte, and where it goes (05 R111)
  upto : Nat := 0              -- where the beat in hand ends
  keys : Map (BitVec 256) := []  -- the keys of its sectors that are not under slot 0's
  sealed : List Byte := []     -- what has been read of the chunk record in hand (15 R304)
  size : Nat := 0              -- bytes that it writes
  creatorLid : Option Word := none
  ord : Bool := false          -- its issuer is an ordered task
  track : Bool := false        -- its accesses are tracked under the issuer's lid (15 R305)
  old : List Host.Cell := []   -- bytes it has overwritten, as they were before it (15 R305)
  ahead : List Host.Cell := []  -- the rest of the source word at which the last beat ended: it was read whole (15 R305)
  plain : List Byte := []      -- plaintext of the chunk in hand (15 R304)
  quorum : Option (Nat × Nat) := none  -- the issuer's unreleased Opal membership: cluster, cell
  dead : Bool := false         -- the issuer was killed as an unreleased member: translated writes are discarded
deriving DecidableEq, Repr

/-- State of a group entry, 13 R269. -/
inductive GroupSt where
  | free | barrier | quorum
deriving DecidableEq, Repr
/-- A member of a group. -/
structure Member where
  uid : Nat := 0
  idx : Nat := 0
  arrived : Bool := false
  phase : Nat := 0             -- the phase it arrived in
  due : Option (Nat × Nat) := none  -- an arrival on its way: the member's retired count and the serial of stores at it (R275)
deriving DecidableEq, Repr
/-- A group entry, 13 R269-R273. -/
structure Group where
  st : GroupSt := .free
  launch : Nat := 0
  phase : Nat := 0             -- pending phase
  out : Nat := 0               -- the phase whose start the sweep network has delivered (R274)
  row0 : Nat := 0
  col0 : Nat := 0
  rows : Nat := 0
  cols : Nat := 0
  cell : Nat := 0
  n : Nat := 0
  members : List Member := []
deriving DecidableEq, Repr

/-- State of an Opal cell, 13 R276. -/
inductive CellSt where
  | idle | armed | released
deriving DecidableEq, Repr
/-- An Opal cell, 13 R276-R285. -/
structure Opal where
  st : CellSt := .idle
  seq : BitVec 16 := 0#16
  flags : BitVec 5 := 0#5
  n : Nat := 0
  q : Nat := 0
  how : BitVec 4 := 0#4
  launch : Nat := 0
  fork : Bool := false         -- armed by rfork (11 R257)
  tag : BitVec 4 := 0#4
  fill : BitVec 2 := 0#2
  dl : Bool := false
  deadline : Word := 0#64
  group : Nat := 0
  cont : Word := 0#64
  wts : List Word := []
  fillv : Word := 0#64
  stage : Word := 0#64
  arrived : List Nat := []     -- indices, arrival order
  held : List Nat := []        -- arrivals of members outside the recorded set (dmode 2)
  departed : List Nat := []
  recset : Option (List Nat) := none
  rec_ : Word := 0#64          -- the kept rec of its last qinit
  ptr : Word := 0#64
  last : Word := 0#64          -- the state word at its last release
  init : Nat := 0              -- the task that armed it
  initId : TaskId := {}
  initKey : Word := 0#64
  initBud : BitVec 63 := 0#63
  initCount : BitVec 32 := 0#32
  initCore : Nat := 0
  trip : Word := 0#64          -- rfork's trip count, a0 of its continuation
deriving DecidableEq, Repr

/-- A scheduled boundary event, 19 R357. -/
structure Bound where
  time : Word := 0#64
  pair : Pair := {}            -- the sender's
  sender : Nat := 0            -- the sending task
  sgr : Nat := 0
  scount : Word := 0#64
  leaf : Nat := 0
  payload : Word := 0#64
deriving DecidableEq, Repr

/-- What a log entry replaced, 19 R361. -/
inductive LogWhat where
  | event (clock : Word) (count : Word) (bound : Option Bound) (handler : Bool)
  | leaf (i : Nat) (old : Word)
  | sched (b : Bound)
  | read
deriving DecidableEq, Repr
/-- A log entry, 19 R361; owner 0 is the region itself. -/
structure LogEnt where
  pair : Pair := {}
  owner : Nat := 0
  what : LogWhat := .read
deriving DecidableEq, Repr

/-- A region, 19 R354. -/
structure Region where
  base : Nat := 0              -- first leaf
  leaves : Nat := 1
  wide : Nat := 1              -- engines
  e : Int := 0
  ordered : Bool := false
  clock : Word := 0#64
  count : Word := 0#64
  handlers : List Word := []
  draws : BitVec 2 := 0#2
  table : Nat := 0             -- CLM offset
  tlen : Nat := 0
  queue : List Bound := []
  log : List LogEnt := []
  look : Word := 0#64
  neigh : List Nat := []       -- global region numbers by look slot; unused slots hold none
  conservative : Bool := false
  armed : Bool := false
  pending : Nat := 0           -- the handler of the pending event
  held : Option Pair := none   -- a held arm, at the pair its event would have
  committed : Word := 0#64     -- the committed clock (20 R382)
  rearm : Option (BitVec 8 × Word) := none  -- the cause an engine re-arm met (19 R366)
  launch : Nat := 0
  phaseLid : Option (Nat × Word) := none  -- dmodes 1, 2: the phase's lid (19 R367)
deriving DecidableEq, Repr

/-- One cluster's engines. -/
structure ClusterSt where
  slots : Map Nat := []        -- claimed slots and the launch that holds each
  refs : Map Nat := []         -- references of a Shared tile, by base slot
  releasing : List Nat := []   -- freed slots that accepted instructions still name (17 R333)
  lineage : Map Lineage := []
  copyq : List CopyCmd := []
  busy : Word := 0#64          -- W of 15 R297
  turn : Nat := 0              -- the first core to consider for the next beat (15 R295)
  turnCtx : Map Nat := []      -- per core, the first context to consider for its next beat
  groups : Map Group := []
  cells : Map Opal := []
  leaves : Map Word := []
  regions : Map Region := []
  droop : Bool := false        -- the clock is stretched (25 R439)
  frac : Nat := 0              -- half nanoseconds of a stretched cycle that have passed
  slow : Word := 0#64          -- nanoseconds in which no cycle began, the clock being stretched (00 R7)
  bad : List EngineWord := []  -- poisoned words (25 R440)
deriving DecidableEq, Repr

/-! ### The memory system -/

/-- A cached translation, 05 R122: the page's virtual base, the log2 of its size, its leaf entry. -/
structure TlbEnt where
  at_ : Nat := 0               -- the core, or 5120 + the die for a die TLB
  vf : Nat := 0
  page : Nat := 0
  size : Nat := 16
  pte : Word := 0#64
deriving DecidableEq, Repr

/-- An update-only copy of one word, 06 R146. -/
structure RedCopy where
  core : Nat := 0
  loc : Nat := 0
  op : RedOp := .add
  t : Tag := .i64
  part : Word := 0#64
  key : Option (BitVec 256) := none   -- the key of its page, none for slot 0's
deriving DecidableEq, Repr

/-- A version, 01 R23. -/
structure Version where
  owner : Nat := 0
  pair : Pair := {}
  sector : Nat := 0
  spec : Bool := false
  quorum : Option (Nat × Nat) := none   -- cluster and cell of the membership
  seq : Nat := 0
  cells : List Host.Cell := []
  key : Option (BitVec 256) := none   -- as of RedCopy
deriving DecidableEq, Repr

/-- An entry of the ordered-atomic buffer, 11 R251. -/
structure Atomic where
  owner : Nat := 0
  pair : Pair := {}
  loc : Nat := 0
  op : BitVec 9 := 0#9         -- the AMO's fn
  t : Tag := .i64
  x : Word := 0#64
  expect : Word := 0#64
  key : Option (BitVec 256) := none   -- as of RedCopy
deriving DecidableEq, Repr

/-- Who made a tracked access: a lid, and whether by an ordered task (06 R150). -/
structure Who where
  lid : Word := 0#64
  ord : Bool := false
deriving DecidableEq, Repr
/-- A reader field, 06 R149; SHARED among ordered tasks alone conflicts with none of them (R150). -/
inductive Reader where
  | none | one (who : Who) | shared (ord : Bool)
deriving DecidableEq, Repr
/-- One sector entry or sub-entry of tracking, 06 R149. -/
structure TrackSub where
  writer : Option Who := none
  wmask : Nat := 0
  reader : Reader := .none
  rmask : Nat := 0
deriving DecidableEq, Repr
/-- The RED field, 06 R149. -/
structure TrackRed where
  op : RedOp := .add
  width : Nat := 8
  mask : Nat := 0
  who : Reader := .none
deriving DecidableEq, Repr
/-- The tracking entry of a sector or CLM block in a phase of a launch, 06 R148, R149. -/
structure Track where
  sector : Nat := 0
  launch : Nat := 0
  phase : Nat := 0
  subs : List TrackSub := []   -- one entry, or four after a split
  red : Option TrackRed := none
  born : List (Nat × Who) := []  -- words that a task has read of its creator's (R149, R150)
deriving DecidableEq, Repr

/-- A pinned line, 06 R132. -/
structure Pin where
  core : Nat := 0
  owner : Nat := 0
  line : Nat := 0
deriving DecidableEq, Repr

/-- Bytes of a store in the L1 (05 R115, 06 R131): performed at core scope, or with fl1 = 1 at cluster scope (R134), and not
yet at the die point. `unit` is the core, or 5120 + the cluster of a fused L1. -/
structure L1Piece where
  owner : Nat := 0
  ser : Nat := 0
  unit : Nat := 0
  cells : List Host.Cell := []
  keys : Map (BitVec 256) := []         -- as of StoreEnt
deriving DecidableEq, Repr

/-- A write on its way to a die, 06 R136, with its stamp; `ser` is its store's on the way to the home. -/
structure Flight where
  die : Nat := 0
  ser : Nat := 0
  src : Nat := 0
  stamp : Map Nat := []
  cells : List Host.Cell := []
  home : Bool := false         -- it goes to the home
deriving DecidableEq, Repr

/-- The memory system beside the bytes themselves; lines of clean data, walkers and counter banks are no fields. Log entry 123 (DESIGN
CHOICE). -/
structure MemSt where
  tlb : List TlbEnt := []
  icache : Map (Map (BitVec 32)) := []  -- per core: instruction words by location
  reds : List RedCopy := []
  versions : List Version := []
  atomics : List Atomic := []
  track : List Track := []
  pins : List Pin := []
  l1 : List L1Piece := []               -- oldest first
  flights : List Flight := []           -- oldest first
  lagging : Map (List Host.Cell) := []     -- per die: bytes whose replica differs from the home's
  replicas : List (Nat × Nat) := []     -- die and line
  clocks : Map (Map Nat) := []          -- per die: its vector clock
  poison : List (Nat × Nat) := []       -- poisoned words and their unit code (25 R440)
  ibad : List (Nat × Nat) := []         -- poisoned words of instruction caches: core and location
  keyed : Map (BitVec 256 × Nat) := []  -- sectors under another key than slot 0's: their key and tweak (05 R118, 23 R418)
  base : Map (BitVec 256 × Nat) := []   -- by link: the key, and the place in the link map, under which its other sectors stand (23 R421)
  owed : List Owed := []
  linkCap : Map Nat := []               -- bytes installed behind a link, where it differs from the default
  vseq : Nat := 0                       -- serial of versions and of stores that leave their queue
deriving DecidableEq, Repr

/-! ### Partitions, launches and the hub -/

/-- The state of a launch, 22 R394. -/
inductive LaunchSt where
  | free | queued | reserved | running | out | done | modeReject | orderReject | placeReject | flrAbort
deriving DecidableEq, Repr

/-- A launch: its record, its placement block and its progress, 22 R390-R402. -/
structure Launch where
  vf : Nat := 0
  slot : Nat := 0
  num : BitVec 16 := 0#16
  st : LaunchSt := .free
  entry : Word := 0#64
  args : List Word := []
  seed : Word := 0#64
  n : Nat := 0
  mode : BitVec 32 := 0#32
  qw : Nat := 1
  core : Bool := false         -- core-launch
  prio : Nat := 0
  eff : Nat := 0               -- effective priority
  aged : Nat := 0              -- full milliseconds QUEUED that have lowered it (22 R398)
  gen : Bool := false
  cores : List Nat := []       -- the cores of its set, ascending
  gone : List Nat := []        -- cores that have left a core-launch (11 R258)
  ext : Word := 0#64           -- lext
  ex : Nat := 1                -- the first extent, which lext may not hold whole (22 R396)
  spool : Word := 0#64
  scount : Nat := 0
  ssize : Nat := 0
  swap : Word := 0#64
  swsize : Nat := 0
  pent : Word := 0#64
  pbud : Nat := 0
  sarea : Word := 0#64
  npkg : Nat := 0
  gang : Nat := 0
  phase : Nat := 0             -- 06 R148
  waived : Bool := false
  kills : Nat := 0
  krec : FaultRec := {}
  krecIn : Nat := 0            -- the phase in which its task was killed
  tstart : Word := 0#64
  tend : Word := 0#64
  queuedAt : Word := 0#64
  waited : Word := 0#64        -- ns QUEUED before it was last RESERVED
  placedAt : Word := 0#64
  order : Nat := 0             -- commit order; a pre-empted or cancelled launch returns to the head
  stackUse : List Nat := []      -- stack slots in use
  gangC : Word := 0#64         -- cancel bound C and start tick T of 22 R400
  gangT : Word := 0#64
  gangGo : Bool := false
  preempt : Nat := 0           -- 2, 4, 5: the step of 22 R402 in progress; 6, 7: a restore fills its registers, its handlers run; 0 none
  preAt : Word := 0#64         -- dtime at which the pre-emption began
  handlers : List Nat := []    -- pre-emption handlers running
  saved : List (Nat × ClusterSt) := []  -- cluster state in the save area (22 R405)
  savedCores : List (Nat × CoreSt) := []  -- posts, channels and bindings saved with the cores (11 R253)
deriving DecidableEq, Repr

/-- How a key slot request was answered, 23 R421. -/
inductive KeyStatus where
  | done | occupied | inUse | unbound
deriving DecidableEq, Repr
/-- An SPDM session, 23 R419. -/
structure Session where
  id : Nat := 0
  finished : Bool := false
deriving DecidableEq, Repr

/-- A partition, 23 R413. -/
structure Part where
  qunits : Nat := 0
  wv : Nat := 1
  grace : Nat := 10
  slice : Nat := 10000
  xroot : Word := 0#64
  b2 : Nat := 20
  clusters : List Nat := []    -- cluster numbers, ascending: the cluster index is the position
  slices : List Nat := []
  perm : List Nat := []        -- rows of the permission table as numbers, by cluster index
  links : List (Nat × Nat) := []  -- the link map: package and link; an invalid entry names package 16
  permAt : Word := 0#64
  lmapAt : Word := 0#64
deriving DecidableEq, Repr

/-- The trace ring of a VF, 24 R428. -/
structure Trace where
  tbase : Word := 0#64
  tsize : BitVec 32 := 0#32
  twidx : BitVec 32 := 0#32
  tridx : BitVec 32 := 0#32
  drop : BitVec 32 := 0#32
  cls : BitVec 7 := 0#7
  en : Bool := false
  dropped : Nat := 0           -- since the last record written
deriving DecidableEq, Repr

/-- A VF's hub state, 23 R408-R412. -/
structure Vf where
  part : Option Part := none
  slots : Map (List Byte) := []      -- launch slot records
  relaxed : List Nat := []           -- slots written with the relaxed-ordering attribute since their commit
  slotLaunch : Map Nat := []         -- the launch whose status the slot shows
  nextNum : Nat := 1                 -- next launch number (01 R27)
  key0 : BitVec 256 := 0#256         -- the key of slot 0 (23 R421)
  keys : Map (BitVec 256 × Word) := []   -- key slots 1-15 with their model ids (23 R421)
  sessions : List Session := []
  keyAnswer : Option KeyStatus := none   -- of the last key slot request
  mreq : List Byte := []
  mrsp : List Byte := []
  reply : List Byte := []            -- the PF's reply, as far as it has written it (23 R412)
  mctl : Word := 0#64
  mres : Word := 0#64
  passed : Bool := false             -- the request is with the PF (23 R412)
  trace : Trace := {}
  raised : List Nat := []            -- MSI-X vectors fired, latest first
  msix : Map Byte := []              -- MSI-X table and pending bits, by offset
  corrected : Nat := 0               -- corrected errors (25 R440)
  shared : Nat := 0                  -- shared-unit wait, ns (24 R432)
deriving DecidableEq, Repr

/-- A step word of the start record, 25 R435: form 0 normal, 1 alternative, 2 skipped; result 0 pass, 1 fail, 2 timeout. -/
structure StartRec where
  step : Nat := 1
  unit : BitVec 16 := 0#16
  starts : BitVec 16 := 0#16
  form : BitVec 2 := 0#2
  result : BitVec 8 := 0#8
deriving DecidableEq, Repr
/-- The start record, 25 R435. -/
structure StartRecord where
  header : Word := 0#64
  dies : BitVec 64 := 0#64
  links : BitVec 64 := 0#64
  ports : BitVec 16 := 0#16
  steps : List StartRec := []        -- in the order of their steps
deriving DecidableEq, Repr
/-- A completion that the host or the debugger gets: data, Completer Abort or Unsupported Request (23 R407, R410). -/
inductive HostCpl where
  | data (bs : List Byte)
  | abort
  | unsupported
deriving DecidableEq, Repr

/-- The hub, the PF and the management controller. -/
structure Hub where
  sriov : Bool := true
  window : List Byte := []           -- PF configuration window, 256 bytes
  pcmd : Word := 0#64
  pres : Word := 0#64
  grants : Map Word := []            -- grant words, by 64 * package + link (23 R417)
  events : Map (List Word) := []     -- the 64-entry buffer
  widx : Nat := 0
  ridx : Nat := 0
  unread : Nat := 0                  -- records that the PF's read index has not passed, at most 64 (23 R423)
  lost : Bool := false
  raised : List Nat := []            -- PF vectors fired
  atomicReq : Bool := true           -- AtomicOp Requester Enable (23 R416)
  pkg : Nat := 0
  fenced : List Nat := []
  fencedLinks : List Nat := []
  fencedPorts : List Nat := []
  record : StartRecord := {}         -- in non-volatile storage (25 R435)
  halted : Bool := false
  attached : Bool := false           -- a debugger (24 R425)
  powerStretch : Bool := false
  rr : Map Nat := []                 -- launches placed in this round, by 64 * priority + VF (22 R398)
deriving DecidableEq, Repr

/-- The state of the machine. -/
structure State where
  agenda : List Act := []
  turn : Nat := 0              -- the next choice of the model's own scheduler
  cur : Nat := 0
  nextUid : Nat := 1
  freeCtr : Nat := 0
  dtime : Word := 0#64
  mem : List Host.Cell := []
  ms : MemSt := {}
  tasks : Map Task := []
  cores : Map CoreSt := []
  clusters : Map ClusterSt := []
  launches : Map Launch := []
  vfs : Map Vf := []
  msgs : List Msg := []              -- messages on their way
  hub : Hub := {}
  hostOut : List HostCpl := []       -- completions that the host or the debugger got, latest first
deriving DecidableEq, Repr

/-- The machine right after reset: no partition, no launch, no task, memory with nothing listed. Log entry 11 (DESIGN CHOICE). -/
def State.reset : State := {}

end Sys2Proof.Machine
end

