-- ==== Sys2Proof/Machine/Access.lean ====
section
/-! DEFINITION. Reading and writing the parts of the state: the acting task, cores, clusters, launches, partitions,
and the register file of a task (03 R66, R80; 07 R154). -/
namespace Sys2Proof.Machine

/-! ### Lookups and updates -/

/-- The task of a number; a number of no task gives the blank task. -/
def State.task (s : State) (u : Nat) : Task := Map.get {} s.tasks u
/-- Replace a task. -/
def State.setTask (s : State) (u : Nat) (t : Task) : State := { s with tasks := Map.set s.tasks u t }
/-- Change a task that exists. -/
def State.updTask (s : State) (u : Nat) (f : Task → Task) : State :=
  match Map.get? s.tasks u with
  | some t => s.setTask u (f t)
  | none => s
/-- The acting task. -/
def State.me (s : State) : Task := s.task s.cur
/-- Replace the acting task. -/
def State.setMe (s : State) (t : Task) : State := s.setTask s.cur t
/-- Change the acting task. -/
def State.onMe (s : State) (f : Task → Task) : State := s.setMe (f s.me)

def State.coreSt (s : State) (g : Nat) : CoreSt := Map.get {} s.cores g
def State.setCore (s : State) (g : Nat) (c : CoreSt) : State := { s with cores := Map.set s.cores g c }
def State.onCore (s : State) (g : Nat) (f : CoreSt → CoreSt) : State := s.setCore g (f (s.coreSt g))
def State.cluster (s : State) (c : Nat) : ClusterSt := Map.get {} s.clusters c
def State.setCluster (s : State) (c : Nat) (x : ClusterSt) : State := { s with clusters := Map.set s.clusters c x }
def State.onCluster (s : State) (c : Nat) (f : ClusterSt → ClusterSt) : State := s.setCluster c (f (s.cluster c))
def State.launch (s : State) (l : Nat) : Launch := Map.get {} s.launches l
def State.setLaunch (s : State) (l : Nat) (x : Launch) : State := { s with launches := Map.set s.launches l x }
/-- Change a launch that exists. -/
def State.onLaunch (s : State) (l : Nat) (f : Launch → Launch) : State :=
  match Map.get? s.launches l with
  | some x => s.setLaunch l (f x)
  | none => s
def State.vf (s : State) (v : Nat) : Vf := Map.get {} s.vfs v
def State.setVf (s : State) (v : Nat) (x : Vf) : State := { s with vfs := Map.set s.vfs v x }
def State.onVf (s : State) (v : Nat) (f : Vf → Vf) : State := s.setVf v (f (s.vf v))
/-- A partition's record; blank where the VF has none. -/
def State.part (s : State) (v : Nat) : Part := (s.vf v).part.getD {}
def State.onMs (s : State) (f : MemSt → MemSt) : State := { s with ms := f s.ms }
def State.onHub (s : State) (f : Hub → Hub) : State := { s with hub := f s.hub }

/-- The number of the next free value, and the state that has used it. Log entry 3 (DESIGN CHOICE). -/
def State.takeFree (s : State) : Nat × State := (s.freeCtr, { s with freeCtr := s.freeCtr + 1 })

/-! ### The parts of a task -/

def Task.onPl (t : Task) (f : Place → Place) : Task := { t with pl := f t.pl }
def Task.onRf (t : Task) (f : Regs → Regs) : Task := { t with rf := f t.rf }
def Task.onSy (t : Task) (f : Sys → Sys) : Task := { t with sy := f t.sy }
def Task.onIo (t : Task) (f : Io → Io) : Task := { t with io := f t.io }

/-- The stack slot of a(i), by address / 8 (07 R154). -/
def Task.slotOf (t : Task) (i : Nat) : Nat := (t.rf.wbase + BitVec.ofNat 64 (8 * i)).toNat / 8

/-- Mark the line of a stack slot dirty (07 R155). -/
def dirtyLine (ls : List (Nat × Bool)) (line : Nat) : List (Nat × Bool) :=
  ls.map (fun p => if p.1 = line then (p.1, true) else p)

/-- X(r), 03 R80: a0-a15, g0-g7 or zr. -/
def Task.x (t : Task) (r : BitVec 5) : Word :=
  if r.toNat < 16 then Map.get 0#64 t.rf.slots (t.slotOf r.toNat)
  else if r.toNat < 24 then Map.get 0#64 t.rf.g (r.toNat - 16)
  else 0#64

/-- X(r) := v, 03 R80; a write to zr is discarded. -/
def Task.setX (t : Task) (r : BitVec 5) (v : Word) : Task :=
  if r.toNat < 16 then
    t.onRf (fun f => { f with slots := Map.set f.slots (t.slotOf r.toNat) v,
                              lines := dirtyLine f.lines (t.slotOf r.toNat / 16) })
  else if r.toNat < 24 then t.onRf (fun f => { f with g := Map.set f.g (r.toNat - 16) v })
  else t

/-- A lane mask, 10 R204: m0 reads all ones. -/
def Task.mask (t : Task) (m : BitVec 3) : BitVec 32 :=
  if m = 0#3 then 0xFFFFFFFF#32 else Map.get 0#32 t.rf.m m.toNat
/-- Write a mask register; m0 is never a destination. -/
def Task.setMask (t : Task) (m : BitVec 3) (v : BitVec 32) : Task :=
  t.onRf (fun f => { f with m := Map.set f.m m.toNat v })
/-- A vector register v0-v27. -/
def Task.vreg (t : Task) (r : BitVec 5) : BitVec 1024 := Map.get 0#1024 t.rf.v r.toNat
/-- Its tag. -/
def Task.vtag (t : Task) (r : BitVec 5) : Tag := Map.get .empty t.rf.vt r.toNat
/-- Write a vector register and its tag. -/
def Task.setV (t : Task) (r : BitVec 5) (v : BitVec 1024) (tag : Tag) : Task :=
  t.onRf (fun f => { f with v := Map.set f.v r.toNat v, vt := Map.set f.vt r.toNat tag })
/-- A handle register. -/
def Task.hreg (t : Task) (h : BitVec 4) : Word := Map.get 0#64 t.rf.h h.toNat
def Task.setH (t : Task) (h : BitVec 4) (v : Word) : Task := t.onRf (fun f => { f with h := Map.set f.h h.toNat v })
/-- A block scale register. -/
def Task.kreg (t : Task) (k : BitVec 4) : BitVec 32 := Map.get 0#32 t.rf.k k.toNat
def Task.setK (t : Task) (k : BitVec 4) (v : BitVec 32) : Task := t.onRf (fun f => { f with k := Map.set f.k k.toNat v })

/-- OR flags into fflags, 04 R93. -/
def Task.orFlags (t : Task) (f : BitVec 5) : Task := t.onSy (fun y => { y with fflags := y.fflags ||| f })
/-- The acting task's X(r). -/
def State.x (s : State) (r : BitVec 5) : Word := s.me.x r
/-- The acting task's X(r) := v. -/
def State.setX (s : State) (r : BitVec 5) (v : Word) : State := s.onMe (·.setX r v)
def State.orFlags (s : State) (f : BitVec 5) : State := s.onMe (·.orFlags f)
/-- P: the address of the instruction. -/
def State.pc (s : State) : Word := s.me.rf.pc
def State.setPc (s : State) (v : Word) : State := s.onMe (·.onRf (fun f => { f with pc := v }))

/-! ### Derived facts -/

/-- The cluster of a core. -/
def clusterOf (g : Nat) : Nat := g / 8
/-- The die of a core. -/
def dieOf (g : Nat) : Nat := g / 80
/-- The launch of a task. -/
def State.launchOf (s : State) (u : Nat) : Launch := s.launch (s.task u).tid.launch
/-- lmode of the acting task (01 R28). -/
def State.lmode (s : State) : BitVec 32 := (s.launchOf s.cur).mode
/-- The dmode of a mode word. -/
def dmodeOf (m : BitVec 32) : Nat := (m.extractLsb' 0 2).toNat
def raceOf (m : BitVec 32) : Bool := m.getLsbD 2
def fl1Of (m : BitVec 32) : Bool := m.getLsbD 3
def ordOf (m : BitVec 32) : Bool := m.getLsbD 4
def drawsOf (m : BitVec 32) : BitVec 2 := m.extractLsb' 5 2
def pkindOf (m : BitVec 32) : Bool := m.getLsbD 7
def dstopOf (m : BitVec 32) : Bool := m.getLsbD 8
/-- dmode 1 or 2 (a pre-emption handler runs in them untracked, 22 R403). -/
def State.det (s : State) : Bool := dmodeOf s.lmode != 0
/-- The pair of a task, 11 R246, with what breaks a tie (R232). -/
def Task.pair (t : Task) : Pair := { key := t.sy.key, lid := t.tid.lid, cw := t.tid.cw, born := t.tid.born }
/-- a < b in (key, lid) order. -/
def Pair.before (a b : Pair) : Bool :=
  decide (a.key.toNat < b.key.toNat) || (a.key == b.key && decide (a.lid.toNat < b.lid.toNat))
/-- a < b in (key, lid) order, a tie by creation word and then core of creation (11 R232). -/
def Pair.lt (a b : Pair) : Bool :=
  a.before b || (a.key == b.key && a.lid == b.lid &&
    (decide (a.cw.toNat < b.cw.toNat) || (a.cw == b.cw && decide (a.born < b.born))))
def Pair.le (a b : Pair) : Bool := a.lt b || a == b

/-- The cluster number of a cluster index of the partition (05 R110). Log entry 75 (DEDUCED). -/
def Part.clusterAt (p : Part) (i : Nat) : Option Nat := p.clusters[i]?
/-- The cluster index of a cluster number. -/
def Part.indexOf (p : Part) (cl : Nat) : Nat := p.clusters.idxOf cl
/-- Whether the permission table lets cluster number `a` reach cluster number `b` (23 R415). -/
def Part.mayReach (p : Part) (a b : Nat) : Bool :=
  p.clusters.contains b && (a == b || ((p.perm[p.indexOf a]?).getD 0).testBit (p.indexOf b))

/-- The tasks of a predicate with their numbers. -/
def State.tasksWhere (s : State) (f : Task → Bool) : List (Nat × Task) := s.tasks.filter (fun p => f p.2)
/-- The task that occupies a context: one that is OUT occupies none (22 R403). -/
def State.taskAt (s : State) (g c : Nat) : Option (Nat × Task) :=
  s.tasks.find? (fun p => p.2.pl.life == .resident && p.2.pl.run != .out && p.2.pl.core == g && p.2.pl.ctx == c)
/-- The cores on which a launch still is: a core leaves a core-launch when its control task ends (11 R258). -/
def Launch.active (x : Launch) : List Nat := x.cores.filter (fun g => !x.gone.contains g)
/-- Counter C of a context (03 R75). -/
def Io.copies (o : Io) : Nat := (o.crecs.filter (fun r => r.st == .busy)).length

end Sys2Proof.Machine
end

