-- ==== Sys2Proof/Machine/Space.lean ====
section
/-! DEFINITION. Bytes of memory, virtual addresses and page-table entries (spec/05).

Memory is a list of cells in one form: addresses strictly rising and no cell holding 0, which is what an unlisted
location reads as (CLM is scrubbed, 23 R414; for DRAM and host memory the value is the model's choice, entry 5). -/
namespace Sys2Proof.Machine

/-- The byte at a location. Log entry 5 (DESIGN CHOICE). -/
def memGet : List Host.Cell → Nat → Byte
  | [], _ => 0#8
  | (a, b) :: m, n => if a = n then b else if n < a then 0#8 else memGet m n

/-- Write a byte; writing 0 removes the cell. -/
def memSet : List Host.Cell → Nat → Byte → List Host.Cell
  | [], n, x => if x = 0#8 then [] else [(n, x)]
  | (a, b) :: m, n, x =>
    if a = n then (if x = 0#8 then m else (n, x) :: m)
    else if n < a then (if x = 0#8 then (a, b) :: m else (n, x) :: (a, b) :: m)
    else (a, b) :: memSet m n x

/-- The form every memory keeps: addresses above `lo`, strictly rising, no cell holding 0. -/
def memWfFrom (lo : Nat) : List Host.Cell → Bool
  | [] => true
  | (a, b) :: m => decide (lo ≤ a) && b != 0#8 && memWfFrom (a + 1) m
/-- The canonical form of memory. -/
def Memory.wf (m : List Host.Cell) : Bool := memWfFrom 0 m

/-- Write cells in order. -/
def memPut : List Host.Cell → List Host.Cell → List Host.Cell
  | m, [] => m
  | m, (a, b) :: cs => memPut (memSet m a b) cs

/-- Nonzero bytes from location `a` on as cells. -/
def runCells (a : Nat) : List Byte → List Host.Cell
  | [] => []
  | b :: bs => if b = 0#8 then runCells (a + 1) bs else (a, b) :: runCells (a + 1) bs
/-- Write a run of bytes from location `a` on, in one pass. -/
def memSplice (m : List Host.Cell) (a : Nat) (bs : List Byte) : List Host.Cell :=
  m.filter (fun c => decide (c.1 < a)) ++ runCells a bs ++ m.filter (fun c => decide (a + bs.length ≤ c.1))

/-- A number from bytes, least significant first (00 R3). -/
def leNat : List Byte → Nat
  | [] => 0
  | b :: bs => b.toNat + 256 * leNat bs
/-- The low n bytes of a number, least significant first. -/
def leBytes : Nat → Nat → List Byte
  | 0, _ => []
  | n + 1, x => BitVec.ofNat 8 x :: leBytes n (x / 256)
/-- Consecutive locations. -/
def locRange (a n : Nat) : List Nat := (List.range n).map (a + ·)
/-- The ordinary bytes at consecutive locations. -/
def State.phys (s : State) (a n : Nat) : List Byte := (locRange a n).map (memGet s.mem)
/-- The ordinary 64-bit word at a location. -/
def State.phys64 (s : State) (a : Nat) : Word := BitVec.ofNat 64 (leNat (s.phys a 8))

/-- First location of a cluster's CLM: 2^21 bytes, 1.25 GiB in the 640 clusters (01 R10). -/
def clmBase (cl : Nat) : Nat := 2 ^ 52 + cl * 2 ^ 21
/-- First location of a slot of a cluster's operand memory: 512 slots of 8 KiB, 2.5 GiB in the 640 clusters (01 R10). -/
def opmBase (cl slot : Nat) : Nat := 2 ^ 53 + cl * 2 ^ 22 + slot * 2 ^ 13
/-- Whether a location is a byte of CLM. -/
def isClm (loc : Nat) : Bool := decide (2 ^ 52 ≤ loc) && decide (loc < 2 ^ 53)
/-- Whether a location is host memory (05 R118). -/
def isHost (loc : Nat) : Bool := decide (2 ^ 51 ≤ loc) && decide (loc < 2 ^ 52)

/-- Causes of 07 R161 that translation raises. -/
def cADDR : BitVec 8 := 0x03#8
def cXLATE : BitVec 8 := 0x04#8
def cPERM : BitVec 8 := 0x05#8
def cPHYS : BitVec 8 := 0x06#8
/-- MCHK, by which a walk that reads a poisoned entry is refused (25 R440). -/
def cMCHK : BitVec 8 := 0x1C#8

/-- What a virtual address selects, 05 R109, R110. -/
inductive Selected where
  | xlat
  | clm (cl off : Nat)
  | bad
deriving DecidableEq, Repr

/-- Decode a virtual address for an issuer in cluster `cl`, 05 R109, R110. -/
def selectVa (p : Part) (cl : Nat) (va : Word) : Selected :=
  let a := va.toNat
  let sel := a / 2 ^ 48 % 256
  if a / 2 ^ 56 != 0 then .bad
  else if sel ≤ 0xEF then .xlat
  else if sel == 0xF0 then
    if a / 2 ^ 21 % 2 ^ 27 != 0 then .bad else .clm cl (a % 2 ^ 21)
  else if sel == 0xF1 then
    if a / 2 ^ 21 % 2 ^ 11 != 0 then .bad
    else
      match p.clusterAt (a / 2 ^ 32 % 2 ^ 16) with
      | some c => if p.mayReach cl c then .clm c (a % 2 ^ 21) else .bad
      | none => .bad
  else .bad

/-- The location of a physical address of a partition: host memory as it is, device DRAM by the package and link that the
link map names (05 R118, 23 R417). -/
def Part.locOf (p : Part) (pa : Nat) : Nat :=
  if 2 ^ 51 ≤ pa then pa
  else
    match p.links[pa / 2 ^ 39 % 64]? with
    | some (pkg, link) => (pkg * 64 + link) * 2 ^ 39 + pa % 2 ^ 39
    | none => pa
/-- The physical address by which a partition names a location. -/
def Part.paOf (p : Part) (loc : Nat) : Nat :=
  if 2 ^ 51 ≤ loc then loc
  else
    match p.links.findIdx? (fun x => x.1 * 64 + x.2 == loc / 2 ^ 39) with
    | some i => i * 2 ^ 39 + loc % 2 ^ 39
    | none => loc
/-- Whether a link of this package is fenced, by itself or with its die (25 R434, R437). -/
def Hub.linkGone (h : Hub) (pkg link : Nat) : Bool := pkg == h.pkg && (h.fencedLinks.contains link || h.fenced.contains link)
/-- Capacity installed behind an entry of the link map; a map entry that is absent or invalid has none (05 R118, 23 R417). A link has at most
2^39 bytes, 32 TiB behind the 64 links of a package (01 R10). Log entry 6 (DESIGN CHOICE). -/
def State.linkBytes (s : State) (p : Part) (i : Nat) : Nat :=
  match p.links[i]? with
  | some (pkg, link) =>
    if decide (pkg < 16) && !s.hub.linkGone pkg link then Map.get (2 ^ 39) s.ms.linkCap (pkg * 64 + link) else 0
  | none => 0
/-- How many bytes from a physical address on exist for the partition: all of host memory, none past the installed
capacity of a link (05 R118). -/
def State.physRoom (s : State) (p : Part) (a : Nat) : Nat :=
  if 2 ^ 51 ≤ a then 2 ^ 52 - a
  else if a / 2 ^ 45 != 0 then 0
  else s.linkBytes p (a / 2 ^ 39 % 64) - a % 2 ^ 39
/-- Whether a table lies wholly in device DRAM of the partition (05 R119). -/
def State.inDram (s : State) (p : Part) (a n : Nat) : Bool := decide (a < 2 ^ 51) && decide (n ≤ s.physRoom p a)

/-- Fields of a page-table entry, 05 R120. -/
def pteV (e : Word) : Bool := e.getLsbD 0
def pteLeaf (e : Word) : Bool := e.getLsbD 1
def pteRd (e : Word) : Bool := e.getLsbD 3
def pteW (e : Word) : Bool := e.getLsbD 4
def pteX (e : Word) : Bool := e.getLsbD 5
def pteDet (e : Word) : Bool := e.getLsbD 63
def pteSysatom (e : Word) : Bool := e.getLsbD 62
def pteKey (e : Word) : BitVec 4 := e.extractLsb' 58 4
def pteCache (e : Word) : BitVec 2 := e.extractLsb' 56 2
def ptePage (e : Word) : Nat := (e.extractLsb' 16 36).toNat * 2 ^ 16
def pteNext (e : Word) : Nat := ptePage e + (e.extractLsb' 8 8).toNat * 2 ^ 8

/-- log2 of the size of a page that a leaf at this level maps, 05 R119. -/
def levelShift : Nat → Nat
  | 0 => 39 | 1 => 30 | 2 => 21 | _ => 16
/-- Index bits at a level, 05 R119. -/
def levelBits : Nat → Nat
  | 0 => 17 | 3 => 5 | _ => 9

/-- Whether an entry is malformed at its level, 05 R120. -/
def State.malformed (s : State) (p : Part) (lv : Nat) (e : Word) : Bool :=
  e.extractLsb' 52 4 != 0#4 || e.extractLsb' 6 2 != 0#2 || e.getLsbD 2 ||
  (if pteLeaf e then
    lv == 0 || pteCache e == 3#2 || (pteW e && !pteRd e) || e.extractLsb' 8 8 != 0#8 ||
    ptePage e % 2 ^ levelShift lv != 0
  else
    lv == 3 || (decide (lv ≤ 1) && e.extractLsb' 8 4 != 0#4) ||
    !s.inDram p (pteNext e) (if lv == 2 then 256 else 4096))

end Sys2Proof.Machine
end

