-- ==== Sys2Proof/Machine/Gcm.lean ====
section
/-! DEFINITION. AES, and AES-256-GCM, by which a sealed image is opened (15 R303, R304). The spec names the cipher; its definition is that of
the published standards FIPS 197 and NIST SP 800-38D. A block is 16 bytes in the order of the standards. -/
namespace Sys2Proof.Machine

/-! ### AES with a 256-bit key -/

/-- The substitution box: the values of 32 bytes per number, the first in its low byte. -/
def aesTable : List Nat := [
  0xc072a49cafa2d4adf04759fa7dc982ca76abd7fe2b670130c56f6bf27b777c63,
  0x75b227ebe28012079a059618c323c7041531d871f1e5a534ccf73f362693fdb7,
  0xcf584c4a39becb6a5bb1fc20ed00d153842fe329b3d63b52a05a6e1b1a2c8309,
  0xd2f3ff1021dab6bcf5389d928f40a351a89f3c507f02f94585334d43fbaaefd0,
  0xdb0b5ede14b8ee4688902a22dc4f816073195d643d7ea7c41744975fec130ccd,
  0x8ae7a65eaf4566ca94ed58d6d37c8e779e4959162acd3c25c2406490a3a32e0,
  0x9e1dc186b95735610ef6034866b53e708a8bbd4b1f74dde8c6b4a61c2e2578ba,
  0x16bb54b00f2d99416842e6bf0d89a18cdf2855cee9871e9b948ed9691198f8e1]
def aesSub (b : Byte) : Byte := BitVec.ofNat 8 (((aesTable[b.toNat / 32]?).getD 0) >>> (8 * (b.toNat % 32)))
/-- Multiplication by x in the field of 256 elements. -/
def aesDouble (b : Byte) : Byte := (b <<< 1) ^^^ (if b.getLsbD 7 then 0x1B#8 else 0#8)
def xorBytes (x y : List Byte) : List Byte := List.zipWith (· ^^^ ·) x y
/-- ShiftRows: byte r of column c comes from column c + r. -/
def aesShift (b : List Byte) : List Byte :=
  (List.range 16).map (fun i => (b[(i % 4 + 4 * ((i / 4 + i % 4) % 4))]?).getD 0#8)
/-- MixColumns. -/
def aesMix (b : List Byte) : List Byte :=
  (List.range 16).map (fun i =>
    let at_ (k : Nat) : Byte := (b[4 * (i / 4) + (i + k) % 4]?).getD 0#8
    aesDouble (at_ 0) ^^^ (aesDouble (at_ 1) ^^^ at_ 1) ^^^ at_ 2 ^^^ at_ 3)
/-- The constants of the key schedule: 2^(k-1) for word 8k. -/
def aesRcon (k : Nat) : List Byte := [BitVec.ofNat 8 (2 ^ (k - 1)), 0#8, 0#8, 0#8]
/-- Words of the key schedule from word i on, after the words `ws` (the latest first). -/
def aesExpand : Nat → Nat → List (List Byte) → List (List Byte)
  | 0, _, ws => ws
  | n + 1, i, ws =>
    let last := (ws[0]?).getD []
    let old := (ws[7]?).getD []
    let t :=
      if i % 8 = 0 then xorBytes ((last.drop 1 ++ last.take 1).map aesSub) (aesRcon (i / 8))
      else if i % 8 = 4 then last.map aesSub
      else last
    aesExpand n (i + 1) (xorBytes old t :: ws)
/-- The fifteen round keys of a key of 32 bytes. -/
def aesKeys (key : List Byte) : List (List Byte) :=
  let words := (List.range 8).map (fun i => (key.drop (4 * i)).take 4)
  let all := (aesExpand 52 8 words.reverse).reverse
  (List.range 15).map (fun r => ((all.drop (4 * r)).take 4).flatten)
/-- The rounds of encryption: the last has no MixColumns. -/
def aesRounds : List (List Byte) → List Byte → List Byte
  | [], b => b
  | [k], b => xorBytes (aesShift (b.map aesSub)) k
  | k :: ks, b => aesRounds ks (xorBytes (aesMix (aesShift (b.map aesSub))) k)
/-- Encryption of one block under round keys. -/
def aesBlock (keys : List (List Byte)) (b : List Byte) : List Byte :=
  match keys with
  | [] => b
  | k :: ks => aesRounds ks (xorBytes b k)

/-- The inverse of the substitution box. -/
def aesUnsub (b : Byte) : Byte := BitVec.ofNat 8 ((List.range 256).findIdx (fun x => aesSub (BitVec.ofNat 8 x) == b))
/-- The inverse of ShiftRows. -/
def aesUnshift (b : List Byte) : List Byte :=
  (List.range 16).map (fun i => (b[(i % 4 + 4 * ((i / 4 + 4 - i % 4) % 4))]?).getD 0#8)
/-- The inverse of MixColumns: three times MixColumns, whose fourth power is the identity. -/
def aesUnmix (b : List Byte) : List Byte := aesMix (aesMix (aesMix b))
/-- The rounds backward, after the last: the first round key stands alone. -/
def aesUnrounds : List (List Byte) → List Byte → List Byte
  | [], b => b
  | [k], b => xorBytes b k
  | k :: ks, b => aesUnrounds ks ((aesUnshift (aesUnmix (xorBytes b k))).map aesUnsub)
/-- Decryption of one block under round keys. -/
def aesUnblock (keys : List (List Byte)) (b : List Byte) : List Byte :=
  match keys.reverse with
  | [] => b
  | k :: ks => aesUnrounds ks ((aesUnshift (xorBytes b k)).map aesUnsub)

/-! ### Galois counter mode -/

/-- A block as a number, its first byte the most significant, and back. -/
def blockNat (b : List Byte) : Nat := b.foldl (fun n x => 256 * n + x.toNat) 0
def natBlock (n k : Nat) : List Byte := (leBytes n k).reverse
/-- Multiplication in the field of 2^128 elements: bit 127 of a number is the coefficient of x^0. -/
def ghashMulGo (x : Nat) : Nat → Nat → Nat → Nat
  | 0, _, z => z
  | n + 1, v, z =>
    ghashMulGo x n ((v >>> 1) ^^^ (if v.testBit 0 then 0xE1 <<< 120 else 0)) (if x.testBit n then z ^^^ v else z)
def ghashMul (x y : Nat) : Nat := ghashMulGo x 128 y 0
/-- Bytes cut into blocks, the last filled with zeros. -/
def blocksOf (bs : List Byte) : List (List Byte) :=
  (List.range ((bs.length + 15) / 16)).map (fun i => ((bs.drop (16 * i)).take 16 ++ List.replicate 15 0#8).take 16)
/-- The hash of associated data and ciphertext under the hash key h. -/
def ghash (h : Nat) (aad ct : List Byte) : Nat :=
  (blocksOf aad ++ blocksOf ct ++ [natBlock 8 (8 * aad.length) ++ natBlock 8 (8 * ct.length)]).foldl
    (fun y b => ghashMul (y ^^^ blockNat b) h) 0
/-- The plaintext of a ciphertext, where the tag verifies: key of 32 bytes, iv of 12, tag of 16. Log entry 26 (PRESUMED). -/
def gcmOpen (key iv aad ct tag : List Byte) : Option (List Byte) :=
  let keys := aesKeys key
  let h := blockNat (aesBlock keys (List.replicate 16 0#8))
  let counter (n : Nat) : List Byte := aesBlock keys (iv ++ natBlock 4 n)
  if xorBytes (natBlock 16 (ghash h aad ct)) (counter 1) = tag then
    some ((List.range ((ct.length + 15) / 16)).flatMap (fun i => xorBytes ((ct.drop (16 * i)).take 16) (counter (i + 2))))
  else none

end Sys2Proof.Machine
end

