-- ==== Sys2Proof/Machine/Sha.lean ====
section
/-! DEFINITION. SHA-256 and SHA-384, HMAC and the key derivation of 23 R418, R420. The spec names them; their definitions are those of
the published standards FIPS 180-4, FIPS 198-1 and NIST SP 800-108. Log entry 94 (PRESUMED). -/
namespace Sys2Proof.Machine

/-- The largest r below 2^n whose k-th power is at most a bound: its bits are found from the highest down. -/
def rootBelow (k bound : Nat) : Nat → Nat
  | 0 => 0
  | n + 1 => rootBits k bound n (if 2 ^ (k * n) ≤ bound then 2 ^ n else 0)
where
  /-- The bits under bit n of a root of which the bits from there on are known. -/
  rootBits (k bound : Nat) : Nat → Nat → Nat
    | 0, r => r
    | n + 1, r => rootBits k bound n (if (r + 2 ^ n) ^ k ≤ bound then r + 2 ^ n else r)
/-- The first 64 bits of the fraction of the k-th root of a number. -/
def rootFraction (k x : Nat) : Nat := rootBelow k (x * 2 ^ (64 * k)) 70 % 2 ^ 64
/-- The first 80 primes, the last of which is 409. -/
def smallPrimes : List Nat :=
  (List.range 410).filter (fun x => decide (2 ≤ x) && (List.range 21).all (fun d => decide (d < 2) || d == x || x % d != 0))
/-- The round constants of both functions are bits of cube roots of primes: 64, or the high 32 of these. -/
def cubeBits : List Nat := smallPrimes.map (rootFraction 3)
/-- Eight words of the fractions of square roots of primes, after the first n primes. -/
def squareBits (n : Nat) : List Nat := ((smallPrimes.drop n).take 8).map (rootFraction 2)
/-- What differs between the two functions: the word width w, the rounds, the rotations of the four mixing functions, and how many
primes go before those of the first state. -/
structure ShaKind where
  w : Nat
  rounds : Nat
  big0 : Nat × Nat × Nat
  big1 : Nat × Nat × Nat
  small0 : Nat × Nat × Nat
  small1 : Nat × Nat × Nat
  skip : Nat
def sha256Kind : ShaKind :=
  { w := 32, rounds := 64, big0 := (2, 13, 22), big1 := (6, 11, 25), small0 := (7, 18, 3), small1 := (17, 19, 10), skip := 0 }
def sha384Kind : ShaKind :=
  { w := 64, rounds := 80, big0 := (28, 34, 39), big1 := (14, 18, 41), small0 := (1, 8, 7), small1 := (19, 61, 6), skip := 8 }
/-- Words of 64 bits at the width of a function. -/
def ShaKind.high (k : ShaKind) (xs : List Nat) : List Nat := xs.map (· >>> (64 - k.w))
/-- The state before the first block. -/
def ShaKind.start (k : ShaKind) : List Nat := k.high (squareBits k.skip)
/-- Rotation to the right of a word of w bits. -/
def rotr (w n x : Nat) : Nat := (x >>> n) ||| ((x <<< (w - n)) % 2 ^ w)
/-- A mixing function of three rotations, or of two rotations and a shift. -/
def shaBig (w : Nat) (r : Nat × Nat × Nat) (x : Nat) : Nat := rotr w r.1 x ^^^ rotr w r.2.1 x ^^^ rotr w r.2.2 x
def shaSmall (w : Nat) (r : Nat × Nat × Nat) (x : Nat) : Nat := rotr w r.1 x ^^^ rotr w r.2.1 x ^^^ (x >>> r.2.2)
/-- The message schedule: n words more, the latest 16 kept, the oldest first; the words come out in order. -/
def shaSchedule (k : ShaKind) : Nat → List Nat → List Nat
  | 0, ws => ws
  | n + 1, ws =>
    let at_ (i : Nat) : Nat := (ws[i]?).getD 0
    let new := (shaSmall k.w k.small1 (at_ 14) + at_ 9 + shaSmall k.w k.small0 (at_ 1) + at_ 0) % 2 ^ k.w
    at_ 0 :: shaSchedule k n (ws.drop 1 ++ [new])
/-- One round over the eight working words. -/
def shaRound (k : ShaKind) (v : List Nat) (c x : Nat) : List Nat :=
  let at_ (i : Nat) : Nat := (v[i]?).getD 0
  let m := 2 ^ k.w
  let choice := (at_ 4 &&& at_ 5) ^^^ ((m - 1 - at_ 4) &&& at_ 6)
  let most := (at_ 0 &&& at_ 1) ^^^ (at_ 0 &&& at_ 2) ^^^ (at_ 1 &&& at_ 2)
  let t1 := (at_ 7 + shaBig k.w k.big1 (at_ 4) + choice + c + x) % m
  let t2 := (shaBig k.w k.big0 (at_ 0) + most) % m
  [(t1 + t2) % m, at_ 0, at_ 1, at_ 2, (at_ 3 + t1) % m, at_ 4, at_ 5, at_ 6]
/-- One block of 16 words, under the constants of the rounds. -/
def shaBlock (k : ShaKind) (cs h ws : List Nat) : List Nat :=
  let sched := (shaSchedule k (k.rounds - 16) ws).take k.rounds
  let v := (cs.zip sched).foldl (fun v p => shaRound k v p.1 p.2) h
  List.zipWith (fun a b => (a + b) % 2 ^ k.w) h v
/-- A message filled up to whole blocks: a one bit, zeros, and its length in bits. -/
def shaPad (k : ShaKind) (bs : List Byte) : List Byte :=
  let block := 2 * k.w
  let used := (bs.length + 1 + k.w / 4) % block
  bs ++ [0x80#8] ++ List.replicate (if used == 0 then 0 else block - used) 0#8 ++ natBlock (k.w / 4) (8 * bs.length)
/-- Lists of n elements each. -/
def cutInto {α : Type} (n : Nat) : Nat → List α → List (List α)
  | 0, _ => []
  | f + 1, l => l.take n :: cutInto n f (l.drop n)
/-- The hash words of a message. -/
def shaWords (k : ShaKind) (bs : List Byte) : List Nat :=
  let n := k.w / 8
  let all := shaPad k bs
  let words := (cutInto n (all.length / n) all).map blockNat
  (cutInto 16 (words.length / 16) words).foldl (shaBlock k (k.high cubeBits)) k.start
def sha256 (bs : List Byte) : List Byte := (shaWords sha256Kind bs).flatMap (natBlock 4)
def sha384 (bs : List Byte) : List Byte := ((shaWords sha384Kind bs).take 6).flatMap (natBlock 8)

/-- HMAC-SHA-256 of a key of at most 64 bytes. -/
def hmac256 (key msg : List Byte) : List Byte :=
  let k := key ++ List.replicate (64 - key.length) 0#8
  sha256 (k.map (· ^^^ 0x5C#8) ++ sha256 (k.map (· ^^^ 0x36#8) ++ msg))
/-- The counter-mode key derivation for 256 bits: a 32-bit counter of 1, the label, a zero byte, no context, and the length in bits. -/
def deriveKey (key label : List Byte) : List Byte :=
  hmac256 key (natBlock 4 1 ++ label ++ [0#8] ++ natBlock 4 256)

/-! ### AES-256-XTS, 23 R418 -/

/-- The tweak of the next block of a data unit, its first byte the least significant. -/
def xtsNext (t : Nat) : Nat := ((2 * t) % 2 ^ 128) ^^^ (if t.testBit 127 then 0x87 else 0)
/-- The blocks of a data unit under a block function. -/
def xtsBlocks (f : List Byte → List Byte) : Nat → List (List Byte) → List Byte
  | _, [] => []
  | t, b :: bs => xorBytes (f (xorBytes b (leBytes 16 t))) (leBytes 16 t) ++ xtsBlocks f (xtsNext t) bs
/-- A sector encrypted, or decrypted, under the keys that a slot's key derives, with a sector number as its tweak. Log entry 94
(PRESUMED). -/
def xtsSector (f : List (List Byte) → List Byte → List Byte) (key : BitVec 256) (tweak : Nat) (bs : List Byte) : List Byte :=
  let k := leBytes 32 key.toNat
  let data := aesKeys (deriveKey k [0x78#8, 0x74#8, 0x73#8, 0x2D#8, 0x64#8])
  let t := leNat (aesBlock (aesKeys (deriveKey k [0x78#8, 0x74#8, 0x73#8, 0x2D#8, 0x74#8])) (leBytes 16 tweak))
  xtsBlocks (f data) t (cutInto 16 8 bs)
def xtsSeal (key : BitVec 256) (tweak : Nat) (bs : List Byte) : List Byte := xtsSector aesBlock key tweak bs
def xtsOpen (key : BitVec 256) (tweak : Nat) (bs : List Byte) : List Byte := xtsSector aesUnblock key tweak bs

end Sys2Proof.Machine
end

