-- ==== Sys2Proof/Machine/Keys.lean ====
section
/-! DEFINITION. The encryption of device DRAM (05 R118, 23 R418, R421). Memory holds each sector as it reads under the key it was
last accessed with; under another key it reads as other bytes. -/
namespace Sys2Proof.Machine

/-- Whether a key slot can encrypt: slot 0 always holds a key (23 R421), another slot when it was loaded (R418). -/
def State.keyReady (s : State) (vf : Nat) (k : BitVec 4) : Bool :=
  k == 0#4 || (Map.get? (s.vf vf).keys k.toNat).isSome
/-- The key of a slot; none for that of slot 0. -/
def State.keyOf (s : State) (vf : Nat) (k : BitVec 4) : Option (BitVec 256) :=
  if k == 0#4 then none else (Map.get? (s.vf vf).keys k.toNat).map (·.1)
/-- The sectors of n bytes from a location. -/
def sectorsOf (loc n : Nat) : List Nat := (List.range ((loc + n - 1) / 128 + 1 - loc / 128)).map (loc / 128 + ·)
/-- The sector number that is the tweak of a sector: PA[51:7] of the partition's address (23 R418). -/
def State.tweakOf (s : State) (vf sec : Nat) : Nat := (s.part vf).paOf (sec * 128) / 128
/-- The key and the tweak under which a sector stands that no access has taken under another since: those of slot 0, or, where the
partition has been given another slot 0 since, the key and the sector's place of before (23 R421). -/
def State.baseKey (s : State) (vf sec : Nat) : BitVec 256 × Nat :=
  match Map.get? s.ms.base (sec * 128 / 2 ^ 39) with
  | some (k, i) => (k, (i * 2 ^ 39 + sec * 128 % 2 ^ 39) / 128)
  | none => ((s.vf vf).key0, s.tweakOf vf sec)
/-- The key and the tweak under which a sector is held. -/
def State.heldKey (s : State) (vf sec : Nat) : BitVec 256 × Nat := (Map.get? s.ms.keyed sec).getD (s.baseKey vf sec)
/-- Whether every sector is held under the key of slot 0. -/
def MemSt.slot0 (m : MemSt) : Bool := m.keyed.isEmpty && m.base.isEmpty
/-- A sector of device DRAM as it reads to a partition under a key (none for slot 0's): other bytes where it was encrypted under
another key or as another sector. Log entry 28 (DESIGN CHOICE). -/
def State.rekeySector (s : State) (vf : Nat) (new : Option (BitVec 256)) (sec : Nat) : State :=
  let was := s.heldKey vf sec
  let now : BitVec 256 × Nat := (new.getD (s.vf vf).key0, s.tweakOf vf sec)
  if was == now then s
  else
    let at_ := sec * 128
    let change (f : Nat → Byte) : List Byte := xtsOpen now.1 now.2 (xtsSeal was.1 was.2 ((locRange at_ 128).map f))
    let new := change (memGet s.mem)
    let lag (d : Nat × List Host.Cell) : Nat × List Host.Cell :=
      if d.2.any (fun c => c.1 / 128 == sec) then
        let seen := change (fun l => ((d.2.find? (fun c => c.1 == l)).map (·.2)).getD (memGet s.mem l))
        (d.1, d.2.filter (fun c => c.1 / 128 != sec) ++ (locRange at_ 128).zip seen)
      else d
    { s with mem := memPut s.mem ((locRange at_ 128).zip new),
             ms := { s.ms with keyed := if now == s.baseKey vf sec then Map.del s.ms.keyed sec else Map.set s.ms.keyed sec now,
                               lagging := s.ms.lagging.map lag } }
/-- A run of one page is accessed under its key. -/
def State.underKey (s : State) (vf : Nat) (key : Option (BitVec 256)) (loc n : Nat) : State :=
  if (key.isNone && s.ms.slot0) || decide (2 ^ 51 ≤ loc) then s
  else (sectorsOf loc n).foldl (fun s sec => s.rekeySector vf key sec) s
/-- The sectors of locations are accessed under the keys that are named with them, one that is not under the key of slot 0. -/
def State.underKeys (s : State) (vf : Nat) (keys : Map (BitVec 256)) (locs : List Nat) : State :=
  if keys.isEmpty && s.ms.slot0 then s
  else (((locs.filter (fun l => decide (l < 2 ^ 51))).map (· / 128)).dedup).foldl
    (fun s sec => s.rekeySector vf (Map.get? keys sec) sec) s
/-- A partition's slot 0 is about to take another key: what memory holds behind its links stays under the old one (23 R421). Log
entry 28 (DESIGN CHOICE). -/
def State.keepOldKey (s : State) (vf : Nat) : State :=
  (s.part vf).links.zipIdx.foldl (fun s x =>
    let link := x.1.1 * 64 + x.1.2
    if (Map.get? s.ms.base link).isSome then s
    else s.onMs (fun m => { m with base := Map.set m.base link ((s.vf vf).key0, x.2) })) s

end Sys2Proof.Machine
end

