-- ==== Sys2Proof/Machine/Home.lean ====
section
/-! DEFINITION. What happens at a location's home: the commit horizon, versions, the L1, replicas, update-only copies,
deterministic tracking, and ordinary reads and writes (spec/06; 01 R23-R25; 11 R245-R251).

A write performed at a die point is ordinary memory at once; a die that holds a replica, or the home, of the line may
still see the older byte (`lagging`) until the write in flight to it is applied (R136, R137). -/
namespace Sys2Proof.Machine

/-! ### Order pairs and the horizon -/

/-- The pair of a boundary event: the bits of its time, whose order is the f64 order (01 R20), and its sender (19 R362). -/
def boundPair (b : Bound) : Pair := { b.pair with key := b.time }

/-- The core that a message goes to, as its launch left it where that is OUT (11 R253). -/
def State.targetCore (s : State) (m : Msg) : CoreSt :=
  (((s.launch m.launch).savedCores.find? (fun c => c.1 == m.dst)).map (·.2)).getD (s.coreSt m.dst)
/-- The pair at which an undelivered message holds the horizon, 11 R246: a provisional one, or one that an ordered binding
will activate on. -/
def State.msgPair (s : State) (m : Msg) : Option Pair :=
  let bound := match Map.get? (s.targetCore m).binds (m.idx + (if m.chan then 32 else 0)) with
    | some b => b.ord
    | none => false
  if m.prov || bound then m.pair else none

/-- Pairs of undelivered ordered messages of a partition, queued boundary events and held arms (11 R246, 19 R363). -/
def State.freePairs (s : State) (vf : Nat) : List Pair :=
  let msgs := s.msgs ++ (s.cores ++ s.launches.flatMap (fun l => l.2.savedCores)).flatMap
    (fun c => c.2.inbuf ++ c.2.pendPosts ++ c.2.chans.flatMap (·.2))
  let mine := msgs.filterMap (fun m => if (s.launch m.launch).vf == vf then s.msgPair m else none)
  let regs := (s.clusters ++ s.launches.flatMap (fun l => l.2.saved)).flatMap (fun c => c.2.regions.map (·.2))
  mine ++ (regs.filter (fun r => r.ordered && (s.launch r.launch).vf == vf)).flatMap
    (fun r => r.queue.map boundPair ++ r.held.toList)

/-- a before b among tasks: by pair, then creation word, then the core of creation (11 R232). -/
def taskBefore (a b : Task) : Bool := a.pair.lt b.pair

/-- Whether a task is the horizon holder, 11 R246. -/
def State.isHolder (s : State) (u : Nat) : Bool :=
  let t := s.task u
  t.tid.ord &&
  s.tasks.all (fun p => p.1 == u || !p.2.tid.ord || p.2.tid.vf != t.tid.vf || !taskBefore p.2 t) &&
  (s.freePairs t.tid.vf).all (fun q => !q.before t.pair)

/-- An ordered task that is not the horizon holder acts provisionally, 11 R245. -/
def State.provisional (s : State) (u : Nat) : Bool := (s.task u).tid.ord && !s.isHolder u

/-- The least of pairs. -/
def leastPair : List Pair → Option Pair
  | [] => none
  | p :: ps =>
    match leastPair ps with
    | none => some p
    | some q => some (if q.lt p then q else p)
/-- The true horizon of a partition, 11 R246; none when no ordered task or message is live. -/
def State.horizon (s : State) (vf : Nat) : Option Pair :=
  leastPair ((s.tasks.filterMap (fun p => if p.2.tid.ord && p.2.tid.vf == vf then some p.2.pair else none)) ++
    s.freePairs vf)

/-- Mark a task for an abort, 11 R247; the horizon holder is never aborted. -/
def State.doom (s : State) (u : Nat) : State :=
  if (s.task u).tid.ord && !s.isHolder u then s.updTask u (·.onPl (fun p => { p with doomed := true })) else s
def State.doomAll (s : State) : List Nat → State
  | [] => s
  | u :: us => (s.doom u).doomAll us

/-- Whether a write of `w` (none for an agent that is not an ordered task) makes a read stale, 11 R247 case 1. -/
def staleBy (w : Option Pair) (reader : Pair) (r : ReadRec) : Bool :=
  match w with
  | none => r.own.isNone
  | some p => p.lt reader && (match r.own with | none => true | some o => o.le p)

/-- Abort every ordered reader that a write makes stale, 11 R247 case 1. -/
def State.staleReaders (s : State) (self : Nat) (w : Option Pair) (cells : List Host.Cell) : State :=
  s.doomAll ((s.tasks.filter (fun p => p.1 != self && p.2.tid.ord &&
    p.2.io.reads.any (fun r => cells.any (fun c => c.1 / 4 == r.word) && staleBy w p.2.pair r))).map (·.1))

/-! ### Replicas -/

def cellGet (cs : List Host.Cell) (loc : Nat) : Option Byte := (cs.find? (fun c => c.1 == loc)).map (·.2)
def cellDel (cs : List Host.Cell) (loc : Nat) : List Host.Cell := cs.filter (fun c => c.1 != loc)

/-- The ordinary byte that the agents of a die see, 06 R133. -/
def State.seen (s : State) (die loc : Nat) : Byte :=
  match cellGet (Map.get [] s.ms.lagging die) loc with
  | some b => b
  | none => memGet s.mem loc

/-- The slice that is home to a physical address, 05 R117. -/
def State.homeSlice (s : State) (vf loc : Nat) : Nat :=
  let p := s.part vf
  let sl := p.slices
  (sl[p.paOf loc / 512 % (max 1 sl.length)]?).getD 0
/-- The die of the home. -/
def State.homeDie (s : State) (vf loc : Nat) : Nat := s.homeSlice vf loc / 16

/-- Dies other than the writer's that learn of a write to a location, 06 R136. -/
def State.hearers (s : State) (vf die loc : Nat) : List Nat :=
  if isClm loc || isHost loc then []
  else
    let reps := (s.ms.replicas.filter (fun r => r.2 == loc / 512)).map (·.1)
    ((s.homeDie vf loc :: reps).filter (· != die)).dedup

/-- A vector clock's count for a die. -/
def clockOf (c : Map Nat) (d : Nat) : Nat := Map.get 0 c d
/-- Pointwise maximum. -/
def clockJoin (a : Map Nat) : Map Nat → Map Nat
  | [] => a
  | (d, n) :: b => clockJoin (Map.set a d (max (clockOf a d) n)) b
/-- Let one hearing die keep its old byte until the write reaches it. -/
def State.lagBehind (s : State) (x : Nat) (loc : Nat) : State :=
  let ov := Map.get [] s.ms.lagging x
  if (cellGet ov loc).isSome then s
  else s.onMs (fun m => { m with lagging := Map.set m.lagging x ((loc, memGet s.mem loc) :: ov) })
def State.lagAll (s : State) (x : Nat) : List Nat → State
  | [] => s
  | l :: ls => (s.lagBehind x l).lagAll x ls

/-- Send a write to the dies that hear of it, 06 R136; the home's has the serial of its store. -/
def State.send (s : State) (vf src : Nat) (stamp : Map Nat) (cells : List Host.Cell) (ser : Nat) : List Nat → State
  | [] => s
  | x :: xs =>
    let s := s.lagAll x (cells.map (·.1))
    let home := cells.any (fun c => s.homeDie vf c.1 == x)
    let s := s.onMs (fun m => { m with flights := m.flights ++
      [{ die := x, ser := if home then ser else 0, src := src, stamp := stamp, cells := cells, home := home }] })
    s.send vf src stamp cells ser xs

/-! ### Writes that arrive -/

/-- Whether none of a store's bytes is on its way any more (03 R75). -/
def MemSt.storeDone (m : MemSt) (e : StoreEnt) : Bool :=
  e.ser != 0 && e.cells.isEmpty && !m.l1.any (·.ser == e.ser) && !m.flights.any (·.ser == e.ser)
/-- Stores that are performed at their home leave their queues. -/
def State.reap (s : State) : State :=
  { s with tasks := s.tasks.map (fun p => (p.1, p.2.onIo (fun o => { o with sq := o.sq.filter (fun e => !s.ms.storeDone e) }))) }
/-- Writes on their way of a predicate have arrived: their dies' clocks take their stamps (06 R136). -/
def State.arrive (s : State) (f : Flight → Bool) : State :=
  let gone := s.ms.flights.filter f
  if gone.isEmpty then s
  else
    let join (c : Map (Map Nat)) (x : Flight) : Map (Map Nat) := Map.set c x.die (clockJoin (Map.get [] c x.die) x.stamp)
    let s := s.onMs (fun m => { m with flights := m.flights.filter (fun x => !f x), clocks := gone.foldl join m.clocks })
    if gone.any (·.ser != 0) then s.reap else s
/-- Every write on its way to a die is applied there, in order. -/
def State.settle (s : State) (die : Nat) : State :=
  if s.ms.flights.any (·.die == die) then
    (s.arrive (·.die == die)).onMs (fun m => { m with lagging := Map.del m.lagging die })
  else s
/-- The writes on their way to a die are applied there where it still sees an older byte of one of the lines. -/
def State.settleAt (s : State) (die : Nat) (lines : List Nat) : State :=
  if (Map.get [] s.ms.lagging die).any (fun c => lines.contains (c.1 / 512)) then s.settle die else s
/-- What has been written of lines is performed at their homes. -/
def State.settleHomes (s : State) (vf : Nat) (lines : List Nat) : State :=
  if s.ms.lagging.isEmpty then s
  else ((lines.map (fun l => s.homeDie vf (l * 512))).dedup).foldl (fun s d => s.settleAt d lines) s
/-- Every write on its way is applied at its die: what a release at domain scope waits for (06 R138). -/
def State.drain (s : State) : State :=
  if s.ms.flights.isEmpty then s else (s.arrive (fun _ => true)).onMs (fun m => { m with lagging := [] })

/-- Whether flight f must reach a die before flight e: it happens before e's write (06 R136). -/
def flightFirst (f e : Flight) : Bool := decide (clockOf f.stamp f.src ≤ clockOf e.stamp f.src)
/-- Positions in the flight list of the writes that go to a die. -/
def State.flightsTo (s : State) (die : Nat) : List (Nat × Flight) :=
  ((s.ms.flights.zipIdx.map (fun p => (p.2, p.1))).filter (fun p => p.2.die == die))
/-- The aligned 8-byte words of cells. -/
def wordsOf (cells : List Host.Cell) : List Nat := (cells.map (fun c => c.1 / 8)).dedup
/-- The bytes of a write reach a die: they are what it sees. Bytes that the die has itself overwritten since are older there at the
home, and at a replica only where the die's write came after the one that arrives; of concurrent ones the replica shows the later
arrival until the home's order reaches it (R137). An aligned 8-byte word of which nothing is under way any more goes on to the
home's value, in one write (R125). -/
def State.applyCells (s : State) (die : Nat) (again : Bool) (cells : List Host.Cell) : State :=
  let lag := Map.get [] s.ms.lagging die
  let late := cells.filter (fun c => again || (cellGet lag c.1).isSome)
  let under (w : Nat) : Bool := s.ms.flights.any (fun f => f.die == die && f.cells.any (fun x => x.1 / 8 == w))
  let done := (wordsOf late).filter (fun w => !under w)
  let lag := late ++ lag.filter (fun c => !late.any (fun x => x.1 == c.1))
  let atHome (c : Host.Cell) : Bool := done.contains (c.1 / 8) && c.2 == memGet s.mem c.1
  let lag := lag.filter (fun c => !atHome c)
  let fix := (lag.filter (fun c => done.contains (c.1 / 8))).map (fun c => (c.1, memGet s.mem c.1))
  s.onMs (fun m => { m with
    lagging := Map.set m.lagging die lag,
    flights := if fix.isEmpty then m.flights else m.flights ++ [{ die := die, src := die, stamp := [], cells := fix }] })
/-- Whether write f happens before everything that a die's agents do now. -/
def State.flightBefore (s : State) (die : Nat) (f : Flight) : Bool :=
  decide (clockOf f.stamp f.src ≤ clockOf (Map.get [] s.ms.clocks die) f.src)
/-- The write at a place of the flight list is applied at its die. -/
def State.applyFlight (s : State) (i : Nat) (f : Flight) : State :=
  let c := clockJoin (Map.get [] s.ms.clocks f.die) f.stamp
  let again := !f.home && f.src != f.die && !s.flightBefore f.die f
  let s := (s.onMs (fun m => { m with flights := m.flights.eraseIdx i, clocks := Map.set m.clocks f.die c })).applyCells f.die again f.cells
  if f.ser == 0 then s else s.reap

/-- A die applies what is on its way to it where a write among that happens before what die `by_` has seen (R136). -/
def State.catchUp (s : State) (die by_ : Nat) : State :=
  if s.ms.flights.any (fun f => f.die == die && s.flightBefore by_ f) then s.settle die else s
/-- A die takes a replica of a line as its home sees it: the writes on their way to the home go to the replica too, and what
the home has applied is applied at the die (06 R133, R136). The die does not fall behind what it has seen elsewhere, nor behind
what comes with the replica. -/
def State.newReplica (s : State) (vf die line : Nat) : State :=
  let home := s.homeDie vf (line * 512)
  let s := s.catchUp home die
  let mine (cs : List Host.Cell) : List Host.Cell := cs.filter (fun c => c.1 / 512 == line)
  let copy (f : Flight) : List Flight :=
    if f.die == home && !(mine f.cells).isEmpty then [f, { f with die := die, ser := 0, cells := mine f.cells }] else [f]
  let lag := mine (Map.get [] s.ms.lagging home)
  State.catchUp (s.onMs (fun m => { m with
    replicas := m.replicas ++ [(die, line)],
    flights := m.flights.flatMap copy,
    lagging := if lag.isEmpty then m.lagging else Map.set m.lagging die (lag ++ Map.get [] m.lagging die),
    clocks := Map.set m.clocks die (clockJoin (Map.get [] m.clocks die) (Map.get [] m.clocks home)) })) die die
def State.newReplicas (s : State) (vf die : Nat) : List Nat → State
  | [] => s
  | l :: ls => (s.newReplica vf die l).newReplicas vf die ls
/-- An access by an agent of a die to translated lines makes the die hold replicas of them (06 R133). -/
def State.tookReplica (s : State) (vf die : Nat) (locs : List Nat) : State :=
  let lines := ((locs.filter (fun l => !isClm l && !isHost l && s.homeDie vf l != die)).map (· / 512)).dedup
  let new := lines.filter (fun l => !s.ms.replicas.contains (die, l))
  if new.isEmpty then s else (s.settle die).newReplicas vf die new

/-- A poisoned word that is written whole is no longer poisoned, 25 R440. -/
def cureWords (ps : List (Nat × Nat)) (cells : List Host.Cell) : List (Nat × Nat) :=
  ps.filter (fun p => !(List.range 4).all (fun i => cells.any (fun c => c.1 == 4 * p.1 + i)))

/-- A write of cells of one line by an agent of a die: other dies hear of it and it is memory. -/
def State.writeRaw (s : State) (vf die : Nat) (cells : List Host.Cell) (ser : Nat := 0) : State :=
  let s := s.tookReplica vf die (cells.map (·.1))
  let hear := ((cells.map (·.1)).flatMap (s.hearers vf die)).dedup
  let s :=
    if hear.isEmpty then s
    else
      let c := Map.get [] s.ms.clocks die
      let c := Map.set c die (clockOf c die + 1)
      (s.onMs (fun m => { m with clocks := Map.set m.clocks die c })).send vf die c cells ser hear
  let s := { s with mem := memPut s.mem cells }
  s.onMs (fun m => { m with
    lagging := match Map.get? m.lagging die with
      | some ov => Map.set m.lagging die (ov.filter (fun c => !cells.any (fun x => x.1 == c.1)))
      | none => m.lagging,
    poison := cureWords m.poison cells })
/-- An ordinary write of cells of one line: ordered readers that it makes stale abort (11 R247). -/
def State.write (s : State) (vf die self : Nat) (w : Option Pair) (cells : List Host.Cell) (ser : Nat := 0) : State :=
  (s.staleReaders self w cells).writeRaw vf die cells ser
/-- Group cells by line, in order. -/
def byLine (cells : List Host.Cell) : List (List Host.Cell) :=
  ((cells.map (fun c => c.1 / 512)).dedup).map (fun l => cells.filter (fun c => c.1 / 512 == l))
/-- Ordinary writes of cells, line by line. -/
def State.writeCells (s : State) (vf die self : Nat) (w : Option Pair) (cells : List Host.Cell) (ser : Nat := 0) : State :=
  (byLine cells).foldl (fun s cs => s.write vf die self w cs ser) s

/-- Whether a release at package scope or wider of a die must still wait, 06 R138. -/
def State.flightsPending (s : State) (die : Nat) : Bool := s.ms.flights.any (s.flightBefore die)

/-! ### Reductions -/

/-- A value cut to a tag's width. -/
def cutTo (t : Tag) (x : Word) : Nat := x.toNat % 2 ^ t.width
/-- Its value as a signed number of that width. -/
def asSigned (w x : Nat) : Int := if x < 2 ^ (w - 1) then (x : Int) else (x : Int) - (2 ^ w : Nat)

/-- One combination of a RED, 08 R189; a floating-point one rounds by RNE (06 R147). -/
def redApply (op : RedOp) (t : Tag) (a b : Nat) : Nat :=
  let w := t.width
  let less := if t.isSigned then decide (asSigned w a < asSigned w b) else decide (a < b)
  match op with
  | .add => (a + b) % 2 ^ w
  | .min => if less then a else b
  | .max => if less then b else a
  | .and => a &&& b
  | .or => a ||| b
  | .xor => a ^^^ b
  | .fadd => (fpAdd 0#2 t a b).1

/-- The identity of an operation, 06 R146, 04 R105. -/
def redIdentity (op : RedOp) (t : Tag) : Nat :=
  let w := t.width
  match op with
  | .add | .or | .xor => 0
  | .and => 2 ^ w - 1
  | .min => if t.isSigned then 2 ^ (w - 1) - 1 else 2 ^ w - 1
  | .max => if t.isSigned then 2 ^ (w - 1) else 0
  | .fadd => fpSigned t true 0

/-- An atomic operation of 08 R188 by its fn: the value to write and the flags. -/
def amoApply (fn : BitVec 9) (t : Tag) (old x : Nat) : Nat × BitVec 5 :=
  let w := t.width
  let less := if t.isSigned then decide (asSigned w old < asSigned w x) else decide (old < x)
  match fn.toNat with
  | 1 => ((old + x) % 2 ^ w, 0#5)
  | 2 => (old &&& x, 0#5)
  | 3 => (old ||| x, 0#5)
  | 4 => (old ^^^ x, 0#5)
  | 7 | 9 => (if less then old else x, 0#5)
  | 8 | 10 => (if less then x else old, 0#5)
  | 11 => fpAdd 0#2 t old x
  | _ => (x, 0#5)

/-- Bytes of a value at consecutive locations. -/
def cellsAt (loc n x : Nat) : List Host.Cell := (locRange loc n).zip (leBytes n x)

/-- Combine one update-only copy at the home, 06 R147. It is a write of the engine that holds it; it is visible at every
die that reads next, and a poisoned word stays poisoned. -/
def State.combine (s : State) (vf : Nat) (c : RedCopy) : State :=
  let n := c.t.width / 8
  let s := s.underKey vf c.key c.loc n
  let v := leNat ((locRange c.loc n).map (memGet s.mem))
  let s' := (s.write vf (s.homeDie vf c.loc) 0 none (cellsAt c.loc n (redApply c.op c.t v c.part.toNat))).drain
  s'.onMs (fun m => { m with poison := s.ms.poison })

/-- The copy of the lowest core first. -/
def insertCopy (c : RedCopy) : List RedCopy → List RedCopy
  | [] => [c]
  | d :: ds => if c.core < d.core then c :: d :: ds else d :: insertCopy c ds
def sortCopies : List RedCopy → List RedCopy
  | [] => []
  | c :: cs => insertCopy c (sortCopies cs)
def State.combineAll (s : State) (vf : Nat) : List RedCopy → State
  | [] => s
  | c :: cs => (s.combine vf c).combineAll vf cs

/-- Combine every update-only copy of a line that is not pinned, 06 R147. -/
def State.gather (s : State) (vf line : Nat) : State :=
  let mine := s.ms.reds.filter (fun c => c.loc / 512 == line)
  if mine.isEmpty then s
  else
    let s := s.onMs (fun m => { m with reds := m.reds.filter (fun c => c.loc / 512 != line) })
    s.combineAll vf (sortCopies mine)
def State.gatherAll (s : State) (vf : Nat) : List Nat → State
  | [] => s
  | l :: ls => (s.gather vf l).gatherAll vf ls

/-! ### The L1, 05 R115, 06 R131, R134 -/

/-- Whether the contexts of a core see a unit's bytes: the core's own L1 and the fused L1 of its cluster. -/
def coreSees (g unit : Nat) : Bool := unit == g || unit == 5120 + clusterOf g
/-- Whether the engines of a cluster see a unit's bytes: the fused L1. -/
def engineSees (cl unit : Nat) : Bool := unit == 5120 + cl
/-- The latest byte at a location in the units that are seen. -/
def l1Find (ps : List L1Piece) (sees : Nat → Bool) (loc : Nat) : Option Byte :=
  ps.foldl (fun acc p => if sees p.unit then (match cellGet p.cells loc with | some b => some b | none => acc) else acc) none
/-- The ordinary byte that a context or the matrix engine of a core sees. -/
def State.viewed (s : State) (g loc : Nat) : Byte := (l1Find s.ms.l1 (coreSees g) loc).getD (s.seen (dieOf g) loc)
/-- The ordinary byte that the copy engine or Garnet engine of a cluster sees. -/
def State.engineViewed (s : State) (cl loc : Nat) : Byte := (l1Find s.ms.l1 (engineSees cl) loc).getD (s.seen (cl / 10) loc)
/-- A unit's die. -/
def unitDie (unit : Nat) : Nat := if unit < 5120 then dieOf unit else (unit - 5120) / 10
/-- The bytes of a piece are performed at the die point. -/
def State.writePiece (s : State) (p : L1Piece) : State :=
  let vf := (s.task p.owner).tid.vf
  let locs := p.cells.map (·.1)
  ((s.gatherAll vf ((locs.map (· / 512)).dedup)).underKeys vf p.keys locs).writeCells vf (unitDie p.unit) p.owner none p.cells p.ser
/-- The pieces of a predicate are performed at the die point, oldest first, and their stores leave their queues where nothing
of them is left on its way. -/
def State.writePieces (s : State) (f : L1Piece → Bool) : State :=
  let mine := s.ms.l1.filter f
  if mine.isEmpty then s
  else (mine.foldl (fun s p => s.writePiece p) (s.onMs (fun m => { m with l1 := m.l1.filter (fun p => !f p) }))).reap
/-- Whether a piece has a byte of one of the lines. -/
def L1Piece.onLines (p : L1Piece) (lines : List Nat) : Bool := p.cells.any (fun c => lines.contains (c.1 / 512))
/-- Lift the pins on lines, which the device may do at any time: the lines' writes are performed at their home (06 R132). -/
def State.liftPins (s : State) (lines : List Nat) : State :=
  let mine := s.ms.pins.filter (fun p => lines.contains p.line)
  if mine.isEmpty then s
  else
    let s := (s.onMs (fun m => { m with pins := m.pins.filter (fun p => !lines.contains p.line) })).writePieces
      (fun q => mine.any (fun p => coreSees p.core q.unit && q.onLines [p.line]))
    mine.foldl (fun s p => s.settleHomes (s.task p.owner).tid.vf [p.line]) s
/-- Pieces are performed at the die point; a line of which one goes there keeps no pin (06 R132). -/
def State.writeBack (s : State) (f : L1Piece → Bool) : State :=
  if s.ms.pins.isEmpty then s.writePieces f
  else (s.liftPins ((((s.ms.l1.filter f).flatMap (·.cells)).map (fun c => c.1 / 512)).dedup)).writePieces f
/-- What units hold of the lines of locations goes first, before an access that bypasses them. -/
def State.flushL1 (s : State) (sees : Nat → Bool) (locs : List Nat) : State :=
  s.writeBack (fun p => sees p.unit && p.onLines ((locs.map (· / 512)).dedup))

/-! ### Update-only copies, 06 R146 -/

/-- Recall every update-only copy of a line, 06 R147: a pin on the line is lifted first (R132). -/
def State.recall (s : State) (vf line : Nat) : State :=
  if s.ms.reds.any (fun c => c.loc / 512 == line) then (s.liftPins [line]).gather vf line else s
def State.recallAll (s : State) (vf : Nat) : List Nat → State
  | [] => s
  | l :: ls => (s.recall vf l).recallAll vf ls
/-- Recall the copies of the lines of locations. -/
def State.recallLocs (s : State) (vf : Nat) (locs : List Nat) : State :=
  if s.ms.reds.isEmpty then s else s.recallAll vf ((locs.map (· / 512)).dedup)
/-- Before an access at the home by an agent outside the cores: pins are lifted, for it waits no longer than that (R132), and
update-only copies are recalled (R147). -/
def State.atHome (s : State) (vf : Nat) (locs : List Nat) : State :=
  (s.liftPins ((locs.map (· / 512)).dedup)).recallLocs vf locs

/-- The core whose copy a RED of a core goes to: with fl1 = 1 that of the line's column (06 R146, 05 R116). -/
def copyCore (fl1 : Bool) (g loc : Nat) : Nat := if fl1 then 8 * clusterOf g + loc / 512 % 8 else g
/-- Return a core's copy of a line to the home, where it is combined alone (06 R147); a pin on the line is lifted first (R132). -/
def State.returnCopy (s : State) (vf core line : Nat) : State :=
  let mine (c : RedCopy) : Bool := c.core == core && c.loc / 512 == line
  let s := s.liftPins [line]
  (s.onMs (fun m => { m with reds := m.reds.filter (fun c => !mine c) })).combineAll vf (s.ms.reds.filter mine)
/-- Absorb a RED into a core's copy, 06 R146. -/
def State.absorb (s : State) (vf core loc : Nat) (op : RedOp) (t : Tag) (x : Nat)
    (key : Option (BitVec 256) := none) : State :=
  let n := t.width / 8
  match s.ms.reds.find? (fun c => c.core == core && c.loc == loc && c.op == op && c.t == t) with
  | some c =>
    s.onMs (fun m => { m with reds := m.reds.map (fun d => if d = c then
      { d with part := BitVec.ofNat 64 (redApply op t d.part.toNat x) } else d) })
  | none =>
    let clash := s.ms.reds.any (fun c => c.core == core && decide (c.loc < loc + n) && decide (loc < c.loc + c.t.width / 8))
    let s := if clash then s.returnCopy vf core (loc / 512) else s
    let part := redApply op t (redIdentity op t) x
    s.onMs (fun m => { m with reds := m.reds ++
      [{ core := core, loc := loc, op := op, t := t, part := BitVec.ofNat 64 part, key := key }] })
/-- A RED performed at the home or bank, 06 R146, where agents of every die find it; a poisoned word stays poisoned. -/
def State.redHome (s : State) (vf die self : Nat) (w : Option Pair) (loc : Nat) (op : RedOp) (t : Tag) (x ser : Nat) : State :=
  let n := t.width / 8
  let v := leNat ((locRange loc n).map (memGet s.mem))
  let s' := (s.writeCells vf die self w (cellsAt loc n (redApply op t v x)) ser).settleHomes vf [loc / 512]
  s'.onMs (fun m => { m with poison := s.ms.poison })

/-! ### Versions -/

/-- The newest of versions: the highest pair, then the latest made. -/
def newest : List Version → Option Version
  | [] => none
  | v :: vs =>
    match newest vs with
    | none => some v
    | some w => some (if w.pair.lt v.pair || (w.pair == v.pair && decide (w.seq < v.seq)) then v else w)

/-- The byte that a task reads at its home and where it came from, 01 R25, over the ordinary byte that its reader sees: none
for its own version, else the pair of the version's owner or none for the ordinary value. -/
def State.versionByte (s : State) (u : Nat) (loc : Nat) (plain : Byte) : Byte × Option (Option Pair) :=
  let t := s.task u
  if s.ms.versions.isEmpty then (plain, some none)
  else
    let here := s.ms.versions.filter (fun v => v.cells.any (fun c => c.1 == loc))
    match newest (here.filter (fun v => v.owner == u)) with
    | some v => ((cellGet v.cells loc).getD 0#8, none)
    | none =>
      let others := here.filter (fun v => t.tid.ord && v.spec && v.quorum.isNone && v.pair.le t.pair)
      match newest others with
      | some v => ((cellGet v.cells loc).getD 0#8, some (some v.pair))
      | none => (plain, some none)
/-- The byte that a task's own access reads. -/
def State.homeByte (s : State) (u : Nat) (loc : Nat) : Byte × Option (Option Pair) :=
  s.versionByte u loc (s.viewed (s.task u).pl.core loc)

/-- The latest store of the queue that writes a location, 06 R128. -/
def forwarded (sq : List StoreEnt) (loc : Nat) : Option Byte :=
  sq.foldl (fun acc e => match e.op with
    | .plain => (match cellGet e.cells loc with | some b => some b | none => acc)
    | .red _ _ _ => acc) none

/-! ### Ordered atomics, 11 R251 -/

/-- What an AMO writes, 08 R188: nothing where an amocas finds another value. -/
def amoWrite (fn : BitVec 9) (t : Tag) (old x expect : Nat) : Option Nat × BitVec 5 :=
  if fn == 6#9 && old != expect then (none, 0#5)
  else
    let (v, f) := amoApply fn t old x
    (some v, f)
/-- The word after a buffered AMO. -/
def Atomic.after (a : Atomic) (v : Nat) : Nat := ((amoWrite a.op a.t v (cutTo a.t a.x) (cutTo a.t a.expect)).1).getD v
/-- Bytes of a buffered AMO's word. -/
def Atomic.size (a : Atomic) : Nat := a.t.width / 8
/-- Whether a buffered AMO touches one of the locations. -/
def Atomic.hits (a : Atomic) (locs : List Nat) : Bool := locs.any (fun l => decide (a.loc ≤ l) && decide (l < a.loc + a.size))
/-- The bytes that AMOs leave, applied in order over a base; later ones first in the list. -/
def applyAtomics (base : Nat → Byte) : List Atomic → List Host.Cell → List Host.Cell
  | [], ov => ov
  | a :: as, ov =>
    let v := leNat ((locRange a.loc a.size).map (fun l => (cellGet ov l).getD (base l)))
    applyAtomics base as (cellsAt a.loc a.size (a.after v) ++ ov)
/-- AMOs in (key, lid) order, those of one task in program order. -/
def insertAtomic (a : Atomic) : List Atomic → List Atomic
  | [] => [a]
  | b :: bs => if a.pair.lt b.pair then a :: b :: bs else b :: insertAtomic a bs
def sortAtomics (as : List Atomic) : List Atomic := as.foldl (fun acc a => insertAtomic a acc) []

/-- The byte at the home that an AMO of a task finds: its own version's, else the ordinary one (R25, R139). -/
def State.amoByte (s : State) (u loc : Nat) : Byte :=
  match s.homeByte u loc with
  | (b, none) => b
  | _ => memGet s.mem loc

/-- The byte that a task's load returns, 06 R128, 01 R25: its own queued store, its own buffered AMO, else the home's. -/
def State.loadByte (s : State) (u loc : Nat) : Byte :=
  match forwarded (s.task u).io.sq loc with
  | some b => b
  | none =>
    let mine := s.ms.atomics.filter (fun a => a.owner == u)
    if mine.any (fun a => a.hits [loc]) then
      (cellGet (applyAtomics (fun l => (s.homeByte u l).1) mine []) loc).getD 0#8
    else (s.homeByte u loc).1

/-- What an ordered task's read of locations records, 11 R247. -/
def State.readRecs (s : State) (u : Nat) (locs : List Nat) : List ReadRec :=
  (locs.filterMap (fun l =>
    match forwarded (s.task u).io.sq l with
    | some _ => none
    | none => (s.homeByte u l).2.map (fun o => { word := l / 4, own := o }))).dedup

/-- The Opal membership of a task that its cell has not released: cluster and cell (13 R271, R279). One that waits for its
kill keeps it: what it still writes is discarded (R284). -/
def State.quorumOf (s : State) (u : Nat) : Option (Nat × Nat) :=
  match (s.task u).pl.pend.bind (·.quorum) with
  | some q => some q
  | none => (s.clusters.flatMap (fun c => (c.2.groups.filter (fun g => g.2.st == .quorum && g.2.members.any (·.uid == u))).map
    (fun g => (c.1, g.2.cell)))).head?

/-- Entries a version table holds, 01 R23. -/
def versionCap : Nat := 16384

/-- The ordered owner of the highest pair among versions of a slice. -/
def highestOwner : List Version → Option Version
  | [] => none
  | v :: vs =>
    match highestOwner vs with
    | none => if v.spec then some v else none
    | some w => some (if v.spec && w.pair.lt v.pair then v else w)

/-- Add bytes to versions, one entry per sector, 01 R23. -/
def State.addVersion (s : State) (u : Nat) (spec : Bool) (quorum : Option (Nat × Nat)) (cells : List Host.Cell)
    (keys : Map (BitVec 256) := []) : State :=
  let sectors := (cells.map (fun c => c.1 / 128)).dedup
  let pr := (s.task u).pair
  let put (m : MemSt) (sec : Nat) : MemSt :=
    let mine := cells.filter (fun c => c.1 / 128 == sec)
    if m.versions.any (fun v => v.owner == u && v.sector == sec && v.spec == spec && v.quorum == quorum) then
      { m with versions := m.versions.map (fun v =>
          if v.owner == u && v.sector == sec && v.spec == spec && v.quorum == quorum then
            { v with cells := v.cells.filter (fun c => !mine.any (fun x => x.1 == c.1)) ++ mine, seq := m.vseq }
          else v), vseq := m.vseq + 1 }
    else
      { m with versions := m.versions ++ [{ owner := u, pair := pr, sector := sec, spec := spec, quorum := quorum,
                                            seq := m.vseq, cells := mine, key := Map.get? keys sec }], vseq := m.vseq + 1 }
  s.onMs (fun m => sectors.foldl put m)

/-- Whether a task has an entry for a sector under a condition set. -/
def State.hasVersion (s : State) (u : Nat) (spec : Bool) (quorum : Option (Nat × Nat)) (sec : Nat) : Bool :=
  s.ms.versions.any (fun v => v.owner == u && v.sector == sec && v.spec == spec && v.quorum == quorum)
/-- Entries in the version table of a partition's slice (05 R117). -/
def State.versionsIn (s : State) (vf sl : Nat) : List Version :=
  s.ms.versions.filter (fun v => (s.task v.owner).tid.vf == vf && s.homeSlice vf (v.sector * 128) == sl)
/-- Whether the slice of a sector can take a new version of a task beside `more` others of the same store; a full table may
displace (01 R24). -/
def State.versionRoom (s : State) (u vf : Nat) (spec : Bool) (quorum : Option (Nat × Nat)) (more loc : Nat) : Out Unit × State :=
  if s.hasVersion u spec quorum (loc / 128) then (.ok (), s)
  else
    let here := s.versionsIn vf (s.homeSlice vf loc)
    if here.length + more < (if s.isHolder u then versionCap else versionCap - 1) then (.ok (), s)
    else
      match highestOwner here with
      | some v => if (s.task u).tid.ord && (s.task u).pair.lt v.pair then (.wait, s.doom v.owner) else (.wait, s)
      | none => (.wait, s)

/-- Room for new versions in every sector that cells touch, beside those in the slices `new`, which the same store has taken. -/
def State.versionRooms (s : State) (u vf : Nat) (spec : Bool) (quorum : Option (Nat × Nat)) (secs : List Nat)
    (new : List Nat := []) : Out Unit × State :=
  match secs with
  | [] => (.ok (), s)
  | sec :: secs =>
    let sl := s.homeSlice vf (sec * 128)
    match s.versionRoom u vf spec quorum (new.count sl) (sec * 128) with
    | (.ok (), s) => s.versionRooms u vf spec quorum secs (if s.hasVersion u spec quorum sec then new else sl :: new)
    | other => other

/-- Remove bytes from a task's versions: its own later ordinary write replaces them. -/
def State.dropOwn (s : State) (u : Nat) (cells : List Host.Cell) : State :=
  if s.ms.versions.any (fun v => v.owner == u && v.cells.any (fun c => cells.any (fun x => x.1 == c.1))) then
    let cut (v : Version) : Version := { v with cells := v.cells.filter (fun c => !cells.any (fun x => x.1 == c.1)) }
    let vs := s.ms.versions.map (fun v => if v.owner == u then cut v else v)
    s.onMs (fun m => { m with versions := vs.filter (fun v => !v.cells.isEmpty) })
  else s

/-- A reader of an ordinary value above the pair is stale when a buffered AMO of that pair becomes ordinary. -/
def State.staleOrdinary (s : State) (self : Nat) (p : Pair) (cells : List Host.Cell) : State :=
  s.doomAll ((s.tasks.filter (fun q => q.1 != self && q.2.tid.ord && p.lt q.2.pair &&
    q.2.io.reads.any (fun r => r.own.isNone && cells.any (fun c => c.1 / 4 == r.word)))).map (·.1))
/-- Apply one buffered AMO of a task to ordinary memory, 11 R249, R251. -/
def State.applyAtomic (s : State) (u : Nat) (a : Atomic) : State :=
  let t := s.task u
  let s := (s.atHome t.tid.vf [a.loc]).underKey t.tid.vf a.key a.loc a.size
  let v := leNat ((locRange a.loc a.size).map (s.amoByte u))
  let cells := cellsAt a.loc a.size (a.after v)
  (((s.dropOwn u cells).staleOrdinary u a.pair cells).writeRaw t.tid.vf (dieOf t.pl.core) cells).settleHomes t.tid.vf [a.loc / 512]
/-- Apply a task's buffered AMOs in order. -/
def State.applyOwn (s : State) (u : Nat) : List Atomic → State
  | [] => s
  | a :: as => (s.applyAtomic u a).applyOwn u as
def State.settleAtomics (s : State) (u : Nat) : State :=
  let mine := s.ms.atomics.filter (fun a => a.owner == u)
  if mine.isEmpty then s
  else (s.onMs (fun m => { m with atomics := m.atomics.filter (fun a => a.owner != u) })).applyOwn u mine
/-- Before a store of a task takes bytes that its buffered AMOs also hold: the horizon holder's AMOs become ordinary; a
provisional store that covers them replaces them; one that covers them in part waits (R128). -/
def State.clearAtomics (s : State) (u : Nat) (locs : List Nat) : Out Unit × State :=
  let mine := s.ms.atomics.filter (fun a => a.owner == u && a.hits locs)
  if mine.isEmpty then (.ok (), s)
  else if !s.provisional u then (.ok (), s.settleAtomics u)
  else if mine.all (fun a => (locRange a.loc a.size).all (fun l => locs.contains l)) then
    (.ok (), s.onMs (fun m => { m with atomics := m.atomics.filter (fun a => !mine.contains a) }))
  else (.wait, s)

/-! ### Deterministic tracking, 06 R148-R151 -/

/-- The sub-entry of a word 0-31 and the word's bit in it. -/
def Track.subAt (tr : Track) (w : Nat) : Nat × Nat :=
  if tr.subs.length == 4 then (w / 8, w % 8) else (0, w)
def Track.sub (tr : Track) (w : Nat) : TrackSub := (tr.subs[(tr.subAt w).1]?).getD {}

/-- Whether accesses of two may conflict: different lids, and not both ordered tasks' (06 R150). -/
def Who.against (a b : Who) : Bool := a.lid != b.lid && !(a.ord && b.ord)
/-- The other reader of a word: none, or some lid (none in it: SHARED). -/
def otherReader (r : Reader) (me : Who) : Option (Option Word) :=
  match r with
  | .none => none
  | .one o => if me.against o then some (some o.lid) else none
  | .shared ord => if ord && me.ord then none else some none

/-- The conflict of an access with what the entry records of a word, 06 R150: whether it is a write-write pair, and the
other lid (none where the field holds SHARED). Log entries 79 and 80 (DEDUCED). -/
def Track.conflict (tr : Track) (me : Who) (creator : Option Word) (acc : TrackAcc) (w : Nat) :
    Option (Bool × Option Word) :=
  let sb := tr.sub w
  let bit := (tr.subAt w).2
  let wr : Option Word := if sb.wmask.testBit bit then (sb.writer.filter me.against).map (·.lid) else none
  let rd : Option (Option Word) :=
    match (if sb.rmask.testBit bit then otherReader sb.reader me else none) with
    | some o => some o
    | none => (tr.born.find? (fun b => b.1 == w && me.against b.2)).map (fun b => some b.2.lid)
  let rdWord : Option (Bool × Option Word) := rd.map (fun o => (false, o))
  let redOther : Option (Option Word) :=
    match tr.red with
    | some r => if r.mask.testBit w then otherReader r.who me else none
    | none => none
  match acc with
  | .read =>
    match wr with
    | some o => if creator = some o then redOther.map (fun o => (false, o)) else some (false, some o)
    | none => redOther.map (fun o => (false, o))
  | .write =>
    match rdWord with
    | some c => some c
    | none =>
      match redOther with
      | some o => some (false, o)
      | none => wr.map (fun o => (true, some o))
  | .both =>
    match wr with
    | some o => if creator = some o then (match rdWord with | some c => some c | none => some (true, some o))
                else some (false, some o)
    | none =>
      match rdWord with
      | some c => some c
      | none => redOther.map (fun o => (false, o))
  | .red op width =>
    match wr with
    | some o => some (false, some o)
    | none =>
      match rdWord with
      | some c => some c
      | none =>
        match tr.red with
        | some r => if r.op == op && r.width == width then none else (otherReader r.who me).map (fun o => (false, o))
        | none => none

/-- A reader field after a read, 06 R149. -/
def Reader.add (r : Reader) (me : Who) : Reader :=
  match r with
  | .none => .one me
  | .one o => if o.lid = me.lid then .one { me with ord := me.ord && o.ord } else .shared (me.ord && o.ord)
  | .shared ord => .shared (ord && me.ord)

/-- Split an entry into four sub-entries, 06 R149. -/
def Track.split (tr : Track) : Track :=
  let sb := tr.sub 0
  { tr with subs := (List.range 4).map (fun i =>
      let wm := sb.wmask / 2 ^ (8 * i) % 256
      let rm := sb.rmask / 2 ^ (8 * i) % 256
      { writer := if wm == 0 then none else sb.writer, wmask := wm,
        reader := if rm == 0 then .none else sb.reader, rmask := rm }) }

def Track.setSub (tr : Track) (i : Nat) (sb : TrackSub) : Track := { tr with subs := tr.subs.set i sb }

/-- Record a read; of a word that another lid wrote (its creator's, or an ordered task's against another) it does not count for
the reader field (06 R149). -/
def Track.putRead (tr : Track) (me : Who) (w : Nat) : Track :=
  let sb := tr.sub w
  let (i, bit) := tr.subAt w
  if sb.wmask.testBit bit && sb.writer.any (·.lid != me.lid) then
    if tr.born.contains (w, me) then tr else { tr with born := tr.born ++ [(w, me)] }
  else tr.setSub i { sb with reader := sb.reader.add me, rmask := sb.rmask ||| 2 ^ bit }

/-- Record a write of a set of words of one sub-entry, given as a mask in it: none where the sub-entry would need a
second writer lid, with the first writer's lid (06 R149). A higher lid that overwrites every word of the sub-entry's
writer takes its place (R151), and so does an ordered task after an ordered one (R150). Log entry 31 (DEDUCED). -/
def putWrite (sb : TrackSub) (me : Who) (mask : Nat) : Except Word TrackSub :=
  match sb.writer with
  | none => .ok { sb with writer := some me, wmask := mask }
  | some o =>
    if o.lid = me.lid || (o.ord && me.ord) then .ok { sb with writer := some me, wmask := sb.wmask ||| mask }
    else if sb.wmask &&& mask == sb.wmask then .ok { sb with writer := some me, wmask := mask }
    else .error o.lid

/-- Record writes sub-entry by sub-entry; a refusal names the sub-entry and its first writer. -/
def Track.putWrites (me : Who) (mask : Nat) : List Nat → Track → Except (Nat × Word) Track
  | [], tr => .ok tr
  | i :: is, tr =>
    let m := mask / 2 ^ (8 * i) % 256
    if m == 0 then Track.putWrites me mask is tr
    else
      match putWrite ((tr.subs[i]?).getD {}) me m with
      | .error o => .error (i, o)
      | .ok sb => Track.putWrites me mask is (tr.setSub i sb)

/-- Record a write of words of the sector, given as a 32-bit mask. -/
def Track.putWriteMask (tr : Track) (me : Who) (mask : Nat) : Except (Nat × Word) Track :=
  if mask == 0 then .ok tr
  else if tr.subs.length == 4 then Track.putWrites me mask (List.range 4) tr
  else
    match putWrite (tr.sub 0) me mask with
    | .ok sb => .ok (tr.setSub 0 sb)
    | .error _ => Track.putWrites me mask (List.range 4) tr.split

/-- Record a RED. -/
def Track.putRed (tr : Track) (me : Who) (op : RedOp) (width w : Nat) : Track :=
  match tr.red with
  | none => { tr with red := some { op := op, width := width, mask := 2 ^ w, who := .one me } }
  | some r => { tr with red := some { r with mask := r.mask ||| 2 ^ w, who := r.who.add me } }

/-- A word's access enters the fields that can hold it, though it met a conflict (11 R442): a second writer of a sub-entry, or a RED of
another operation or width, finds none. -/
def Track.enter (tr : Track) (me : Who) (acc : TrackAcc) (w : Nat) : Track :=
  let write (tr : Track) : Track := match tr.putWriteMask me (2 ^ w) with | .ok t => t | .error _ => tr
  match acc with
  | .read => tr.putRead me w
  | .write => write tr
  | .both => write (tr.putRead me w)
  | .red op width =>
    if tr.red.all (fun r => r.op == op && r.width == width) then tr.putRed me op width w else tr

/-- A refused access: cause, the word's number and the other lid (none for SHARED), 06 R151. -/
structure TrackFault where
  code : BitVec 8 := 0x0F#8
  word : Nat := 0
  other : Option Word := none
deriving DecidableEq, Repr

def cRACE : BitVec 8 := 0x0F#8
def cGRAN : BitVec 8 := 0x10#8

/-- The entry of a sector in the phase; an entry of an earlier phase is void (06 R148). -/
def State.trackOf (s : State) (l sector : Nat) : Track :=
  let ph := (s.launch l).phase
  (s.ms.track.find? (fun t => t.sector == sector && t.launch == l && t.phase == ph)).getD
    { sector := sector, launch := l, phase := ph, subs := [{}] }
/-- Keep the entry of a sector. -/
def State.setTrack (s : State) (tr : Track) : State :=
  s.onMs (fun m => { m with track := tr :: m.track.filter (fun t => !(t.sector == tr.sector && t.launch == tr.launch)) })

/-- The first word, in ascending order, that a test finds something for. -/
def firstWord {α : Type} (f : Nat → Option α) : List Nat → Option (Nat × α)
  | [] => none
  | w :: ws =>
    match f w with
    | some x => some (w, x)
    | none => firstWord f ws

/-- One access's words of one sector in tracking, 06 R150, R151: the refusal, or the new entry with the words whose data
is discarded (RESOLVE, a lower lid arriving second). -/
def Track.access (tr : Track) (resolve : Bool) (me : Who) (creator : Option Word) (acc : TrackAcc) (ws : List Nat) :
    Except TrackFault (Track × List Nat) :=
  let base := tr.sector * 32
  let hit (w : Nat) : Option (Bool × Option Word) :=
    match tr.conflict me creator acc w with
    | some (ww, o) => if ww && resolve && acc == .write then none else some (ww, o)
    | none => none
  match firstWord hit ws with
  | some (w, (_, o)) => .error { code := cRACE, word := base + w, other := o }
  | none =>
    match acc with
    | .read => .ok (ws.foldl (fun t w => t.putRead me w) tr, [])
    | .red op width => .ok (ws.foldl (fun t w => t.putRed me op width w) tr, [])
    | .both | .write =>
      let lost := ws.filter (fun w =>
        match tr.conflict me creator .write w with
        | some (true, some o) => decide (me.lid.toNat < o.toNat)
        | _ => false)
      let keep := ws.filter (fun w => !lost.contains w)
      let tr := if acc == .both then ws.foldl (fun t w => t.putRead me w) tr else tr
      match tr.putWriteMask me ((keep.map (2 ^ ·)).foldl (· ||| ·) 0) with
      | .error (i, o) =>
        .error { code := cGRAN, word := base + (keep.find? (fun w => w / 8 == i)).getD 0, other := some o }
      | .ok tr => .ok (tr, lost.map (base + ·))

/-- Track words (4-byte word numbers) sector by sector; on a refusal nothing is recorded. -/
def State.trackSectors (s : State) (l : Nat) (me : Who) (creator : Option Word) (acc : TrackAcc) (words : List Nat) :
    List Nat → Except TrackFault (State × List Nat)
  | [] => .ok (s, [])
  | sec :: secs =>
    match (s.trackOf l sec).access (raceOf (s.launch l).mode) me creator acc
        ((words.filter (fun w => w / 32 == sec)).map (· % 32)) with
    | .error f => .error f
    | .ok (tr, lost) =>
      match (s.setTrack tr).trackSectors l me creator acc words secs with
      | .error f => .error f
      | .ok (s, lost') => .ok (s, lost ++ lost')

/-- An access enters tracking, 06 R148-R151: the state with its entries and the words whose data is discarded. -/
def State.trackAccess (s : State) (l : Nat) (me : Who) (creator : Option Word) (acc : TrackAcc) (locs : List Nat) :
    Except TrackFault (State × List Nat) :=
  let words := (locs.map (· / 4)).dedup
  s.trackSectors l me creator acc words ((words.map (· / 32)).dedup)

end Sys2Proof.Machine
end

