-- ==== Sys2Proof/Machine/Translate.lean ====
section
/-! DEFINITION. Page walks, TLBs and the translation of runs of bytes (05 R109-R124). -/
namespace Sys2Proof.Machine

/-! ### Accesses at the home -/

/-- The byte that the home's die sees. -/
def State.homeSeen (s : State) (vf loc : Nat) : Byte := s.seen (s.homeDie vf loc) loc
/-- Ordinary writes of an agent outside the tasks, each line's performed at its own home. -/
def State.writeHome (s : State) (vf : Nat) (cells : List Host.Cell) : State :=
  (byLine cells).foldl (fun s cs => s.writeCells vf (s.homeDie vf ((cs.head?.map (·.1)).getD 0)) 0 none cs) s

/-! ### Walks, 05 R119, R122 -/

/-- The 8-byte entry at a location, as a walker reads it at the home (05 R122, 06 R147). -/
def State.readEntry (s : State) (vf loc : Nat) : Word × State :=
  let s := s.atHome vf (locRange loc 8)
  (BitVec.ofNat 64 (leNat ((locRange loc 8).map (s.homeSeen vf))), s)
/-- The walk from a level on, 05 R119: the leaf entry and its level, or the level of the entry that stops it. -/
def State.walkGo (s : State) (vf va : Nat) : Nat → Nat → Nat → Except Nat (Word × Nat) × State
  | 0, lv, _ => (.error lv, s)
  | f + 1, lv, base =>
    let p := s.part vf
    let r := s.readEntry vf (p.locOf (base + 8 * (va / 2 ^ levelShift lv % 2 ^ levelBits lv)))
    let e := r.1
    if !pteV e || r.2.malformed p lv e then (.error lv, r.2)
    else if pteLeaf e then (.ok (e, lv), r.2)
    else r.2.walkGo vf va f (lv + 1) (pteNext e)
/-- The page walk of a partition, 05 R119. -/
def State.walk (s : State) (vf : Nat) (va : Word) : Except Nat (Word × Nat) × State :=
  s.walkGo vf va.toNat 4 0 (s.part vf).xroot.toNat

/-- The unit of the first poisoned entry that a walk from a level on reads, 25 R440. -/
def State.walkPoison (s : State) (vf va : Nat) : Nat → Nat → Nat → Option Nat
  | 0, _, _ => none
  | f + 1, lv, base =>
    let p := s.part vf
    let loc := p.locOf (base + 8 * (va / 2 ^ levelShift lv % 2 ^ levelBits lv))
    match s.ms.poison.find? (fun w => w.1 == loc / 4 || w.1 == loc / 4 + 1) with
    | some w => some w.2
    | none =>
      let e := (s.readEntry vf loc).1
      if !pteV e || s.malformed p lv e || pteLeaf e then none else s.walkPoison vf va f (lv + 1) (pteNext e)

/-! ### TLBs, 05 R122, R123 -/

/-- The level of a page size. -/
def sizeLevel (size : Nat) : Nat := if size == 30 then 1 else if size == 21 then 2 else 3
/-- The leaf entries, with their levels, that a core's TLB or its die's TLB holds for an address. -/
def State.tlbFind (s : State) (vf g : Nat) (va : Word) : List (Word × Nat) :=
  ((s.ms.tlb.filter (fun e => e.vf == vf && (e.at_ == g || e.at_ == 5120 + dieOf g) &&
    va.toNat / 2 ^ e.size == e.page / 2 ^ e.size)).map (fun e => (e.pte, sizeLevel e.size))).dedup
/-- Keep the first n entries of a TLB: the oldest goes. Log entry 95 (DESIGN CHOICE). -/
def capTlb (at_ : Nat) : Nat → List TlbEnt → List TlbEnt
  | _, [] => []
  | n, e :: es =>
    if e.at_ != at_ then e :: capTlb at_ n es
    else
      match n with
      | 0 => capTlb at_ 0 es
      | n + 1 => e :: capTlb at_ n es
/-- Put an entry into its TLB, which holds n. -/
def tlbPut (n : Nat) (e : TlbEnt) (es : List TlbEnt) : List TlbEnt :=
  if es.contains e then es
  else if es.length < n then e :: es
  else capTlb e.at_ n (e :: es)
/-- Keep a translation in the core's TLB and its die's TLB, 05 R122. -/
def State.tlbAdd (s : State) (vf g : Nat) (va : Word) (pte : Word) (lv : Nat) : State :=
  let e : TlbEnt := { at_ := g, vf := vf, page := va.toNat / 2 ^ levelShift lv * 2 ^ levelShift lv,
                      size := levelShift lv, pte := pte }
  s.onMs (fun m => { m with tlb := tlbPut 256 e (tlbPut 16384 { e with at_ := 5120 + dieOf g } m.tlb) })

/-- The leaf entry that an access uses: what the walk finds now, or a cached entry. Where they differ the device chooses,
access by access (05 R123). Log entry 21 (DESIGN CHOICE). -/
def State.lookup (s : State) (vf g : Nat) (va : Word) : Except Nat (Word × Nat) × State :=
  let (new, s) := s.walk vf va
  let old := s.tlbFind vf g va
  match new with
  | .ok n =>
    let others := old.filter (· != n)
    if others.isEmpty then (.ok n, s)
    else
      let (k, s) := s.takeFree
      (.ok ((others[(Config.freeWord k).toNat % (others.length + 1)]?).getD n), s)
  | .error lv =>
    if old.isEmpty then (.error lv, s)
    else
      let (k, s) := s.takeFree
      match old[(Config.freeWord k).toNat % (old.length + 1)]? with
      | some n => (.ok n, s)
      | none => (.error lv, s)

/-- The unit of a poisoned entry that a translation consumes: none where a TLB holds the page. -/
def State.entryPoison (s : State) (vf g : Nat) (va : Word) : Option Nat :=
  if s.ms.poison.isEmpty || !(s.tlbFind vf g va).isEmpty then none
  else s.walkPoison vf va.toNat 4 0 (s.part vf).xroot.toNat

/-! ### Translation -/

/-- Translate a run of bytes that lies in one 64 KiB block, 05 R109-R124; only a translation that is not refused is cached
(R122). Log entry 81 (DESIGN CHOICE). -/
def State.xlateRun (s : State) (who : Agent) (need : Need) (va : Word) (n : Nat) : Except XFault Seg × State :=
  let p := s.part who.vf
  match selectVa p who.cl va with
  | .bad => (.error { va := va, code := cADDR }, s)
  | .clm c off =>
    let top := 2 ^ 21 - 64 * p.qunits
    if !who.queueArea && top < off + n then
      (.error { va := va + BitVec.ofNat 64 (top - off), code := cADDR }, s)
    else (.ok { va := va, at_ := { loc := clmBase c + off, clm := true, det := true }, len := n }, s)
  | .xlat =>
    match s.entryPoison who.vf who.core va with
    | some unit => (.error { va := va, code := cMCHK, detail := BitVec.ofNat 8 unit, lid := who.lid }, s)
    | none =>
    match s.lookup who.vf who.core va with
    | (.error lv, s) => (.error { va := va, code := cXLATE, wlev := BitVec.ofNat 4 lv }, s)
    | (.ok (e, lv), s) =>
      let refuse (code detail : BitVec 8) (off : Nat) : Except XFault Seg :=
        .error { va := va + BitVec.ofNat 64 off, code := code, wlev := BitVec.ofNat 4 lv, detail := detail }
      let pa := ptePage e + va.toNat % 2 ^ levelShift lv
      if (need.rd && !pteRd e) || (need.w && !pteW e) || (need.x && !pteX e) || (need.w && who.det && !pteDet e) then
        (refuse cPERM 0#8 0, s)
      else if !s.keyReady who.vf (pteKey e) then (refuse cPERM 1#8 0, s)
      else if s.physRoom p pa < n then (refuse cPHYS 0#8 (s.physRoom p pa), s)
      else
        (.ok { va := va, at_ := { loc := p.locOf pa, det := pteDet e, sysatom := pteSysatom e, cache := pteCache e,
                                  key := pteKey e }, len := n },
          (s.tlbAdd who.vf who.core va e lv).underKey who.vf (s.keyOf who.vf (pteKey e)) (p.locOf pa) n)

/-- Split n bytes from va at 64 KiB boundaries. -/
def splitRuns : Nat → Nat → Nat → List (Word × Nat)
  | 0, _, _ => []
  | f + 1, va, n =>
    if n = 0 then []
    else
      let k := min n (65536 - va % 65536)
      (BitVec.ofNat 64 va, k) :: splitRuns f (va + k) (n - k)

/-- Translate runs in ascending order, stopping at the first that is refused. -/
def State.xlateRuns (s : State) (who : Agent) (need : Need) : List (Word × Nat) → Except XFault (List Seg) × State
  | [] => (.ok [], s)
  | (va, n) :: rest =>
    match s.xlateRun who need va n with
    | (.error e, s) => (.error e, s)
    | (.ok g, s) =>
      match s.xlateRuns who need rest with
      | (.error e, s) => (.error e, s)
      | (.ok gs, s) => (.ok (g :: gs), s)

/-- Translate n bytes from va; the refusal names the lowest faulting byte (05 R124). -/
def State.xlate (s : State) (who : Agent) (need : Need) (va : Word) (n : Nat) : Except XFault (List Seg) × State :=
  s.xlateRuns who need (splitRuns (n / 65536 + 2) va.toNat n)

/-- The locations of the bytes of runs. -/
def segLocs (gs : List Seg) : List Nat := gs.flatMap (fun g => locRange g.at_.loc g.len)
/-- The virtual addresses of the bytes of runs. -/
def segVas (gs : List Seg) : List Nat := gs.flatMap (fun g => locRange g.va.toNat g.len)

/-- The sectors of runs on pages of another key slot than 0, with their keys. -/
def State.segKeys (s : State) (vf : Nat) (gs : List Seg) : Map (BitVec 256) :=
  gs.flatMap (fun g => match s.keyOf vf g.at_.key with
    | none => []
    | some k => (sectorsOf g.at_.loc g.len).map (fun sec => (sec, k)))
/-- Memory of runs as their keys show it. -/
def State.underSegs (s : State) (vf : Nat) (gs : List Seg) : State := s.underKeys vf (s.segKeys vf gs) (segLocs gs)

/-- A walk that the device makes before the access which uses it: what it finds is cached (05 R122, R123). -/
def State.walkAhead (s : State) (who : Agent) (va : Word) : State :=
  match selectVa (s.part who.vf) who.cl va with
  | .xlat =>
    if (s.entryPoison who.vf who.core va).isSome then s
    else
      match s.walk who.vf va with
      | (.ok (e, lv), s) => if s.keyReady who.vf (pteKey e) then s.tlbAdd who.vf who.core va e lv else s
      | (.error _, s) => s
  | _ => s
/-- The acting task as the maker of accesses. -/
def State.agentOf (s : State) (u : Nat) : Agent :=
  let t := s.task u
  { vf := t.tid.vf, core := t.pl.core, cl := clusterOf t.pl.core, det := dmodeOf (s.launchOf u).mode != 0,
    lid := t.tid.lid }

/-- What a task's trap or record of a refused translation names: the address, or for an MCHK the lid (05 R124, 25 R440). -/
def XFault.tval (e : XFault) : Word := if e.code == cMCHK then e.lid else e.va
/-- A translation trap with its access kind, 05 R124. -/
def XFault.trap (e : XFault) (kind : BitVec 4) (detail : BitVec 8) : TrapInfo :=
  { code := e.code, tval := e.tval, kind := kind, wlev := e.wlev, detail := if e.detail = 0#8 then detail else e.detail }

end Sys2Proof.Machine
end

