-- ==== Sys2Proof/Machine/TaskCore.lean ====
section
/-! DEFINITION. The hub's trace ring and event buffer (23 R423, 24 R428-R430), creation of tasks (11 R230-R232), queue
space (R238, R242), and delivery of messages with the activations it makes (R239-R241). -/
namespace Sys2Proof.Machine

/-! ### The hub's records -/

/-- The host agent of a partition as a maker of accesses; its translations are kept apart from any core's. Log entry 19 (DEDUCED). -/
def hostAgent (vf : Nat) : Agent := { vf := vf, core := 5184, cl := 640 }

/-- Cells of runs of bytes. -/
def segCells (gs : List Seg) (bs : List Byte) : List Host.Cell := (segLocs gs).zip bs

/-- An untracked write by the host agent or an engine at virtual address `va`, performed at the homes; a refused one is
lost and answers false. -/
def State.hubWrite (s : State) (who : Agent) (va : Word) (bs : List Byte) : Bool × State :=
  match s.xlate who { w := true } va bs.length with
  | (.error _, s) => (false, s)
  | (.ok gs, s) =>
    let cells := segCells gs bs
    (true, (s.atHome who.vf (cells.map (·.1))).writeHome who.vf cells)

/-- n bytes that the spec leaves open. -/
def State.freeBytes (s : State) (n : Nat) : List Byte × State :=
  ((List.range n).map (fun i => Config.freeByte (s.freeCtr + i)), { s with freeCtr := s.freeCtr + n })
/-- The bytes that a reader which is no task sees at the homes: those of a poisoned word are open, for 25 R440 gives MCHK to tasks
alone. Log entry 30 (DEDUCED). -/
def State.hostBytes (s : State) (vf : Nat) (locs : List Nat) : List Byte × State :=
  let bs := locs.map (s.homeSeen vf)
  let lost (l : Nat) : Bool := s.ms.poison.any (fun p => l / 4 == p.1)
  if locs.any lost then
    let (fs, s) := s.freeBytes locs.length
    ((locs.zip (bs.zip fs)).map (fun x => if lost x.1 then x.2.2 else x.2.1), s)
  else (bs, s)
/-- An untracked read of ordinary bytes by the host agent or an engine; none where it is refused. -/
def State.hubRead (s : State) (who : Agent) (va : Word) (n : Nat) : Option (List Byte) × State :=
  match s.xlate who { rd := true } va n with
  | (.error _, s) => (none, s)
  | (.ok gs, s) =>
    let locs := segLocs gs
    let (bs, s) := (s.atHome who.vf locs).hostBytes who.vf locs
    (some bs, s)

/-- 64-bit words as bytes. -/
def wordBytes (ws : List Word) : List Byte := ws.flatMap (fun w => leBytes 8 w.toNat)

/-- Write one record into a ring that has room and advance the write index, 24 R429. -/
def State.ringPut (s : State) (vf : Nat) (ws : List Word) : State :=
  let t := (s.vf vf).trace
  let (_, s) := s.hubWrite (hostAgent vf) (t.tbase + BitVec.ofNat 64 (32 * t.twidx.toNat)) (wordBytes ws)
  s.onVf vf (fun v => { v with trace := { v.trace with
    twidx := BitVec.ofNat 32 ((t.twidx.toNat + 1) % max 1 t.tsize.toNat) } })
/-- Whether the ring is full, 24 R429. -/
def Trace.full (t : Trace) : Bool := (t.twidx.toNat + 1) % max 1 t.tsize.toNat == t.tridx.toNat

/-- A trace record, 24 R429: written, or dropped and counted when the ring is full. -/
def State.trace (s : State) (vf : Nat) (cls : Nat) (type : Nat) (tag : BitVec 6) (g : Nat) (lid detail : Word) : State :=
  let t := (s.vf vf).trace
  if !t.en || !t.cls.getLsbD (cls - 1) then s
  else
    let drop (s : State) : State := s.onVf vf (fun v => { v with trace := { v.trace with
      drop := if v.trace.drop = 0xFFFFFFFF#32 then v.trace.drop else v.trace.drop + 1#32,
      dropped := v.trace.dropped + 1 } })
    let word0 (ty : Nat) (tg : BitVec 6) (g : Nat) : Word := BitVec.ofNat 64 (ty + tg.toNat * 2 ^ 8 + g * 2 ^ 16)
    if t.full then drop s
    else
      let s :=
        if t.dropped == 0 then s
        else
          let s := s.onVf vf (fun v => { v with trace := { v.trace with dropped := 0 } })
          if t.cls.getLsbD 6 then s.ringPut vf [word0 8 0#6 0, s.dtime, 0#64, BitVec.ofNat 64 t.dropped] else s
      if (s.vf vf).trace.full then drop s
      else s.ringPut vf [word0 type tag g, s.dtime, lid, detail]

/-- A trace record about a task. -/
def State.traceTask (s : State) (u cls type : Nat) (detail : Word) : State :=
  let t := s.task u
  s.trace t.tid.vf cls type t.tid.tag t.pl.core t.tid.lid detail

/-- An event record to the PF, 23 R423. -/
def State.pfEvent (s : State) (code vf : Nat) (d2 d3 : Word) : State :=
  s.onHub (fun h =>
    let w0 : Word := BitVec.ofNat 64 (code + vf * 2 ^ 16 + (if h.lost then 2 ^ 63 else 0))
    let next := (h.widx + 1) % 64
    { h with events := Map.set h.events h.widx [w0, s.dtime, d2, d3], widx := next, unread := min 64 (h.unread + 1),
             lost := h.unread == 64, raised := 0 :: h.raised })

/-- A discarded write is logged, 23 R423 code 3. -/
def State.logged (s : State) (vf off : Nat) : State := s.pfEvent 3 vf (BitVec.ofNat 64 off) (BitVec.ofNat 64 vf)

/-! ### Creation -/

/-- Add a task under a new number. A deadline that lies in the past does not pass again (11 R233). -/
def State.addTask (s : State) (t : Task) : State :=
  let t := t.onPl (fun p => { p with passed := !t.tid.ord && decide (t.sy.key.toNat ≤ s.dtime.toNat) })
  { s with tasks := Map.set s.tasks s.nextUid t, nextUid := s.nextUid + 1 }

/-- The creation word of a child, 11 R232. -/
def childCw (seed parent count : Word) : Word :=
  draw (seed ^^^ 0x7C1D000000000001#64) ((parent <<< 32) ||| count)
/-- A lid from a launch part and a creation word, 11 R232. -/
def lidOf (parent cw : Word) : Word := ((parent >>> 32) <<< 32) ||| (cw &&& 0xFFFFFFFF#64)

/-- The state of a task that is created and not yet dispatched, 11 R231. -/
def freshTask (tid : TaskId) (core : Nat) (key : Word) (bud : Option (BitVec 63)) : Task :=
  { tid := { tid with bud := bud.getD 0#63 }, pl := { core := core }, rf := { pc := tid.entry },
    sy := { key := key, budInit := bud.getD 0#63, budLeft := bud.getD 0#63, budOn := (bud.getD 0#63) != 0#63 } }

/-- The state of R231 that a task starts, or an aborted task starts again, with. -/
def Task.restart (t : Task) : Task :=
  { tid := t.tid,
    pl := { core := t.pl.core, ctx := t.pl.ctx, life := t.pl.life, stack := t.pl.stack, began := t.pl.began },
    rf := { pc := t.tid.entry },
    sy := { stkbase := t.sy.stkbase, stklim := t.sy.stklim, lcoord := t.sy.lcoord, key := t.sy.key,
            budInit := t.tid.bud, budLeft := t.tid.bud, budOn := t.tid.bud != 0#63 } }

/-! ### Queue space, 11 R238, R242 -/

/-- Whether a launch's queue entries are on its cores: those of a launch that is OUT are saved with them (R253). -/
def State.inQueue (s : State) (t : Task) : Bool :=
  t.pl.life == .queued && !t.tid.handler && (s.launch t.tid.launch).st != .out
/-- The messages that wait on the cores of a cluster. -/
def State.waitingMsgs (s : State) (cl : Nat) : List Msg :=
  (s.cores.filter (fun c => clusterOf c.1 == cl)).flatMap (fun c => c.2.pendPosts ++ c.2.chans.flatMap (·.2))
/-- Units of a message in the queue area, R238. -/
def Msg.units (m : Msg) : Nat := if m.chan then 3 else 1
/-- Units of the queue area in use in a cluster by a launch (all launches for none). -/
def State.unitsUsed (s : State) (cl : Nat) (l : Option Nat) : Nat :=
  let mine (x : Nat) : Bool := match l with | none => true | some y => x == y
  let ts := s.tasks.filter (fun p => s.inQueue p.2 && p.2.pl.qarea && clusterOf p.2.pl.core == cl && mine p.2.tid.launch)
  2 * ts.length + (((s.waitingMsgs cl).filter (fun m => m.stored == 1 && mine m.launch)).map Msg.units).sum
/-- Tasks in the on-chip queue of a core. -/
def State.queuedOnChip (s : State) (g : Nat) : Nat :=
  (s.tasks.filter (fun p => s.inQueue p.2 && p.2.pl.core == g && !p.2.pl.qarea && !p.2.pl.swapped)).length
/-- Units of a partition's clusters. -/
def State.unitsOf (s : State) (l : Nat) : Nat := (s.part (s.launch l).vf).qunits
/-- Free units for a launch; one per cluster is kept for the horizon holder (11 R252). -/
def State.unitsFree (s : State) (cl l : Nat) (holder : Bool) : Nat :=
  s.unitsOf l - s.unitsUsed cl none - (if holder then 0 else 1)

/-- Bytes of a launch's swap area in use. -/
def State.swapUsed (s : State) (l : Nat) : Nat :=
  let ts := s.tasks.filter (fun p => p.2.pl.life == .queued && p.2.pl.swapped && p.2.tid.launch == l)
  let ms := (s.cores ++ (s.launch l).savedCores).flatMap (fun c => c.2.pendPosts ++ c.2.chans.flatMap (·.2))
  128 * ts.length + 64 * ((ms.filter (fun m => m.stored == 2 && m.launch == l)).map Msg.units).sum
/-- Whether a launch's swap area can take bytes. -/
def State.swapRoom (s : State) (l n : Nat) : Bool :=
  let x := s.launch l
  x.swap != 0#64 && decide (s.swapUsed l + n ≤ x.swsize)
/-- An entry of n bytes goes to a launch's swap area (R397): its form and place there are open. Answers its serial. Log entry 69
(DEDUCED). -/
def State.swapOut (s : State) (l cl n : Nat) : Nat × State :=
  let at_ := (s.launch l).swap + BitVec.ofNat 64 (s.swapUsed l)
  let (bs, s) := s.freeBytes n
  let who : Agent := { vf := (s.launch l).vf, core := 8 * cl, cl := cl }
  let (_, s) := s.hubWrite who at_ bs
  (s.ms.vseq, s.onMs (fun m => { m with vseq := m.vseq + 1 }))

/-- The launches that have queues on a cluster's cores, R242. -/
def State.areaLaunches (s : State) (cl : Nat) : List Nat :=
  (s.launches.filter (fun p => (p.2.st == .running && p.2.active.any (fun g => clusterOf g == cl)) ||
    s.unitsUsed cl (some p.1) != 0)).map (·.1)

/-- The launch whose occupancy exceeds its share the most; ties go to the lower launch number (11 R242 step 2). The
excess is compared after multiplying by the sum of the weights. -/
def State.overShare (s : State) (cl : Nat) (ls : List Nat) : Option Nat :=
  let wsum := (ls.map (fun l => (s.launch l).qw)).sum
  let excess (l : Nat) : Int := (s.unitsUsed cl (some l) * wsum : Nat) - ((s.unitsOf l * (s.launch l).qw : Nat) : Int)
  ls.foldl (fun best l =>
    match best with
    | none => some l
    | some b =>
      if excess b < excess l || (excess b == excess l && decide ((s.launch l).num.toNat < (s.launch b).num.toNat))
      then some l else some b) none

/-- The queued task of a launch in the area with the highest key, skipping the horizon holder. -/
def State.evictTask (s : State) (cl l : Nat) : Option Nat :=
  let ts := s.tasks.filter (fun p => s.inQueue p.2 && p.2.pl.qarea && clusterOf p.2.pl.core == cl &&
    p.2.tid.launch == l && !s.isHolder p.1)
  (ts.foldl (fun (best : Option (Nat × Task)) p =>
    match best with
    | none => some p
    | some b => if taskBefore b.2 p.2 then some p else some b) none).map (·.1)

/-- Where a waiting message of a core stands: the channel, none for a post register's, and the place. -/
structure MsgAt where
  core : Nat
  chan : Option Nat
  pos : Nat
  msg : Msg
/-- The waiting messages of a cluster's cores: those of one channel, or of post registers. -/
def State.msgsAt (s : State) (cl : Nat) (chan : Option Nat) : List MsgAt :=
  (List.range 8).flatMap (fun c =>
    let g := cl * 8 + c
    let ms := match chan with
      | some q => Map.get [] (s.coreSt g).chans q
      | none => (s.coreSt g).pendPosts
    ms.mapIdx (fun i m => { core := g, chan := chan, pos := i, msg := m }))
/-- Change a waiting message. -/
def State.setMsgAt (s : State) (a : MsgAt) (m : Msg) : State :=
  s.onCore a.core (fun c => match a.chan with
    | some q => { c with chans := Map.set c.chans q ((Map.get [] c.chans q).set a.pos m) }
    | none => { c with pendPosts := c.pendPosts.set a.pos m })
/-- The newest of messages: the latest arrival, of equal ones the last. -/
def newestAt (as : List MsgAt) : Option MsgAt :=
  as.foldl (fun best a => match best with
    | none => some a
    | some b => if b.msg.arrived.toNat ≤ a.msg.arrived.toNat then some a else some b) none

/-- Move one entry of a launch to its swap area, 11 R242 step 3; none where nothing can move. -/
def State.evictOne (s : State) (cl l : Nat) : Option State :=
  match (if s.swapRoom l 128 then s.evictTask cl l else none) with
  | some u =>
    let (k, s) := s.swapOut l cl 128
    some (s.updTask u (·.onPl (fun p => { p with qarea := false, swapped := true, left := k })))
  | none =>
    let go (chan : Option Nat) : Option State :=
      match newestAt ((s.msgsAt cl chan).filter (fun a => a.msg.stored == 1 && a.msg.launch == l)) with
      | none => none
      | some a =>
        if !s.swapRoom l (64 * a.msg.units) then none
        else
          let (k, s) := s.swapOut l cl (64 * a.msg.units)
          some (s.setMsgAt a { a.msg with stored := 2, left := k })
    [some 3, some 2, some 1, some 0, none].findSome? go

/-- Evict until n units are free or nothing moves, 11 R242. -/
def State.evict (s : State) (cl l n : Nat) (holder : Bool) : Nat → State
  | 0 => s
  | f + 1 =>
    if n ≤ s.unitsFree cl l holder then s
    else
      match s.overShare cl (s.areaLaunches cl) with
      | none => s
      | some v =>
        match s.evictOne cl v with
        | none => s
        | some s' => s'.evict cl l n holder f

/-- Space for an entry of n units in a cluster's queue area: whether there is some, after eviction. -/
def State.areaSpace (s : State) (cl l n : Nat) (holder : Bool) : Bool × State :=
  if n ≤ s.unitsFree cl l holder then (true, s)
  else
    let s := s.evict cl l n holder 64
    (decide (n ≤ s.unitsFree cl l holder), s)

/-- The first of the cluster's swapped entries comes back into the queue area, if it has room there (R242 step 4). -/
def State.swapBackOne (s : State) (cl : Nat) : Option State :=
  let ts := s.tasks.filter (fun p => s.inQueue p.2 && p.2.pl.swapped && clusterOf p.2.pl.core == cl)
  let ms := ([some 0, some 1, some 2, some 3, none].flatMap (s.msgsAt cl)).filter (fun a => a.msg.stored == 2)
  match (ts.map (fun p => p.2.pl.left) ++ ms.map (fun a => a.msg.left)).min? with
  | none => none
  | some k =>
    match ts.find? (fun p => p.2.pl.left == k), ms.find? (fun a => a.msg.left == k) with
    | some (u, t), _ =>
      if 2 ≤ s.unitsFree cl t.tid.launch false then
        some (s.updTask u (·.onPl (fun p => { p with qarea := true, swapped := false })))
      else none
    | none, some a =>
      if a.msg.units ≤ s.unitsFree cl a.msg.launch false then some (s.setMsgAt a { a.msg with stored := 1 }) else none
    | none, none => none
/-- Entries come back from the swap areas, in the order they left, as units free (R242 step 4). -/
def State.swapBack (s : State) (cl : Nat) : Nat → State
  | 0 => s
  | f + 1 =>
    match s.swapBackOne cl with
    | some s' => s'.swapBack cl f
    | none => s

/-- Where a queue entry of a task can go on a core: on chip, in the queue area, or nowhere (11 R238, R242, R255). -/
def State.queueSpace (s : State) (g l : Nat) (holder : Bool) : Option Bool × State :=
  if s.queuedOnChip g < (if holder then 32 else 31) then (some false, s)
  else
    match s.areaSpace (clusterOf g) l 2 holder with
    | (true, s) => (some true, s)
    | (false, s) => (none, s)

/-- A task enters the queue of its core: on chip, in the queue area, else in its launch's swap area (R238); none where all are
full. -/
def State.toQueue (s : State) (u : Nat) : Option State :=
  let t := s.task u
  let l := t.tid.launch
  let put (s : State) (area swap : Bool) (k : Nat) : State :=
    s.updTask u (·.onPl (fun p => { p with life := .queued, qarea := area, swapped := swap, left := k }))
  match s.queueSpace t.pl.core l (s.isHolder u) with
  | (some area, s) => some (put s area false 0)
  | (none, s) =>
    if s.swapRoom l 128 then
      let (k, s) := s.swapOut l (clusterOf t.pl.core) 128
      some (put s false true k)
    else none
/-- Queue a new task on a core; where no entry is free it waits for one. -/
def State.enqueue (s : State) (t : Task) : State :=
  let u := s.nextUid
  let s := s.addTask (t.onPl (fun p => { p with life := .unqueued }))
  (s.toQueue u).getD s

/-! ### Message delay, 24 R430 -/

/-- Add to one entry of a delay table; 64 senders have entries, later ones share the overflow entry (sender 5120). -/
def delayAdd (d : List Delay) (sender cnt tr q run : Nat) : List Delay :=
  let key := if d.any (·.sender == sender) then sender else if (d.filter (·.sender != 5120)).length < 64 then sender else 5120
  let sat (x : Nat) : Nat := min x (2 ^ 48 - 1)
  let add (e : Delay) : Delay := { e with count := e.count + cnt, transit := sat (e.transit + tr),
                                          queue := sat (e.queue + q), run := sat (e.run + run) }
  if d.any (·.sender == key) then d.map (fun e => if e.sender == key then add e else e)
  else d ++ [add { sender := key }]

/-- A message is consumed on a core, 24 R430. -/
def State.consumed (s : State) (g l : Nat) (src : Nat) (sent arrived : Word) : State :=
  let d := delayAdd (Map.get [] (s.coreSt g).delay l) src 1 (arrived - sent).toNat (s.dtime - arrived).toNat 0
  s.onCore g (fun c => { c with delay := Map.set c.delay l d })
/-- The message that activates a task is consumed at the task's first dispatch, but for a channel's entry that a read has consumed
before: its later read counts no more (24 R430). -/
def State.activated (s : State) (u : Nat) : State :=
  let t := s.task u
  let g := t.pl.core
  let i := t.tid.bind.getD 0
  if i < 32 then s.consumed g t.tid.launch t.tid.msgSrc t.tid.msgSent t.tid.msgArr
  else
    let mine (m : Msg) : Bool := m.ser == t.tid.msgSer && !m.counted
    let es := Map.get [] (s.coreSt g).chans (i - 32)
    if es.any mine then
      (s.consumed g t.tid.launch t.tid.msgSrc t.tid.msgSent t.tid.msgArr).onCore g (fun c => { c with
        chans := Map.set c.chans (i - 32) (es.map (fun m => if mine m then { m with counted := true } else m)) })
    else s

/-! ### Activations and delivery -/

/-- Create the activation of a binding, 11 R241. -/
def State.activate (s : State) (g i : Nat) (b : Binding) (m : Msg) : State :=
  let seed := (s.launch b.launch).seed
  let cw := childCw seed b.binderLid (b.count.setWidth 64)
  let key := if b.ord then (match m.pair with | some p => p.key | none => 0#64) else b.key.getD 0#64
  let tid : TaskId :=
    { lid := lidOf b.binderLid cw, cw := cw, launch := b.launch, vf := b.vf, kind := 6#4, ord := b.ord, entry := b.entry,
      tag := BitVec.ofNat 6 i, args := if i < 32 then [m.val.setWidth 64] else [], born := g,
      msgFrom := if m.prov then m.sender else 0, bind := some i, msgSrc := m.src, msgSent := m.sent,
      msgArr := m.arrived, msgSer := m.ser }
  let bud := b.bud.map (fun x => x.setWidth 63)
  let u := s.nextUid
  let s := s.enqueue (freshTask tid g key bud)
  let b' : Binding := { b with count := b.count + 1#32, live := if 32 ≤ i then u else b.live }
  s.onCore g (fun c => { c with binds := Map.set c.binds i b' })

/-- Whether a binding takes a message: an ordered one only ordered messages (11 R241). -/
def Binding.takes (b : Binding) (m : Msg) : Bool := !b.ord || m.pair.isSome

/-- A task of a core that waits in a pwait of a post register and has been given nothing. Log entry 125 (DESIGN CHOICE). -/
def State.postWaiter (s : State) (g i : Nat) : Option Nat :=
  (s.tasks.find? (fun p => p.2.pl.core == g && p.2.pl.life == .resident && p.2.pl.run == .wait && !p.2.pl.doomed &&
    p.2.pl.waitPost == some i && p.2.pl.got.isNone)).map (·.1)
/-- Set a post register, or make the activation of its binding, 11 R239, R241: what the binding does not take is an ordinary post
value, and a pwait that waits already comes before the activation. -/
def State.setPost (s : State) (g : Nat) (m : Msg) : State :=
  let put := s.onCore g (fun c => { c with posts := Map.set c.posts m.idx { m with stored := 0 } })
  match Map.get? (s.coreSt g).binds m.idx, s.postWaiter g m.idx with
  | some b, none => if b.takes m then s.activate g m.idx b m else put
  | some b, some u => if b.takes m then s.updTask u (·.onPl (fun p => { p with got := some { m with stored := 0 } })) else put
  | none, _ => put

/-- Whether a launch makes no activation on a core now: the core is stopped for it (11 R253), or it is pre-empted, out or
being restored (22 R402). -/
def State.halted (s : State) (g l : Nat) : Bool :=
  let x := s.launch l
  ((s.coreSt g).stopped && dstopOf x.mode) || x.preempt != 0 || x.st == .out
/-- Whether a post message must wait in the input buffer: its launch, or the one that it would activate, is halted. -/
def State.heldPost (s : State) (g : Nat) (m : Msg) : Bool :=
  s.halted g m.launch || (match Map.get? (s.coreSt g).binds m.idx with
    | some b => b.takes m && s.halted g b.launch
    | none => false)

/-- A message that waits off chip takes space: in the queue area, after eviction, else in its launch's swap area (11 R242); none where
neither has room. -/
def State.seatMsg (s : State) (g : Nat) (m : Msg) : Option Msg × State :=
  match s.areaSpace (clusterOf g) m.launch m.units false with
  | (true, s) => (some { m with stored := 1 }, s)
  | (false, s) =>
    if s.swapRoom m.launch (64 * m.units) then
      let (k, s) := s.swapOut m.launch (clusterOf g) (64 * m.units)
      (some { m with stored := 2, left := k }, s)
    else (none, s)
/-- A message waits in the input buffer: a kill lid ahead of the other messages of its post register (11 R239). -/
def putIn (m : Msg) (ms : List Msg) : List Msg :=
  let k := if m.kill then (ms.takeWhile (fun x => x.chan || x.idx != m.idx || x.kill)).length else ms.length
  ms.take k ++ m :: ms.drop k
/-- Deliver a post message, 11 R239; it waits behind a value that is present, in the input buffer where nothing else has room. A
kill lid goes ahead of waiting messages. -/
def State.deliverPost (s : State) (g : Nat) (m : Msg) : State :=
  let c := s.coreSt g
  if s.heldPost g m then s.onCore g (fun c => { c with inbuf := putIn m c.inbuf })
  else if (Map.get? c.posts m.idx).isSome then
    match s.seatMsg g m with
    | (none, s) => s.onCore g (fun c => { c with inbuf := putIn m c.inbuf })
    | (some m', s) => s.onCore g (fun c =>
      let k := if m.kill then (c.pendPosts.takeWhile (·.kill)).length else c.pendPosts.length
      { c with pendPosts := c.pendPosts.take k ++ m' :: c.pendPosts.drop k })
  else s.setPost g m
/-- The first post message of a core's input buffer that goes on now, delivered: nothing holds it there, it has room, and none of its
post register is before it. -/
def State.drainPost (s : State) (g : Nat) : State :=
  let ms := (s.coreSt g).inbuf.filter (fun m => !m.chan)
  (ms.zipIdx.findSome? (fun p =>
    if (ms.take p.2).any (·.idx == p.1.idx) || s.heldPost g p.1 then none
    else
      let s' := (s.onCore g (fun c => { c with inbuf := c.inbuf.erase p.1 })).deliverPost g p.1
      if (s'.coreSt g).inbuf.length < (s.coreSt g).inbuf.length then some s' else none)).getD s
/-- Entries that came back to a cluster beyond the size of its queue area are moved as R242 says. -/
def State.fitArea (s : State) (cl l : Nat) : Nat → State
  | 0 => s
  | f + 1 =>
    if s.unitsUsed cl none ≤ s.unitsOf l then s
    else
      match (s.overShare cl (s.areaLaunches cl)).bind (s.evictOne cl) with
      | some s' => s'.fitArea cl l f
      | none => s

/-- The message of a post register that is delivered next, 11 R239: a kill lid, wherever it waits, else the oldest. -/
def CoreSt.nextWaiting (c : CoreSt) (i : Nat) : Option Msg :=
  (((c.pendPosts ++ c.inbuf).filter (fun m => !m.chan && m.idx == i)).find? (·.kill)).or (c.pendPosts.find? (fun m => m.idx == i))
/-- Deliver waiting messages of a post register until one is present or none waits, 11 R239, R241. -/
def State.nextPosts (s : State) (g i : Nat) : Nat → State
  | 0 => s
  | f + 1 =>
    let c := s.coreSt g
    if (Map.get? c.posts i).isSome then s
    else
      match c.nextWaiting i with
      | some m =>
        if s.heldPost g m then s
        else ((s.onCore g (fun c => { c with pendPosts := c.pendPosts.erase m, inbuf := c.inbuf.erase m })).setPost g m).nextPosts g i f
      | none => s
/-- The next message of a post register, 11 R239. -/
def State.nextPost (s : State) (g i : Nat) : State := s.nextPosts g i ((s.coreSt g).pendPosts.length + (s.coreSt g).inbuf.length)
/-- A post register loses its value and the next message is delivered. -/
def State.clearPost (s : State) (g i : Nat) : State :=
  (s.onCore g (fun c => { c with posts := Map.del c.posts i })).nextPost g i

/-- A bound channel that holds an entry its binding takes and has no live activation gets one, 11 R241. -/
def State.chanActivate (s : State) (g q : Nat) : State :=
  let c := s.coreSt g
  match Map.get? c.binds (32 + q), Map.get [] c.chans q with
  | some b, m :: _ => if b.live == 0 && b.takes m && !s.halted g b.launch then s.activate g (32 + q) b m else s
  | _, _ => s

/-- Move an entry into its channel, 11 R240, R241: a channel that was empty may activate its binding. Beyond 16 entries it waits in the queue area. -/
def State.deliverChan (s : State) (g : Nat) (m : Msg) : State :=
  let es := Map.get [] (s.coreSt g).chans m.idx
  let m := { m with stored := if es.length < 16 then 0 else 1 }
  let s := s.onCore g (fun c => { c with chans := Map.set c.chans m.idx (es ++ [m]) })
  if es.isEmpty then s.chanActivate g m.idx else s

/-- Post messages that waited in a core's input buffer are delivered, oldest first; those still held stay. -/
def State.flushPosts (s : State) (g : Nat) : List Msg → State
  | [] => s
  | m :: ms => (if m.chan then s.onCore g (fun c => { c with inbuf := c.inbuf ++ [m] }) else s.deliverPost g m).flushPosts g ms
/-- A core's launches go on after a stop or a restore: what waited for them is delivered and activates (24 R425). -/
def State.unhalt (s : State) (g : Nat) : State :=
  let ms := (s.coreSt g).inbuf
  let s := (s.onCore g (fun c => { c with inbuf := [] })).flushPosts g ms
  let s := (List.range 32).foldl (fun s i => s.nextPost g i) s
  (List.range 4).foldl (fun s q => s.chanActivate g q) s

/-- Pop the head of a channel: the 16 oldest entries are on chip (11 R238). -/
def State.popChan (s : State) (g q : Nat) : State :=
  let es := (Map.get [] (s.coreSt g).chans q).tail.mapIdx (fun i m => if i < 16 then { m with stored := 0 } else m)
  s.onCore g (fun c => { c with chans := Map.set c.chans q es })

/-- An activation has ended: a channel's binding may make the next (11 R241), and its run time, from its first
dispatch on, is added (24 R430). -/
def State.activationEnds (s : State) (u : Nat) : State :=
  let t := s.task u
  match t.tid.bind with
  | none => s
  | some i =>
    let g := t.pl.core
    let s := match t.pl.began with
      | none => s
      | some b =>
        let d := delayAdd (Map.get [] (s.coreSt g).delay t.tid.launch) t.tid.msgSrc 0 0 0 (s.dtime - b).toNat
        s.onCore g (fun c => { c with delay := Map.set c.delay t.tid.launch d })
    if i < 32 then s
    else
      let s :=
        match Map.get? (s.coreSt g).binds i with
        | some b =>
          if b.live == u then s.onCore g (fun c => { c with binds := Map.set c.binds i { b with live := 0 } }) else s
        | none => s
      s.chanActivate g (i - 32)

end Sys2Proof.Machine
end

