-- ==== Sys2Proof/Machine/TileCore.lean ====
section
/-! DEFINITION. Tiles: handle values (16 R317), slots and first fit (R315, R316), lineage (R322), freeing (17 R333,
16 R327), and the elements of a tile in operand memory. -/
namespace Sys2Proof.Machine

/-! ### Handle values, R317 -/

def hSt (h : Word) : Nat := (h.extractLsb' 62 2).toNat
def hOnyx (h : Word) : Bool := h.getLsbD 61
def hTag (h : Word) : Tag := Tag.ofCode (h.extractLsb' 57 4)
def hLk (h : Word) : Bool := h.getLsbD 56
def hSide (h : Word) : Bool := h.getLsbD 55
def hLin (h : Word) : Nat := (h.extractLsb' 45 10).toNat
def hSteps (h : Word) : Nat := (h.extractLsb' 24 21).toNat
def hPitch (h : Word) : Nat := (h.extractLsb' 15 3).toNat + 1
def hBc (h : Word) : Nat := (h.extractLsb' 12 3).toNat + 1
def hBr (h : Word) : Nat := (h.extractLsb' 9 3).toNat + 1
def hBase (h : Word) : Nat := (h.extractLsb' 0 9).toNat

/-- EMPTY, LIVE, PENDING, MOVED-FROM. -/
def hEMPTY : Nat := 0
def hLIVE : Nat := 1
def hPENDING : Nat := 2
def hMOVED : Nat := 3
/-- A MOVED-FROM register. -/
def movedFrom : Word := 0xC000000000000000#64

/-- A handle value from its fields. -/
def mkHandle (st : Nat) (onyx : Bool) (tag : Tag) (lk side : Bool) (lin steps pitch bc br base : Nat) : Word :=
  BitVec.ofNat 2 st ++ BitVec.ofBool onyx ++ tag.code ++ BitVec.ofBool lk ++ BitVec.ofBool side ++
  BitVec.ofNat 10 lin ++ BitVec.ofNat 21 steps ++ 0#6 ++ BitVec.ofNat 3 (pitch - 1) ++ BitVec.ofNat 3 (bc - 1) ++
  BitVec.ofNat 3 (br - 1) ++ BitVec.ofNat 9 base

/-- Change the state, the class, or the tag and steps of a handle value. -/
def hWithSt (h : Word) (st : Nat) : Word := BitVec.ofNat 2 st ++ h.extractLsb' 0 62
def hWithOnyx (h : Word) (o : Bool) : Word := h.extractLsb' 62 2 ++ BitVec.ofBool o ++ h.extractLsb' 0 61
def hWithTag (h : Word) (t : Tag) (steps : Nat) : Word :=
  h.extractLsb' 61 3 ++ t.code ++ h.extractLsb' 45 12 ++ BitVec.ofNat 21 steps ++ h.extractLsb' 0 24

/-- A step count is kept for res tiles alone (R317). -/
def isRes (t : Tag) : Bool := t == .bits

/-- The slots of a tile, block row-major, R315. -/
def hSlots (h : Word) : List Nat :=
  (List.range (hBr h)).flatMap (fun i => (List.range (hBc h)).map (fun j => hBase h + i * hPitch h + j))
/-- Whether two tiles share a slot. -/
def hOverlap (a b : Word) : Bool := (hSlots a).any (fun s => (hSlots b).contains s)

/-- The handle values that an accepted tile instruction names. -/
def TileOp.names (o : TileOp) : List Word :=
  o.dst :: (match o.what with
    | .mma a b => [a, b]
    | .cvt src _ _ => [src]
    | _ => [])
/-- Accepted tile instructions of a cluster that are not complete. -/
def State.tileOps (s : State) (cl : Nat) : List TileOp :=
  (s.cores.filter (fun c => clusterOf c.1 == cl)).flatMap (fun c => c.2.tileq)
/-- Whether an accepted instruction names one of the slots. -/
def State.slotsBusy (s : State) (cl : Nat) (sl : List Nat) : Bool :=
  (s.tileOps cl).any (fun o => o.names.any (fun h => (hSlots h).any (fun x => sl.contains x)))

/-! ### Slots -/

/-- First fit, R316: the lowest base of n free slots. -/
def firstFit (used : Map Nat) (n : Nat) : Option Nat :=
  (List.range (513 - n)).find? (fun b => (List.range n).all (fun i => (Map.get? used (b + i)).isNone))
def claimSlots (used : Map Nat) (l base : Nat) : Nat → Map Nat
  | 0 => used
  | n + 1 => Map.set (claimSlots used l base n) (base + n) l

/-- Free slots, once no accepted instruction names them (R333). -/
def State.freeSlots (s : State) (cl : Nat) (sl : List Nat) : State :=
  if s.slotsBusy cl sl then s.onCluster cl (fun c => { c with releasing := c.releasing ++ sl })
  else s.onCluster cl (fun c => { c with slots := sl.foldl Map.del c.slots })
/-- After a completion: free the released slots that nothing names any more. -/
def State.settleSlots (s : State) (cl : Nat) : State :=
  let ready := (s.cluster cl).releasing.filter (fun x => !s.slotsBusy cl [x])
  if ready.isEmpty then s
  else s.onCluster cl (fun c => { c with slots := ready.foldl Map.del c.slots,
                                         releasing := c.releasing.filter (fun x => !ready.contains x) })

/-- The slots of one side of a split, 16 R322. -/
def Lineage.sideSlots (e : Lineage) (side : Bool) : List Nat :=
  let p := e.parent
  (List.range (hBr p)).flatMap (fun i => ((List.range (hBc p)).filter (fun j =>
    decide (e.cut.toNat ≤ (if e.axis then j else i)) == side)).map (fun j => hBase p + i * hPitch p + j))
/-- A child of a split is gone, 16 R327, 17 R333; `freed` says that its slots are free already. With both gone the entry is freed
with the parent's slots; where the parent is a child itself, that one is gone too. The fuel bounds the depth of the splits.
Log entry 42 (DEDUCED). Of a child without an entry, as a restore under dmode 0 leaves it, nothing is freed. Log entry 118 (DESIGN
CHOICE). -/
def State.childGone (s : State) (cl : Nat) : Nat → Word → Bool → State
  | 0, _, _ => s
  | f + 1, h, freed =>
    match Map.get? (s.cluster cl).lineage (hLin h) with
    | none => s
    | some e =>
      let e : Lineage := if hSide h then { e with gone1 := true, freed1 := freed } else { e with gone0 := true, freed0 := freed }
      if e.gone0 && e.gone1 then
        let s := s.onCluster cl (fun c => { c with lineage := Map.del c.lineage (hLin h) })
        let s := s.freeSlots cl ((if e.freed0 then [] else e.sideSlots false) ++ (if e.freed1 then [] else e.sideSlots true))
        if hLk e.parent then s.childGone cl f e.parent true else s
      else s.onCluster cl (fun c => { c with lineage := Map.set c.lineage (hLin h) e })
/-- Release the tile of a handle value, R333, R327: a child sets its gone bit; a Shared tile loses a reference; an Onyx tile's
slots are freed. The lineage table has 1,024 entries. -/
def State.freeTile (s : State) (cl : Nat) (h : Word) : State :=
  if hLk h then s.childGone cl 1025 h false
  else if hOnyx h then s.freeSlots cl (hSlots h)
  else
    let n := Map.get 1 (s.cluster cl).refs (hBase h)
    if n ≤ 1 then
      (s.onCluster cl (fun c => { c with refs := Map.del c.refs (hBase h) })).freeSlots cl (hSlots h)
    else s.onCluster cl (fun c => { c with refs := Map.set c.refs (hBase h) (n - 1) })

/-- Whether a copy command or transfer uses a handle register of a task: it is PENDING until that ends (15 R302, 16 R321). -/
def CopyCmd.holds (q : CopyCmd) (u : Nat) (h : Nat) : Bool :=
  match q.what with
  | .tileLd x _ _ | .tileSt x _ _ => q.owner == u && x.toNat == h
  | .unseal _ (some (x, _)) _ _ _ _ _ => q.owner == u && x.toNat == h
  | .hsend _ _ _ v n => v == u && n.toNat == h
  | _ => false
def State.copyHolds (s : State) (u : Nat) (h : Nat) : Bool := s.clusters.any (fun c => c.2.copyq.any (fun q => q.holds u h))
/-- Whether a copy command, not a transfer on its way in, uses a handle register of a task (15 R302). -/
def State.commandHolds (s : State) (u : Nat) (h : Nat) : Bool :=
  s.clusters.any (fun c => c.2.copyq.any (fun q => q.holds u h && (match q.what with | .hsend _ _ _ _ _ => false | _ => true)))
/-- Whether a waiting trejoin has reserved a register. -/
def Task.reserved (t : Task) (h : Nat) : Bool :=
  match t.pl.reserve with
  | some (r, _) => r.toNat == h
  | none => false

/-- The handle registers of a dying task, R327: LIVE ones are freed; a PENDING one that waits for tile instructions is
freed with them; one that a copy command uses is freed when that ends. A reservation holds no tile. -/
def State.freeHandles (s : State) (u : Nat) : State :=
  let t := s.task u
  let cl := clusterOf t.pl.core
  let mine := t.rf.h.filter (fun p => hSt p.2 == hLIVE || (hSt p.2 == hPENDING && !t.reserved p.1 && !s.copyHolds u p.1))
  mine.foldl (fun s p => s.freeTile cl p.2) s

/-- A tile on its way to a task that aborts is freed when it lands (11 R248 step 4): it goes to no task. -/
def State.orphanSends (s : State) (u : Nat) : State :=
  let hits (q : CopyCmd) : Bool := match q.what with | .hsend _ _ _ v _ => v == u | _ => false
  if s.clusters.all (fun c => !c.2.copyq.any hits) then s
  else
    { s with clusters := s.clusters.map (fun c => (c.1, { c.2 with copyq := c.2.copyq.map (fun q => match q.what with
        | .hsend hv hv' cl v n => if v == u then { q with what := .hsend hv hv' cl 0 n } else q
        | _ => q) })) }

/-! ### Tasks that are OUT -/

/-- Bytes of the register image of a task whose state is saved change with it (07 R153, 16 R321). -/
def State.patchImage (s : State) (u off : Nat) (bs : List Byte) : State :=
  let t := s.task u
  if t.pl.saved then (s.hubWrite (s.agentOf u) (t.sy.stkbase - 0x2000#64 + BitVec.ofNat 64 off) bs).2
  else s
/-- A handle register of a task changes, in its image too where the task is OUT (16 R321). -/
def State.setHandle (s : State) (u : Nat) (n : BitVec 4) (v : Word) : State :=
  (s.updTask u (·.setH n v)).patchImage u (0x80 + 8 * n.toNat) (leBytes 8 v.toNat)
/-- Flags of a tile instruction reach fflags, in the image too where the task is OUT (04 R96). -/
def State.lateFlags (s : State) (u : Nat) (f : BitVec 5) : State :=
  let s := s.updTask u (·.orFlags f)
  let t := s.task u
  if !t.pl.saved then s
  else
    match s.hubRead (s.agentOf u) (t.sy.stkbase - 0x1EB8#64) 1 with
    | (some bs, s) => s.patchImage u 0x148 [bs.headD 0#8 ||| f.setWidth 8]
    | (none, s) => s

/-- Whether an accepted tile instruction keeps a tile that its owner sends on its way, R321: one that names it, and a load or
store, for the move is a release. -/
def TileOp.keeps (o : TileOp) (u : Nat) (v : Word) : Bool :=
  o.owner == u && (o.names.any (hOverlap v) || (match o.what with
    | .load _ _ _ | .store _ _ _ _ _ => true
    | _ => false))
/-- Whether an accepted tile instruction keeps a tile that a task sends on its way. -/
def State.sendPending (s : State) (cl u : Nat) (v : Word) : Bool := (s.tileOps cl).any (fun o => o.keeps u v)
/-- The instructions that keep the tile hold register n of task u': later ones do not (R321). -/
def State.holdSend (s : State) (cl u : Nat) (v : Word) (u' n : Nat) : State :=
  let hold (o : TileOp) : TileOp := if o.keeps u v then { o with holds := (u', n) :: o.holds } else o
  { s with cores := s.cores.map (fun c => if clusterOf c.1 == cl then (c.1, { c.2 with tileq := c.2.tileq.map hold }) else c) }
/-- Registers that tasks of the cluster sent become LIVE when nothing keeps their tile on its way, R321. -/
def State.settlePending (s : State) (cl : Nat) : State :=
  let ready (u : Nat) (t : Task) (n : Nat) : Bool :=
    clusterOf t.pl.core == cl && !(s.tileOps cl).any (fun o => o.holds.contains (u, n))
  let all := s.tasks.flatMap (fun p => (p.2.io.inbound.filter (ready p.1 p.2)).map (fun n => (p.1, n)))
  all.foldl (fun s x =>
    let v := (s.task x.1).hreg (BitVec.ofNat 4 x.2)
    (s.setHandle x.1 (BitVec.ofNat 4 x.2) (hWithSt v hLIVE)).updTask x.1
      (·.onIo (fun o => { o with inbound := o.inbound.filter (· != x.2) }))) s

/-! ### Elements -/

/-- Bits of one element in a slot (R315): res elements are 64 bits. -/
def tileWidth (t : Tag) : Nat := if isRes t then 64 else t.width
/-- The location of element e of a tile, row-major within blocks and blocks row-major (02 R50). -/
def elemLoc (cl : Nat) (h : Word) (w e : Nat) : Nat :=
  let blk := e / 1024
  opmBase cl (hBase h + blk / hBc h * hPitch h + blk % hBc h) + (e % 1024) * (w / 8)
/-- How many elements a tile has. -/
def hElems (h : Word) : Nat := 1024 * hBr h * hBc h
/-- Bytes of one block of a tile. -/
def blockBytes (t : Tag) : Nat := 1024 * tileWidth t / 8

/-- Group bytes into numbers of n bytes each. -/
def groupBytes (n : Nat) : Nat → List Byte → List Nat
  | 0, _ => []
  | k + 1, bs => leNat (bs.take n) :: groupBytes n k (bs.drop n)
/-- The bytes at n consecutive locations in one pass over memory. -/
def memRun (m : List Host.Cell) (a n : Nat) : List Byte :=
  let here := m.filter (fun c => decide (a ≤ c.1) && decide (c.1 < a + n))
  let rec go : Nat → Nat → List Host.Cell → List Byte
    | 0, _, _ => []
    | k + 1, x, [] => 0#8 :: go k (x + 1) []
    | k + 1, x, (y, b) :: cs => if x = y then b :: go k (x + 1) cs else 0#8 :: go k (x + 1) ((y, b) :: cs)
  go n a here

/-- The elements of one block as numbers. -/
def State.blockElems (s : State) (cl slot : Nat) (t : Tag) : List Nat :=
  groupBytes (tileWidth t / 8) 1024 (memRun s.mem (opmBase cl slot) (blockBytes t))
/-- Write the elements of one block. -/
def State.setBlock (s : State) (cl slot : Nat) (t : Tag) (es : List Nat) : State :=
  { s with mem := memSplice s.mem (opmBase cl slot) (es.flatMap (leBytes (tileWidth t / 8))) }
/-- Write the elements of a tile block by block. -/
def State.setBlocks (s : State) (cl : Nat) (t : Tag) : List Nat → List (List Nat) → State
  | slot :: slots, es :: rest => (s.setBlock cl slot t es).setBlocks cl t slots rest
  | _, _ => s
/-- The elements of a tile, one list per block. -/
def State.tileElems (s : State) (cl : Nat) (h : Word) (t : Tag) : List (List Nat) :=
  (hSlots h).map (fun sl => s.blockElems cl sl t)

/-! ### The residue form, 04 R97-R101 -/

/-- The residues of an integer. -/
def resOf (x : Int) : Nat :=
  let ra := (x % ((2 ^ 21 - 1 : Nat) : Int)).toNat
  let rb := (x % ((2 ^ 21 : Nat) : Int)).toNat
  let rc := (x % ((2 ^ 21 + 1 : Nat) : Int)).toNat
  rc * 2 ^ 42 + rb * 2 ^ 21 + ra
/-- Crt(e), R98. -/
def crt (e : Nat) : Int :=
  let m1 : Nat := 2 ^ 21 - 1
  let m2 : Nat := 2 ^ 21
  let m3 : Nat := 2 ^ 21 + 1
  let ra := e % 2 ^ 21 % m1
  let rb := e / 2 ^ 21 % 2 ^ 21
  let rc := e / 2 ^ 42 % m3
  let t := (rb + m2 - ra) * m1 % m2
  let x12 := ra + m1 * t
  let u := (rc + m3 - x12 % m3) * (2 ^ 20 + 1) % m3
  let x : Nat := x12 + (2 ^ 42 - 2 ^ 21) * u
  if 2 ^ 62 - 2 ^ 20 ≤ x then (x : Int) - ((2 ^ 63 - 2 ^ 21 : Nat) : Int) else (x : Int)
/-- The sum of two residue elements, channel by channel (R97). -/
def resAdd (a b : Nat) : Nat :=
  let m1 : Nat := 2 ^ 21 - 1
  let m3 : Nat := 2 ^ 21 + 1
  ((a / 2 ^ 42 + b / 2 ^ 42) % m3) * 2 ^ 42 + ((a / 2 ^ 21 + b / 2 ^ 21) % 2 ^ 21) * 2 ^ 21 +
  (a % 2 ^ 21 + b % 2 ^ 21) % m1

/-- A residue element with canonical fields (R97). -/
def resCanon (e : Nat) : Nat := resAdd e 0
/-- Whether a scale is refused, R102: negative, zero, infinite or NaN. -/
def badScale (k : BitVec 32) : Bool :=
  match fpDecode .f32 k.toNat with
  | .nan _ | .inf _ => true
  | .fin n m _ => n || m == 0

/-- A reconstructed element, R101: one rounding of Crt(e) * 2^-18 * sA * sB. -/
def reconstruct (t : Tag) (sA sB : BitVec 32) (e : Nat) : Nat × BitVec 5 :=
  match fpDecode .f32 sA.toNat, fpDecode .f32 sB.toNat with
  | .fin _ ma ea, .fin _ mb eb =>
    let x := crt e
    fpRound 0#2 t (decide (x < 0)) (x.natAbs * ma * mb) (ea + eb - 18)
  | _, _ => (fpNaN t, 0#5)

end Sys2Proof.Machine
end

