-- ==== Sys2Proof/Machine/SyncCore.lean ====
section
/-! DEFINITION. The sync engine behind its instructions: departures from groups and cells (13 R271), the combination of
an Opal cell (R281), its release (R283-R285), and what becomes of quorum versions (01 R23, 06 R145). -/
namespace Sys2Proof.Machine

/-- Mark a launch "determinism waived" (22 R394; status.waived reads it). -/
def State.waive (s : State) (l : Nat) : State := s.onLaunch l (fun x => { x with waived := true })
/-- The next phase of a launch, 06 R148. -/
def State.nextPhase (s : State) (l : Nat) : State := s.onLaunch l (fun x => { x with phase := x.phase + 1 })

/-- An engine of a cluster as a maker of accesses. -/
def engineAgent (vf cl : Nat) : Agent := { vf := vf, core := 8 * cl, cl := cl }

/-! ### Versions -/

/-- A version becomes an ordinary write performed at its home, 06 R145. A commit is not a new write for the readers of
11 R247; an Opal release is one by an agent that is no ordered task. -/
def State.settleVersion (s : State) (vf : Nat) (commit : Bool) (v : Version) : State :=
  let loc := v.sector * 128
  let s := (s.atHome vf [loc]).underKey vf v.key loc 128
  if commit then s.writeRaw vf (s.homeDie vf loc) v.cells else s.write vf (s.homeDie vf loc) v.owner none v.cells
def State.settleVersions (s : State) (vf : Nat) (commit : Bool) : List Version → State
  | [] => s
  | v :: vs => (s.settleVersion vf commit v).settleVersions vf commit vs

/-- Remove the versions of a predicate; they were never writes (06 R145). -/
def State.dropVersions (s : State) (f : Version → Bool) : State :=
  if s.ms.versions.any f then s.onMs (fun m => { m with versions := m.versions.filter (fun v => !f v) }) else s

/-- Lift the QUORUM condition of a member's versions: without SPEC they become ordinary; with SPEC they become visible
to ordered readers, which counts as a write that arrives now (01 R25). -/
def State.liftQuorum (s : State) (vf u : Nat) (cell : Nat × Nat) : State :=
  let mine := s.ms.versions.filter (fun v => v.owner == u && v.quorum == some cell)
  let s := s.dropVersions (fun v => v.owner == u && v.quorum == some cell)
  let s := s.settleVersions vf false (mine.filter (fun v => !v.spec))
  (mine.filter (·.spec)).foldl (fun s v =>
    let s := s.staleReaders u (some v.pair) v.cells
    s.onMs (fun m => { m with versions := m.versions ++ [{ v with quorum := none, seq := m.vseq }],
                              vseq := m.vseq + 1 })) s

/-! ### Cells -/

/-- The state word of a cell, 13 R276. -/
def Opal.word (c : Opal) : Word :=
  let st : Nat := match c.st with | .idle => 0 | .armed => 1 | .released => 2
  BitVec.ofNat 64 (c.seq.toNat * 2 ^ 48 + c.flags.toNat * 2 ^ 43 + c.arrived.length * 2 ^ 32 + c.n * 2 ^ 21 +
    c.q * 2 ^ 10 + c.how.toNat * 2 ^ 4 + st)

/-- The tag of a contribution code, 13 R277; none for 0. -/
def contTag (c : BitVec 4) : Tag := if c == 4#4 then .i64 else if c == 3#4 then .i32 else .f32
/-- Elements of a term: 32 or, for i64, 16. -/
def contElems (c : BitVec 4) : Nat := if c == 4#4 then 16 else 32
/-- Bytes of an element of a term. -/
def contBytes (c : BitVec 4) : Nat := if c == 4#4 then 8 else 4

/-- One element of a term, 13 R281. -/
def termElem (c : BitVec 4) (w x : Nat) : Nat × BitVec 5 :=
  if c == 0xA#4 then fpMul 0#2 .f32 w x
  else ((w * x) % 2 ^ (8 * contBytes c), 0#5)
/-- One addition of the combination, 13 R281. -/
def accElem (c : BitVec 4) (a t : Nat) : Nat × BitVec 5 :=
  if c == 0xA#4 then fpAdd 0#2 .f32 a t
  else ((a + t) % 2 ^ (8 * contBytes c), 0#5)

/-- Apply an operation element by element and gather the flags. -/
def zipFlags (f : Nat → Nat → Nat × BitVec 5) (xs ys : List Nat) : List Nat × BitVec 5 :=
  let ps := xs.zipWith f ys
  (ps.map (·.1), (ps.map (·.2)).foldl (· ||| ·) 0#5)

/-- The sum of weights by RNE64 in ascending index, as f64 bits, with its flags, 13 R281. -/
def weightSum (ws : List Nat) : Nat × BitVec 5 :=
  ws.foldl (fun acc w =>
    let r := fpAdd 0#2 .f64 acc.1 (fpConv 0#2 .f32 .f64 w).1
    (r.1, acc.2 ||| r.2)) (0, 0#5)

/-- RESCALE of one element: one rounding of acc * Wall / Warr, 13 R281. -/
def rescaleElem (wall warr acc : Nat) : Nat × BitVec 5 :=
  match fpDecode .f64 wall, fpDecode .f64 warr, fpDecode .f32 acc with
  | .fin _ m1 e1, .fin _ m2 e2, .fin n m e =>
    if m2 == 0 then (0, 0#5)
    else if m == 0 || m1 == 0 then (fpSigned .f32 n 0, 0#5)
    else fpRatio 0#2 .f32 n (m * m1) m2 (e + e1 - e2)
  | _, .fin _ m2 _, v => if m2 == 0 then (0, 0#5) else fpPack 0#2 .f32 v
  | _, _, v => fpPack 0#2 .f32 v

/-- Read member i's term from its staging slot; a failing read gives 0 and waives determinism (13 R277, R278). -/
def State.readTerm (s : State) (cl : Nat) (c : Opal) (i : Nat) : List Nat × State :=
  match s.hubRead (engineAgent c.initId.vf cl) (c.stage + BitVec.ofNat 64 (128 * (i + 1))) 128 with
  | (some bs, s) => (groupBytes (contBytes c.tag) (contElems c.tag) bs, s)
  | (none, s) => (List.replicate (contElems c.tag) 0, s.waive c.launch)

/-- The combination over the indices, 13 R281. -/
def State.combineTerms (s : State) (cl : Nat) (c : Opal) : List Nat → List Nat × BitVec 5 → (List Nat × BitVec 5) × State
  | [], acc => (acc, s)
  | i :: is, (acc, fl) =>
    if c.arrived.contains i then
      let (t, s) := s.readTerm cl c i
      let (a, f) := zipFlags (accElem c.tag) acc t
      s.combineTerms cl c is (a, fl ||| f)
    else if c.fill == 2#2 then
      let w := (c.wts[i]?.getD 0#64).toNat
      let (t, f0) := termElem c.tag w (c.fillv.toNat % 2 ^ (8 * contBytes c.tag))
      let (a, f) := zipFlags (accElem c.tag) acc (List.replicate (contElems c.tag) t)
      s.combineTerms cl c is (a, fl ||| f0 ||| f)
    else s.combineTerms cl c is (acc, fl)

/-- Step 3 of a release: combine and write slot 0. The flags are the cell's. -/
def State.combineCell (s : State) (cl : Nat) (c : Opal) : BitVec 5 × State :=
  if c.tag == 0#4 then (c.flags, s)
  else
    let neutral := if c.tag == 0xA#4 then 0x80000000 else 0
    let ((acc, fl), s) := s.combineTerms cl c (List.range c.n) (List.replicate (contElems c.tag) neutral, c.flags)
    let (acc, fl) :=
      if c.fill == 1#2 then
        let ws := c.wts.map (·.toNat)
        let (wall, f1) := weightSum ws
        let (warr, f2) := weightSum ((ws.zipIdx.filter (fun p => c.arrived.contains p.2)).map (·.1))
        let (a, f) := zipFlags (fun x _ => rescaleElem wall warr x) acc acc
        (a, fl ||| f1 ||| f2 ||| f)
      else (acc, fl)
    match s.hubWrite (engineAgent c.initId.vf cl) c.stage (acc.flatMap (leBytes (contBytes c.tag))) with
    | (true, s) => (fl, s)
    | (false, s) => (fl, s.waive c.launch)

/-- Arrival mask words of a release record, 13 R285. -/
def maskWords (n : Nat) (arrived : List Nat) : List Word :=
  (List.range ((n + 63) / 64)).map (fun k =>
    BitVec.ofNat 64 ((arrived.filter (fun i => i / 64 == k)).foldl (fun a i => a ||| 2 ^ (i % 64)) 0))
/-- Bytes of a release record entry. -/
def recordBytes (n : Nat) : Nat := 16 + 8 * ((n + 63) / 64)

/-- The identifier of a cell, 13 R268. -/
def State.cellId (s : State) (vf cl ent : Nat) : Word := BitVec.ofNat 64 ((s.part vf).indexOf cl * 2 ^ 16 + ent)

/-- Step 7: the release record. Dmode 1 writes the entry where there is a rec; in dmodes 1 and 2 the pointer advances. Answers the address
of the entry, 0 for none. -/
def State.releaseRecord (s : State) (cl ent : Nat) : Word × State :=
  let c := Map.get {} (s.cluster cl).cells ent
  let dm := dmodeOf (s.launch c.launch).mode
  if dm == 0 then (0#64, s)
  else
    let at_ := c.ptr
    let s :=
      if dm == 1 && c.rec_ != 0#64 then
        match s.hubWrite (engineAgent c.initId.vf cl) at_
            (wordBytes (c.word :: s.cellId c.initId.vf cl ent :: maskWords c.n c.arrived)) with
        | (true, s) => s
        | (false, s) => s.waive c.launch
      else s
    let c' := { c with ptr := c.ptr + BitVec.ofNat 64 (recordBytes c.n) }
    (if c.rec_ == 0#64 then 0#64 else at_, s.onCluster cl (fun k => { k with cells := Map.set k.cells ent c' }))

/-- Step 8: the continuation, 13 R284 (11 R257 for a cell that rfork armed). -/
def State.continuation (s : State) (cl ent g : Nat) (want : Option Nat) (at_ : Word) : State :=
  let c := Map.get {} (s.cluster cl).cells ent
  if c.cont == 0#64 then s
  else
    let p := c.initId
    let cw := childCw (s.launch p.launch).seed p.lid (c.initCount.setWidth 64)
    let args := if c.fork then c.trip :: p.args.drop 1 else [c.stage, c.word, at_]
    let tid : TaskId :=
      { lid := lidOf p.lid cw, cw := cw, launch := p.launch, vf := p.vf, kind := if c.fork then 5#4 else 2#4,
        ord := p.ord, entry := c.cont, creator := c.init, creatorLid := some p.lid, args := args, born := g }
    let t := freshTask tid g c.initKey (some c.initBud)
    s.enqueue (t.onPl (fun q => { q with want := want }))

/-- A release of a cell, 13 R283; `g` is the core on which the continuation is placed. What it has written is applied at every
die before the continuation is created and before a qwait returns. -/
def State.releaseCell (s : State) (cl ent : Nat) (how : BitVec 4) (g : Nat) (want : Option Nat) : State :=
  let c := Map.get {} (s.cluster cl).cells ent
  let grp := Map.get {} (s.cluster cl).groups c.group
  let members := if c.fork then [] else grp.members
  let vf := c.initId.vf
  let setC (s : State) (f : Opal → Opal) : State :=
    s.onCluster cl (fun k => { k with cells := Map.set k.cells ent (f (Map.get {} k.cells ent)) })
  let s := setC s (fun c => { c with st := .released, seq := c.seq + 1#16, how := how })
  let s := s.nextPhase c.launch
  let (fl, s) := s.combineCell cl (Map.get {} (s.cluster cl).cells ent)
  let s := setC s (fun c => { c with flags := fl })
  let s := (members.filter (·.arrived)).foldl (fun s m => s.liftQuorum vf m.uid (cl, ent)) s
  let s := if c.fork then s else s.onCluster cl (fun k => { k with groups := Map.set k.groups c.group {} })
  let s := (members.filter (fun m => !m.arrived)).foldl (fun s m =>
    s.updTask m.uid (·.onPl (fun p => { p with pend := some { quorum := some (cl, ent) } }))) s
  let s := setC s (fun c => { c with last := c.word })
  let (at_, s) := s.releaseRecord cl ent
  s.drain.continuation cl ent g want at_

/-- Whether an armed cell has what releases it, 13 R280, R285: in dmode 2 the recorded set, else Q arrivals. -/
def Opal.full (c : Opal) : Bool :=
  match c.recset with
  | some r => c.arrived.length == r.length
  | none => c.arrived.length == c.q
/-- The how of a release by arrival. -/
def Opal.howFull (c : Opal) : BitVec 4 := if c.recset.isSome then 4#4 else 1#4
/-- Whether a cell's deadline has come, R282: it is ignored in dmode 2. -/
def State.cellDue (s : State) (c : Opal) : Bool :=
  c.st == .armed && c.dl && dmodeOf (s.launch c.launch).mode != 2 && decide (c.deadline.toNat ≤ s.dtime.toNat)
/-- Release the cells whose deadline has come, with how DEADLINE, on the initialiser's core (R284). -/
def State.dueCells (s : State) : State :=
  (s.clusters.flatMap (fun k => (k.2.cells.filter (fun c => s.cellDue c.2)).map (fun c => (k.1, c.1, c.2.initCore)))).foldl
    (fun s p => s.releaseCell p.1 p.2.1 2#4 p.2.2 none) s

/-- An index departs from an armed cell, 13 R271, R282, R285. Log entry 100 (DESIGN CHOICE). -/
def State.departIndex (s : State) (cl ent idx : Nat) : State :=
  let c := Map.get {} (s.cluster cl).cells ent
  if c.st != .armed then s
  else
    let c := { c with departed := if c.departed.contains idx then c.departed else idx :: c.departed,
                      arrived := c.arrived.filter (· != idx), held := c.held.filter (· != idx) }
    let s := s.onCluster cl (fun k => { k with cells := Map.set k.cells ent c })
    match c.recset with
    | some r => if r.contains idx then (s.waive c.launch).releaseCell cl ent 5#4 c.initCore none else s
    | none => if c.n - c.departed.length < c.q then s.releaseCell cl ent 3#4 c.initCore none else s

/-- A recruit of rfork arrives by its exit or its kill, 11 R257. -/
def State.forkArrive (s : State) (cl ent idx g : Nat) (ctx : Option Nat) : State :=
  let c := Map.get {} (s.cluster cl).cells ent
  if c.st != .armed || !c.fork || c.arrived.contains idx then s
  else
    let c := { c with arrived := c.arrived ++ [idx] }
    let s := s.onCluster cl (fun k => { k with cells := Map.set k.cells ent c })
    if c.arrived.length == c.n then s.releaseCell cl ent 1#4 g ctx else s

/-- A barrier phase releases when every member has arrived in it, R273: the phase and the launch phase advance. -/
def State.settleBarrier (s : State) (cl ent : Nat) : State :=
  let grp := Map.get {} (s.cluster cl).groups ent
  if grp.st == .barrier && !grp.members.isEmpty && grp.members.all (fun m => m.arrived && m.phase == grp.phase) then
    (s.onCluster cl (fun k => { k with groups := Map.set k.groups ent { grp with phase := (grp.phase + 1) % 2 ^ 32 } })).nextPhase
      grp.launch
  else s

/-- A task leaves one group, 13 R271. A killed member loses its arrival; an arrived member that exits keeps it. -/
def State.leaveGroup (s : State) (u : Nat) (killed : Bool) (cl ent : Nat) : State :=
  let grp := Map.get {} (s.cluster cl).groups ent
  match grp.members.find? (·.uid == u) with
  | none => s
  | some m =>
    if grp.st == .quorum && m.arrived && !killed then s
    else
      let grp' := { grp with members := grp.members.filter (·.uid != u) }
      let s := s.onCluster cl (fun k => { k with groups := Map.set k.groups ent grp' })
      if grp.st == .quorum then
        (s.dropVersions (fun v => v.owner == u && v.quorum == some (cl, grp.cell))).departIndex cl grp.cell m.idx
      else s.settleBarrier cl ent

/-- The groups a task belongs to: cluster and entry. -/
def State.groupsOf (s : State) (u : Nat) : List (Nat × Nat) :=
  s.clusters.flatMap (fun c => (c.2.groups.filter (fun g => g.2.members.any (·.uid == u))).map (fun g => (c.1, g.1)))
/-- A task leaves every group, 13 R271. -/
def State.leaveAll (s : State) (u : Nat) (killed : Bool) : State :=
  (s.groupsOf u).foldl (fun s p => s.leaveGroup u killed p.1 p.2) s

end Sys2Proof.Machine
end

