-- ==== Sys2Proof/Machine/GarnetCore.lean ====
section
/-! DEFINITION. Garnet behind its instructions: sums and selection (19 R351-R356), the queue (R357), handlers (R358),
arming (R360, R364), the log (R361) and rollback (R362). -/
namespace Sys2Proof.Machine

def State.region (s : State) (cl r : Nat) : Option Region := Map.get? (s.cluster cl).regions r
def State.setRegion (s : State) (cl r : Nat) (x : Region) : State :=
  s.onCluster cl (fun c => { c with regions := Map.set c.regions r x })
def State.onRegion (s : State) (cl r : Nat) (f : Region → Region) : State :=
  match s.region cl r with
  | some x => s.setRegion cl r (f x)
  | none => s

/-! ### Leaves -/

/-- Where leaf i of a region is: the engine's cluster and the leaf in its tree (R353). -/
def Region.leafAt (r : Region) (cl i : Nat) : Nat × Nat := (cl + i / 32768, r.base + i % 32768)
def State.leaf (s : State) (cl : Nat) (r : Region) (i : Nat) : Word :=
  Map.get 0#64 (s.cluster (r.leafAt cl i).1).leaves (r.leafAt cl i).2
def State.setLeaf (s : State) (cl : Nat) (r : Region) (i : Nat) (v : Word) : State :=
  s.onCluster (r.leafAt cl i).1 (fun c => { c with leaves := Map.set c.leaves (r.leafAt cl i).2 v })
/-- The rate of a leaf word, R351. -/
def leafRate (v : Word) : Nat := v.toNat % 2 ^ 48
/-- The type of a leaf word, R351. -/
def leafType (v : Word) : Nat := v.toNat / 2 ^ 52 % 16

/-- The listed leaves of a region by index, with changes that a reader does not see yet replaced. -/
def State.leafList (s : State) (cl : Nat) (r : Region) (old : Map Word) : List (Nat × Word) :=
  let here := (List.range r.wide).flatMap (fun k =>
    ((s.cluster (cl + k)).leaves.filter (fun p => decide (r.base ≤ p.1) && decide (p.1 < r.base + min r.leaves 32768))).map
      (fun p => (32768 * k + (p.1 - r.base), p.2)))
  here.map (fun p => (p.1, Map.get p.2 old p.1)) ++ old.filter (fun p => !here.any (fun q => q.1 == p.1))
/-- The exact sum of the rates of the leaves from lo to lo + n - 1. -/
def sumRange (ls : List (Nat × Word)) (lo n : Nat) : Nat :=
  ((ls.filter (fun p => decide (lo ≤ p.1) && decide (p.1 < lo + n))).map (fun p => leafRate p.2)).sum
/-- S of a region. -/
def State.regionSum (s : State) (cl : Nat) (r : Region) : Nat := sumRange (s.leafList cl r []) 0 r.leaves

/-- Select(y): the descent of R356 from a node of n = 2^k leaves starting at lo. -/
def descend (ls : List (Nat × Word)) : Nat → Nat → Nat → Nat → Nat
  | 0, lo, _, _ => lo
  | k + 1, lo, n, target =>
    let left := sumRange ls lo (n / 2)
    if target < left then descend ls k lo (n / 2) target else descend ls k (lo + n / 2) (n / 2) (target - left)

/-- The leaf ranges in use on an engine: first leaf and number, wide regions included. -/
def State.leafRanges (s : State) (cl : Nat) : List (Nat × Nat) :=
  s.clusters.flatMap (fun c => c.2.regions.filterMap (fun r =>
    if decide (c.1 ≤ cl) && decide (cl < c.1 + r.2.wide) then some (r.2.base, min r.2.leaves 32768) else none))
/-! ### The next event -/

/-- The global region number, R352. -/
def State.globalRegion (s : State) (vf cl r : Nat) : Nat := 64 * (s.part vf).indexOf cl + r

/-- What Next(R) finds, R355. -/
inductive NextEvent where
  | refuse (code : BitVec 8) (tval : Word)
  | nothing
  | bound (b : Bound)
  | stoch (time : Word) (leaf : Nat)
deriving DecidableEq, Repr

def cEVTAB : BitVec 8 := 0x3B#8
def cEVTIME : BitVec 8 := 0x3E#8

/-- The earliest queue entry: the queue is kept in order. -/
def Region.first (r : Region) : Option Bound := r.queue.head?

/-- Whether f64 bits are finite. -/
def finite64 (x : Word) : Bool :=
  match fpDecode .f64 x.toNat with
  | .fin _ _ _ => true
  | _ => false

/-- The stochastic time and leaf of a region with S > 0, or the refusal of R355. -/
def State.stochastic (s : State) (cl r : Nat) (x : Region) (sum : Nat) : NextEvent :=
  let gr := s.globalRegion (s.launch x.launch).vf cl r
  let key := (s.launch x.launch).seed ^^^ (0x5D00000000000000#64 + BitVec.ofNat 64 gr)
  let tab := x.draws != 0#2
  if tab && decide (x.tlen ≤ x.count.toNat) then .refuse cEVTAB x.count
  else
    let at_ := clmBase cl + x.table + 16 * x.count.toNat
    let w0 := if tab then s.phys64 at_ else draw key (2#64 * x.count)
    let w1 := if tab then s.phys64 (at_ + 8) else draw key (2#64 * x.count + 1#64)
    let v := if x.draws == 2#2 then w0 else expVar w0
    let bad := x.draws == 2#2 && (match fpDecode .f64 w0.toNat with
      | .nan _ => true
      | .inf n => n
      | .fin n m _ => n && m != 0)
    if bad then .refuse cEVTIME w0
    else
      let v := if v == 0x8000000000000000#64 then 0#64 else v
      let rate := (fpRound 0#2 .f64 false sum x.e).1
      let tc := BitVec.ofNat 64 (fpAdd 0#2 .f64 x.clock.toNat (fpDiv 0#2 .f64 v.toNat rate).1).1
      if !finite64 tc then .refuse cEVTIME tc
      else .stoch tc (descend (s.leafList cl x []) (x.leaves.log2) 0 x.leaves (drawIndex w1 sum))

/-- Next(R) without its effect, R355. Times are non-negative, so they compare as their bits. -/
def State.nextEvent (s : State) (cl r : Nat) (x : Region) : NextEvent :=
  let sum := s.regionSum cl x
  let takeBound (b : Bound) : NextEvent := if b.time.toNat < x.clock.toNat then .refuse cEVTIME b.time else .bound b
  if sum == 0 then
    match x.first with
    | some b => takeBound b
    | none => .nothing
  else
    match s.stochastic cl r x sum, x.first with
    | .stoch tc leaf, some b => if b.time.toNat ≤ tc.toNat then takeBound b else .stoch tc leaf
    | other, _ => other

/-! ### Handlers and the log -/

/-- The lid of the handler of event n, R358. -/
def State.handlerCw (s : State) (cl r : Nat) (x : Region) (n : Word) : Word :=
  let gr := s.globalRegion (s.launch x.launch).vf cl r
  draw ((s.launch x.launch).seed ^^^ 0x7C1D000000000001#64)
    ((BitVec.ofNat 64 (0x80000000 + gr) <<< 32) ||| (n &&& 0xFFFFFFFF#64))
/-- The lid of event n's handler: its launch part is the launch number. -/
def State.handlerLid (s : State) (cl r : Nat) (x : Region) (n : Word) : Word :=
  lidOf ((s.launch x.launch).num.setWidth 64 <<< 32) (s.handlerCw cl r x n)

/-- The core of an any-core placement, 11 R255. -/
def anyCore (l : Launch) (lid : Word) : Nat :=
  (l.active[drawIndex (draw (l.seed ^^^ 0x9A3C000000000001#64) lid) l.active.length]?).getD 0

/-- Create the handler of an event, R358. -/
def State.addHandler (s : State) (cl r : Nat) (x : Region) (n time : Word) (leaf : Nat) (b : Option Bound) (entry : Word) :
    State :=
  let lid := s.handlerLid cl r x n
  let l := s.launch x.launch
  let a0 : Word := BitVec.ofNat 64 leaf ||| (if b.isSome then 0x8000000000000000#64 else 0#64)
  let g := anyCore l lid
  let tid : TaskId :=
    { lid := lid, cw := s.handlerCw cl r x n, launch := x.launch, vf := l.vf, kind := 2#4, ord := true, entry := entry,
      args := [a0, time, n, (b.map (·.payload)).getD 0#64], born := g, region := some (cl, r, n) }
  s.enqueue (freshTask tid g time none)

/-- Put a log entry in pair order: after every entry whose pair is not above its own. -/
def logInsert (e : LogEnt) : List LogEnt → List LogEnt
  | [] => [e]
  | f :: fs => if e.pair.lt f.pair then e :: f :: fs else f :: logInsert e fs
/-- Put a boundary event in the order of R357. -/
def boundBefore (a b : Bound) : Bool :=
  decide (a.time.toNat < b.time.toNat) ||
  (a.time == b.time && (decide (a.sgr < b.sgr) || (a.sgr == b.sgr && decide (a.scount.toNat < b.scount.toNat))))
def queueInsert (b : Bound) : List Bound → List Bound
  | [] => [b]
  | c :: cs => if boundBefore b c then b :: c :: cs else c :: queueInsert b cs

/-- Free log entries, the reserved one included, R354. -/
def Region.logFree (x : Region) : Nat := 512 - x.log.length
/-- The mode switch of R364. -/
def Region.remode (x : Region) : Region :=
  { x with conservative := if x.logFree ≤ 64 then true else if 256 ≤ x.logFree then false else x.conservative }
def Region.addLog (x : Region) (e : LogEnt) : Region := ({ x with log := logInsert e x.log }).remode

/-- The conservative bound, R364: none for +infinity. -/
def State.regionBound (s : State) (vf : Nat) (x : Region) : Option Word :=
  let clocks := x.neigh.filterMap (fun gr =>
    if gr == 2 ^ 32 then none
    else match (s.part vf).clusterAt (gr / 64) with
      | some c => (s.region c (gr % 64)).map (fun y => y.committed.toNat)
      | none => none)
  match clocks with
  | [] => none
  | c :: cs => some (BitVec.ofNat 64 (fpAdd 0#2 .f64 (cs.foldl min c) x.look.toNat).1)

/-- The fields of a region id, R352: cluster index and region number, none where a field that must be 0 is not. -/
def regionFields (id : Word) : Option (Nat × Nat) :=
  if id.extractLsb' 26 38 != 0#38 || id.extractLsb' 6 10 != 0#10 then none
  else some ((id.extractLsb' 16 10).toNat, (id.extractLsb' 0 6).toNat)
/-- The engine and number of a region id that the permission table admits for an issuer, R352. -/
def State.regionRef (s : State) (vf cl : Nat) (id : Word) : Option (Nat × Nat) :=
  match regionFields id with
  | none => none
  | some (i, r) =>
    match (s.part vf).clusterAt i with
    | some c => if (s.part vf).mayReach cl c then some (c, r) else none
    | none => none

/-- The engine and region that an update of a task names. -/
def State.updRegion (s : State) (u : Nat) (id : Word) : Option (Nat × Nat) :=
  s.regionRef (s.task u).tid.vf (clusterOf (s.task u).pl.core) id
/-- Updates on their way to a region. -/
def State.updsTo (s : State) (cl r : Nat) : Nat :=
  (s.tasks.map (fun p => (p.2.io.upds.filter (fun q => s.updRegion p.1 q.region == some (cl, r))).length)).sum

/-- Take an event of an ORDERED region, R360, R361: clock and count move, the handler is created and the region is
ARMED, or, for a type without a handler, the region owns the entry and stays IDLE. -/
def State.takeOrdered (s : State) (cl r : Nat) (x : Region) (time : Word) (leaf : Nat) (b : Option Bound) : State :=
  let n := x.count
  let entry := (x.handlers[leafType (s.leaf cl x leaf)]?).getD 0#64
  let u := s.nextUid
  let has := entry != 0#64
  let s := if has then s.addHandler cl r x n time leaf b entry else s
  let lid := s.handlerLid cl r x n
  let ent : LogEnt := { pair := { key := time, lid := lid, cw := s.handlerCw cl r x n,
                                  born := anyCore (s.launch x.launch) lid }, owner := if has then u else 0,
                        what := .event x.clock n b has }
  let x := { x with clock := time, count := n + 1#64, queue := if b.isSome then x.queue.tail else x.queue,
                    armed := has, pending := if has then u else 0, held := none, rearm := none }
  s.setRegion cl r (x.addLog ent)

/-- Whether a held arm at a pair is the horizon holder: a task that shares the pair comes first (R363, 11 R246). -/
def State.pairHolds (s : State) (vf : Nat) (p : Pair) : Bool :=
  s.tasks.all (fun t => !t.2.tid.ord || t.2.tid.vf != vf || p.before t.2.pair) && (s.freePairs vf).all (fun q => !q.before p)

/-- Run Next(R) for an IDLE ORDERED region and arm it, R360, R364: in CONSERVATIVE mode an event above the bound is held,
unless it is the horizon holder; so is one that finds no log entry but the reserved one, which goes to the horizon holder
(`holder`: the issuer is it). A refusal is remembered for the next evnext (R366). -/
def State.arm (s : State) (cl r : Nat) (holder : Bool := false) : State :=
  match s.region cl r with
  | none => s
  | some x =>
    if x.armed || !x.ordered then s
    else
      let vf := (s.launch x.launch).vf
      let try_ (time : Word) (leaf : Nat) (b : Option Bound) : State :=
        let p : Pair := { key := time, lid := s.handlerLid cl r x x.count }
        let late := x.conservative && (match s.regionBound vf x with
          | some y => decide (y.toNat < time.toNat)
          | none => false)
        let first := s.pairHolds vf p
        let full := if first || holder then x.logFree == 0 else decide (x.logFree ≤ 1 + s.updsTo cl r)
        if (late && !first) || full then s.setRegion cl r { x with held := some p }
        else s.takeOrdered cl r x time leaf b
      match s.nextEvent cl r x with
      | .refuse c tv => s.setRegion cl r { x with rearm := some (c, tv), held := none }
      | .nothing => s.setRegion cl r { x with held := none }
      | .bound b => try_ b.time b.leaf (some b)
      | .stoch tc leaf => try_ tc leaf none

/-! ### Rollback, R362 -/

/-- Whether an entry counts for stragglers: schedule entries do not. -/
def LogEnt.solid (e : LogEnt) : Bool :=
  match e.what with
  | .sched _ => false
  | _ => true
/-- An event or a leaf change. -/
def LogEnt.change (e : LogEnt) : Bool :=
  match e.what with
  | .event _ _ _ _ | .leaf _ _ => true
  | _ => false

/-- An event. -/
def LogEnt.isEvent (e : LogEnt) : Bool :=
  match e.what with
  | .event _ _ _ _ => true
  | _ => false

/-- Undo entries newest first: leaves and the queue take their old values, clock and count those before the oldest undone
event, which of two at one time is the one with the lower count. -/
def State.undoEntries (s : State) (cl r : Nat) : List LogEnt → State
  | [] => s
  | e :: es =>
    let s :=
      match s.region cl r with
      | none => s
      | some x =>
        match e.what with
        | .event c n b _ =>
          s.setRegion cl r { x with clock := if n.toNat < x.count.toNat then c else x.clock,
                                    count := if n.toNat < x.count.toNat then n else x.count,
                                    queue := match b with | some b => queueInsert b x.queue | none => x.queue,
                                    armed := if x.pending == e.owner then false else x.armed,
                                    pending := if x.pending == e.owner then 0 else x.pending }
        | .leaf i old => s.setLeaf cl x i old
        | _ => s
    s.undoEntries cl r es

/-- The owner of an undone entry aborts; the handler of an undone event is not requeued. -/
def State.doomOwner (s : State) (e : LogEnt) : State :=
  match e.what with
  | .event _ _ _ _ => (s.doom e.owner).updTask e.owner (·.onPl (fun p => if p.doomed then { p with discard := true } else p))
  | _ => s.doom e.owner

/-- Roll one region back: the entries of the log from the first that satisfies the test on are undone, schedule entries
excepted. Answers the state and the undone entries. -/
def State.rollRegion (s : State) (cl r : Nat) (test : LogEnt → Bool) : State × List LogEnt :=
  match s.region cl r with
  | none => (s, [])
  | some x =>
    match x.log.findIdx? test with
    | none => (s, [])
    | some i =>
      let tail := x.log.drop i
      let gone := tail.filter LogEnt.solid
      let s := s.setRegion cl r ({ x with log := x.log.take i ++ tail.filter (fun (e : LogEnt) => !e.solid) }).remode
      ((s.undoEntries cl r gone.reverse), gone)

/-- The regions of the device as cluster and region number. -/
def State.allRegions (s : State) : List (Nat × Nat) := s.clusters.flatMap (fun c => c.2.regions.map (fun r => (c.1, r.1)))

/-- Remove the schedule and READ entries of a task from a region, with the boundary events it queued. -/
def State.dropLight (s : State) (u cl r : Nat) : State :=
  match s.region cl r with
  | none => s
  | some x =>
    let mine := x.log.filter (fun e => e.owner == u && !e.change)
    if mine.isEmpty then s
    else
      let bs := mine.filterMap (fun e => match e.what with | .sched b => some b | _ => none)
      s.setRegion cl r ({ x with log := x.log.filter (fun e => !(e.owner == u && !e.change)),
                                 queue := x.queue.filter (fun b => !bs.contains b) }).remode

/-- The schedule and READ entries of tasks go from every region. -/
def State.dropLights (s : State) : List Nat → State
  | [] => s
  | u :: us => (s.allRegions.foldl (fun s p => s.dropLight u p.1 p.2) s).dropLights us
/-- Undo everything that tasks of a list own, region by region, and what that undoes in turn (R362 step 3); then their schedule
and READ entries go, so that a boundary event which an undone event had taken goes with the schedule that queued it. An event
entry of a task that keeps its event is not undone. Answers the regions that lost an event. -/
def State.undoOwners (s : State) : Nat → List (Nat × Bool) → List Nat → List (Nat × Nat) → State × List (Nat × Nat)
  | 0, _, done, touched => (s.dropLights done, touched)
  | _ + 1, [], done, touched => (s.dropLights done, touched)
  | f + 1, (u, keepEvent) :: rest, done, touched =>
    let test (e : LogEnt) : Bool := e.owner == u && e.change &&
      !(keepEvent && (match e.what with | .event _ _ _ _ => true | _ => false))
    let (s, more, touched) := s.allRegions.foldl (fun (acc : State × List (Nat × Bool) × List (Nat × Nat)) p =>
      let (s, gone) := acc.1.rollRegion p.1 p.2 test
      let s := gone.foldl (fun s e => if e.owner == u && !e.isEvent then s else s.doomOwner e) s
      let others := (gone.filter (fun e => e.owner != u && e.owner != 0)).map (fun e => (e.owner, false))
      (s, acc.2.1 ++ others, if gone.any LogEnt.isEvent then p :: acc.2.2 else acc.2.2)) (s, [], touched)
    s.undoOwners f (rest ++ more.filter (fun m => !(u :: done).contains m.1)) (u :: done) touched

/-- A fuel that covers every owner of every log. -/
def State.logFuel (s : State) : Nat :=
  1 + s.tasks.length + (s.allRegions.map (fun p => match s.region p.1 p.2 with | some x => x.log.length | none => 0)).sum

/-- Try every held arm again. -/
def State.retryHeld (s : State) : State :=
  s.allRegions.foldl (fun s p =>
    match s.region p.1 p.2 with
    | some x => if x.held.isSome then s.arm p.1 p.2 else s
    | none => s) s
/-- Re-arm the ORDERED regions whose pending event was undone, R360; held arms stand at the pairs that their events now have
(R363). -/
def State.rearmAll (s : State) : List (Nat × Nat) → State
  | [] => s.retryHeld
  | p :: ps => (s.arm p.1 p.2).rearmAll ps

/-- A straggler of a pair reaches a region: roll back, abort the owners, undo their other entries (R362 steps 1-3). The
caller applies the straggler and then re-arms what is answered (step 4). Log entry 49 (DEDUCED). -/
def State.straggle (s : State) (cl r : Nat) (p : Pair) : State × List (Nat × Nat) :=
  let (s, gone) := s.rollRegion cl r (fun (e : LogEnt) => e.solid && p.lt e.pair)
  if gone.isEmpty then (s, [])
  else
    let s := gone.foldl (fun s e => s.doomOwner e) s
    s.undoOwners s.logFuel (((gone.map (·.owner)).dedup.filter (· != 0)).map (fun u => (u, false))) []
      (if gone.any LogEnt.isEvent then [(cl, r)] else [])

/-- Undo every Garnet change that a dying or aborting task owns and re-arm (11 R250; 19 R362). -/
def State.undoGarnet (s : State) (u : Nat) (keepEvent : Bool) : State :=
  if s.allRegions.any (fun p => match s.region p.1 p.2 with | some x => x.log.any (·.owner == u) | none => false) then
    let (s, touched) := s.undoOwners s.logFuel [(u, keepEvent)] [] []
    s.rearmAll touched
  else s

/-- The entries of an owner are freed when it commits, R361; the committed clock is the clock after the last committed
event (20 R382), and regions that hold an arm are tried again (R364). -/
def State.commitGarnet (s : State) (test : LogEnt → Bool) : State :=
  s.allRegions.foldl (fun s p =>
    match s.region p.1 p.2 with
    | none => s
    | some x =>
      if x.log.any test then
        let evs := x.log.filterMap (fun e => if test e then (match e.what with
          | .event _ _ _ _ => some e.pair.key | _ => none) else none)
        let committed := evs.foldl (fun c k => if c.toNat < k.toNat then k else c) x.committed
        s.setRegion p.1 p.2 ({ x with log := x.log.filter (fun e => !test e), committed := committed }).remode
      else s) s

/-! ### Leaf updates -/

def cEVREF : BitVec 8 := 0x38#8
def cEVSTATE : BitVec 8 := 0x39#8
def cEVRANGE : BitVec 8 := 0x3A#8
def cEVDISC : BitVec 8 := 0x3D#8
def cEVLID : BitVec 8 := 0x3F#8

/-- In dmodes 1 and 2 a PLAIN region takes commands of one lid per phase: the first lid of the phase if it is another
(R367). Log entry 48 (DEDUCED). -/
def State.regionLid (s : State) (u : Nat) (x : Region) : Option Word :=
  let l := s.launchOf u
  match x.phaseLid with
  | some (ph, o) => if dmodeOf l.mode != 0 && !x.ordered && ph == l.phase && o != (s.task u).tid.lid then some o else none
  | none => none
/-- The lid of an accepted command is noted. -/
def State.noteLid (s : State) (u cl r : Nat) : State :=
  let l := s.launchOf u
  if dmodeOf l.mode == 0 then s
  else s.onRegion cl r (fun x => if x.ordered then x else { x with phaseLid := some (l.phase, (s.task u).tid.lid) })

/-- The new leaf word of an update, 20 R377; none for EVRANGE. -/
def updatedLeaf (add : Bool) (old v : Word) : Option Word :=
  if add then
    let q : Int := (leafRate old : Int) + v.toInt
    if q < 0 || (2 ^ 48 - 1 : Int) < q then none
    else some (BitVec.ofNat 64 (old.toNat / 2 ^ 48 * 2 ^ 48 + q.toNat))
  else if v.extractLsb' 56 8 != 0#8 || v.extractLsb' 48 4 != 0#4 then none
  else some v

/-- Perform an update at its region for a task, 20 R377, 19 R359-R362: the refusal's code and tval, or the state. -/
def State.performUpd (s : State) (u : Nat) (up : LeafUpd) : Except (BitVec 8 × Word) State × State :=
  let t := s.task u
  match s.regionRef t.tid.vf (clusterOf t.pl.core) up.region with
  | none => (.error (cEVREF, up.region), s)
  | some (c, r) =>
    match s.region c r with
    | none => (.error (cEVREF, up.region), s)
    | some x =>
      if x.ordered && !t.tid.ord then (.error (cEVDISC, up.region), s)
      else
        match s.regionLid u x with
        | some o => (.error (cEVLID, o), s)
        | none =>
          if x.leaves ≤ up.leaf.toNat then (.error (cEVSTATE, up.region), s)
          else
            let before := s
            let (s, touched) := if x.ordered then s.straggle c r t.pair else (s, [])
            let x := (s.region c r).getD x
            let i := up.leaf.toNat
            let old := s.leaf c x i
            match updatedLeaf up.add old up.val with
            | none => (.error (cEVRANGE, up.leaf), before)
            | some new =>
              if 2 ^ 64 ≤ s.regionSum c x - leafRate old + leafRate new then
                (.error (cEVRANGE, up.leaf), before)
              else
                let s := (s.noteLid u c r).setLeaf c x i new
                let s :=
                  if x.ordered && !s.isHolder u then
                    s.onRegion c r (fun y => y.addLog { pair := t.pair, owner := u, what := .leaf i old })
                  else s
                (.ok (s.rearmAll touched), s)

/-- Perform the oldest update of a task (one to a PLAIN region waits above the horizon, R359; those of a task that is to be aborted are
never performed, R362), or turn its refusal into a store-fault record by the caller's function. -/
def State.stepUpd (s : State) (u : Nat) (refused : State → LeafUpd → BitVec 8 × Word → State) : State :=
  match (s.task u).io.upds with
  | [] => s
  | up :: rest =>
    let plain := match s.updRegion u up.region with
      | some (c, r) => (match s.region c r with | some x => !x.ordered | none => false)
      | none => false
    if (plain && s.provisional u) || (s.task u).pl.doomed then s
    else
    let s := s.updTask u (·.onIo (fun o => { o with upds := rest }))
    match s.performUpd u up with
    | (.ok s, _) => s
    | (.error e, s) => refused s up e
/-- Perform updates of a task, at most n. -/
def State.flushUpds (s : State) (u : Nat) (refused : State → LeafUpd → BitVec 8 × Word → State) : Nat → State
  | 0 => s
  | n + 1 => (s.stepUpd u refused).flushUpds u refused n

end Sys2Proof.Machine
end

