-- ==== Sys2Proof/Machine/Ops.lean ====
section
/-! DEFINITION. The shared operations of instructions: retiring and waiting, taking a trap and returning from one (07
R162, R185), reporting (R164), kill (R165) and abort (11 R248), and a task's reads and writes of memory (08 R186-R189). -/
namespace Sys2Proof.Machine

/-! ### Time -/

/-- Count n events in counter i of a capture of a group, 08 R199; a counter that wraps is noted. -/
def Perf.add (p : Perf) (group i n : Nat) : Perf :=
  if p.active && p.group.toNat == group then
    let old := if i == 0 then p.c0 else if i == 1 then p.c1 else if i == 2 then p.c2 else p.c3
    let new := old + BitVec.ofNat 64 n
    let p := if i == 0 then { p with c0 := new } else if i == 1 then { p with c1 := new }
      else if i == 2 then { p with c2 := new } else { p with c3 := new }
    { p with wrapped := p.wrapped || decide (2 ^ 64 ≤ old.toNat + n) }
  else p
/-- Count events in a task's capture, which halts while the task is switched out. -/
def Task.count (t : Task) (group i n : Nat) : Task :=
  if t.io.perf.active && !t.pl.saved then t.onIo (fun o => { o with perf := o.perf.add group i n }) else t
/-- n cycles of a task whose context is READY: its budget in dmode 0 (11 R237) and the capture of group 0 (24 R433). -/
def Task.cycles (t : Task) (dm n : Nat) : Task :=
  if t.pl.life != .resident || t.pl.run != .ready then t
  else
    let t := if t.sy.budOn && dm == 0 then
        t.onSy (fun y => { y with budLeft := BitVec.ofNat 63 (y.budLeft.toNat - n) })
      else t
    t.count 0 1 n
/-- Whether a cluster's arithmetic clock is stretched: a cycle then lasts 1.5 ns (25 R439). Log entry 76 (DEDUCED). -/
def State.stretched (s : State) (cl : Nat) : Bool := s.hub.powerStretch || (s.cluster cl).droop
/-- Cycles of a cluster in n ns, R7. -/
def State.cyclesIn (s : State) (cl n : Nat) : Nat :=
  if s.stretched cl then (2 * n + (s.cluster cl).frac) / 3 else n
/-- n ns pass for the clocks of stretched clusters: what is left of a cycle is kept, and what is no cycle counted. -/
def State.passClocks (s : State) (n : Nat) : List Nat → State
  | [] => s
  | cl :: cls =>
    (if s.stretched cl then
      s.onCluster cl (fun c => { c with frac := (2 * n + c.frac) % 3, slow := c.slow + BitVec.ofNat 64 (n - s.cyclesIn cl n) })
    else s).passClocks n cls
/-- The number of a cluster's present cycle: cycles are 1 ns but for those of a stretched clock (00 R7). -/
def State.cycleOf (s : State) (cl : Nat) : Word := s.dtime - (s.cluster cl).slow
/-- n ticks of device time pass, 01 R26; a task counts the cycles of its cluster's clock (R7). -/
def State.pass (s : State) (n : Nat) : State :=
  let count (t : Task) : Task := t.cycles (dmodeOf (s.launch t.tid.launch).mode) (s.cyclesIn (clusterOf t.pl.core) n)
  { s.passClocks n (s.tasks.map (fun p => clusterOf p.2.pl.core)).dedup with
    dtime := s.dtime + BitVec.ofNat 64 n, tasks := s.tasks.map (fun p => (p.1, count p.2)) }

/-! ### Ends of tasks -/

/-- Lift the pins of a task, 06 R132, and with them those of others on the same lines. -/
def State.unpin (s : State) (u : Nat) : State := s.liftPins ((s.ms.pins.filter (·.owner == u)).map (·.line))
/-- Free the stack slot of a task, 22 R397. -/
def State.freeStack (s : State) (u : Nat) : State :=
  let t := s.task u
  match t.pl.stack with
  | some k => (s.onLaunch t.tid.launch (fun l => { l with stackUse := l.stackUse.filter (· != k) })).updTask u
      (·.onPl (fun p => { p with stack := none }))
  | none => s
/-- A pre-emption handler has ended on a core, 22 R403: after the last one the pre-emption goes on, or the restored launch
runs. -/
def State.handlerEnds (s : State) (l u : Nat) : State :=
  let x := s.launch l
  let hs := x.handlers.filter (· != u)
  let s := s.onLaunch l (fun x => { x with handlers := hs })
  if !hs.isEmpty then s
  else if x.preempt == 7 then x.cores.foldl (fun s g => s.unhalt g) (s.onLaunch l (fun x => { x with preempt := 0 }))
  else if x.preempt == 4 then s.onLaunch l (fun x => { x with preempt := 5 })
  else s
/-- The task is nowhere any more (11 R230). -/
def State.removeTask (s : State) (u : Nat) : State :=
  let s := s.traceTask u 1 2 (s.task u).tid.entry
  let s := (s.activationEnds u).freeStack u
  let t := s.task u
  let s : State := { (s.unpin u) with tasks := Map.del s.tasks u }
  if t.tid.handler then s.handlerEnds t.tid.launch u else s

/-- Records in program order: those of one instruction in the order in which they were made. -/
def insertFault (r : FaultRec) : List FaultRec → List FaultRec
  | [] => [r]
  | q :: qs => if r.issued < q.issued then r :: q :: qs else q :: insertFault r qs
/-- Add a store-fault record, 07 R164: the queue holds the first 8 in program order; one that finds no room sets ovf. -/
def pushFault (o : Io) (r : FaultRec) : Io :=
  { o with sfq := (insertFault r o.sfq).take 8, ovf := o.ovf || decide (8 ≤ o.sfq.length) }
/-- A refused Garnet update of a task becomes a store-fault record, 20 R372. -/
def updRecord (up : LeafUpd) (e : BitVec 8 × Word) : FaultRec :=
  { q0 := up.pc, q1 := e.2, q2 := BitVec.ofNat 64 (e.1.toNat + 8 * 2 ^ 8 + 0xF * 2 ^ 20), q3 := 0#64,
    issued := up.issued }
def State.updRefused (u : Nat) (s : State) (up : LeafUpd) (e : BitVec 8 × Word) : State :=
  s.updTask u (·.onIo (fun o => pushFault o (updRecord up e)))

/-- Retract the provisional messages of a task and drop those it holds; tasks they activated abort and are discarded
(11 R248 step 2). -/
def State.retract (s : State) (u : Nat) : State :=
  let mine (m : Msg) : Bool := m.sender == u && m.prov
  let s := { s with msgs := s.msgs.filter (fun m => !mine m) }
  let s := s.cores.foldl (fun s c =>
    if (c.2.inbuf ++ c.2.pendPosts ++ (c.2.posts.map (·.2)) ++ c.2.chans.flatMap (·.2)).any mine then
      let gone := (c.2.posts.filter (fun p => mine p.2)).map (·.1)
      let s := s.onCore c.1 (fun k => { k with inbuf := k.inbuf.filter (fun m => !mine m),
                                               pendPosts := k.pendPosts.filter (fun m => !mine m),
                                               chans := k.chans.map (fun p => (p.1, p.2.filter (fun m => !mine m))) })
      gone.foldl (fun s i => s.clearPost c.1 i) s
    else s) s
  let acts := s.tasks.filter (fun p => p.2.tid.msgFrom == u && !s.isHolder p.1)
  let s := acts.foldl (fun s p => s.updTask p.1 (·.onPl (fun q => { q with doomed := true, discard := true }))) s
  s.updTask u (·.onIo (fun o => { o with held := [] }))

/-- Children of an aborting task abort and are discarded (11 R248 step 3); the horizon holder never aborts (R247). -/
def State.doomChildren (s : State) (u : Nat) : State :=
  (s.tasks.filter (fun p => p.2.tid.creator == u && p.2.tid.ord && !s.isHolder p.1)).foldl (fun s p =>
    s.updTask p.1 (·.onPl (fun q => { q with doomed := true, discard := true }))) s
/-- Readers of a version of a task abort, 11 R247 case 2. -/
def State.doomReaders (s : State) (u : Nat) : State :=
  let p := (s.task u).pair
  s.doomAll ((s.tasks.filter (fun q => q.1 != u && q.2.io.reads.any (fun r => r.own == some p))).map (·.1))

/-- The provisional state of an ordered task goes, 11 R248 steps 1-3, R250. -/
def State.revoke (s : State) (u : Nat) (keepEvent : Bool) : State :=
  let s := s.doomReaders u
  let s := s.dropVersions (fun v => v.owner == u)
  let s := if s.ms.atomics.any (·.owner == u) then
      s.onMs (fun m => { m with atomics := m.atomics.filter (fun a => a.owner != u) }) else s
  ((s.retract u).doomChildren u).undoGarnet u keepEvent

/-- Tile stores of a killed quorum member that are in flight are discarded (06 R145). -/
def State.deadenTiles (s : State) (u : Nat) : State :=
  match s.quorumOf u with
  | none => s
  | some _ => s.onCore (s.task u).pl.core (fun c => { c with tileq := c.tileq.map (fun o =>
      if o.owner == u then { o with dead := true } else o) })
/-- Copy commands of a killed quorum member keep running; their translated writes are discarded (13 R284). -/
def State.deadenCopies (s : State) (u : Nat) : State :=
  match s.quorumOf u with
  | none => s
  | some _ =>
    let cl := clusterOf (s.task u).pl.core
    s.onCluster cl (fun c => { c with copyq := c.copyq.map (fun q => if q.owner == u then { q with dead := true } else q) })

/-- Writes that the host agent has read for are made (06 R140). -/
def State.finishHost (s : State) (u : Nat) : State :=
  let t := s.task u
  let due := t.io.lq.flatMap (·.write) ++ (t.io.sq.filter (·.rmw)).flatMap (·.cells)
  if due.isEmpty then s else s.writeCells t.tid.vf (dieOf t.pl.core) u none due

/-- The kill record of R165: code, level reached and reason in krec1; ret and tval of the last bank taken, 0 for none. Log entry
82 (DESIGN CHOICE). -/
def killRec (t : Task) (code : BitVec 8) (level reason : BitVec 2) : FaultRec :=
  let b : Bank := if t.sy.lastBank == 2#2 then t.sy.b2 else if t.sy.lastBank == 1#2 then t.sy.b1 else {}
  { q0 := t.tid.lid, q1 := BitVec.ofNat 64 (code.toNat + level.toNat * 2 ^ 8 + reason.toNat * 2 ^ 10),
    q2 := b.ret, q3 := b.tval }

/-- A kill record in the launch status, 22 R394: the latest; of those of one phase in dmodes 1 and 2 that of the lowest lid (01 R30,
04 R106). Log entry 97 (DEDUCED). -/
def Launch.addKrec (x : Launch) (r : FaultRec) : Launch :=
  let keep := dmodeOf x.mode != 0 && x.kills != 0 && x.krecIn == x.phase && decide (x.krec.q0.toNat < r.q0.toNat)
  { x with krec := if keep then x.krec else r, krecIn := x.phase, kills := min 0xFFFF (x.kills + 1) }
/-- A kill, 07 R165, 11 R250, 13 R284. Log entry 54 (DEDUCED). A core stays in a core-launch whose control task is killed, with
context 0 empty. Log entry 111 (DESIGN CHOICE). -/
def State.kill (s : State) (u : Nat) (k : PendKill) : State :=
  match Map.get? s.tasks u with
  | none => s
  | some t =>
    let g := t.pl.core
    let s := s.flushUpds u (State.updRefused u) t.io.upds.length
    let s := if t.tid.ord then s.revoke u true else s
    let s := ((s.writeBack (·.owner == u)).finishHost u).updTask u (·.onIo (fun o => { o with sq := [], lq := [] }))
    let s := (((s.deadenTiles u).deadenCopies u).leaveAll u true).dropVersions (fun v => v.owner == u)
    let s := match t.tid.cell with
      | some (cl, ent, i) => s.forkArrive cl ent i g none
      | none => s
    let s := s.freeHandles u
    let r := killRec t k.code k.level k.reason
    let l := t.tid.launch
    let s := s.onLaunch l (fun x => x.addKrec r)
    let q := Map.get [] (s.coreSt g).killq l
    let s := if q.length < 4 then s.onCore g (fun c => { c with killq := Map.set c.killq l (q ++ [r]) }) else s
    let s := s.deliverPost g { idx := 31, dst := g, val := t.tid.lid.setWidth 1024, sender := 0, lid := t.tid.lid, src := g,
                               launch := l, sent := s.dtime, arrived := s.dtime, kill := true }
    let s := s.traceTask u 3 4 r.q1
    s.removeTask u

/-- An abort, 11 R248. A discarded task is not requeued; a Garnet handler that is requeued keeps its event (19 R362). -/
def State.abort (s : State) (u : Nat) : State :=
  match Map.get? s.tasks u with
  | none => s
  | some t =>
    let s := s.traceTask u 4 5 t.tid.entry
    let s := s.revoke u (t.tid.region.isSome && !t.pl.discard)
    let s := (s.freeHandles u).orphanSends u
    if (s.task u).pl.discard then s.removeTask u
    else
      let s := (s.unpin u).updTask u (fun t => (t.restart).onPl (fun p => { p with life := .unqueued }))
      (s.toQueue u).getD s

/-! ### Issue -/

/-- The instruction waits at issue: the context is WAIT and the instruction issues again later. A pending kill is taken
during the wait (08 R170, 13 R284). Log entry 15 (DEDUCED). -/
def State.block (s : State) : State :=
  match s.me.pl.pend with
  | some k => s.kill s.cur k
  | none => s.onMe (·.onPl (fun p => { p with run := .wait }))

/-- A kill point, 08 R170: a pending kill is taken before the instruction takes any effect. Log entry 77 (DEDUCED). -/
def State.atKillPoint (s : State) (cont : State → State) : State :=
  match s.me.pl.pend with
  | some k => s.kill s.cur k
  | none => cont s

/-- The instruction retires and the task goes on at `next`: budgets of dmodes 1 and 2 count (11 R237). -/
def Task.retired (t : Task) (det : Bool) (next : Word) : Task :=
  let t := t.onRf (fun f => { f with pc := next })
  let t := t.onPl (fun p => { p with retired := p.retired + 1, run := .ready })
  let t := if det && t.sy.budOn then
      t.onSy (fun y => { y with budLeft := BitVec.ofNat 63 (y.budLeft.toNat - 1) })
    else t
  t.count 0 0 1
/-- Retire and go on at an address. -/
def State.retireTo (s : State) (next : Word) : State := s.onMe (·.retired s.det next)
/-- Retire and go on at Next, n bytes after P (03 R58). -/
def State.retire (s : State) (n : Nat) : State := s.retireTo (s.pc + BitVec.ofNat 64 n)

/-! ### Traps -/

/-- Cause codes of 07 R161. -/
def cILL : BitVec 8 := 0x01#8
def cIALIGN : BitVec 8 := 0x02#8
def cALIGN : BitVec 8 := 0x07#8
def cDIVZ : BitVec 8 := 0x08#8
def cFORMAT : BitVec 8 := 0x09#8
def cSCALE : BitVec 8 := 0x0A#8
def cRESRANGE : BitVec 8 := 0x0B#8
def cRSOVF : BitVec 8 := 0x0C#8
def cLINK : BitVec 8 := 0x0D#8
def cBUDGET : BitVec 8 := 0x0E#8
def cORDSENS : BitVec 8 := 0x11#8
def cTIME : BitVec 8 := 0x12#8
def cSENDER : BitVec 8 := 0x13#8
def cORDOFF : BitVec 8 := 0x14#8
def cMOVED : BitVec 8 := 0x15#8
def cREJOIN : BitVec 8 := 0x16#8
def cLINEAGE : BitVec 8 := 0x17#8
def cPROMISE : BitVec 8 := 0x18#8
def cTRAP : BitVec 8 := 0x19#8
def cSYSREG : BitVec 8 := 0x1A#8
def cBRK : BitVec 8 := 0x1B#8

/-- causeL of 07 R160. count and ovf are those of a report through the store-fault queue. -/
def causeWord (t : TrapInfo) (count : Nat) (ovf : Bool) : Word :=
  BitVec.ofNat 64 (count * 2 ^ 32 + (if t.imp then 2 ^ 31 else 0) + (if ovf then 2 ^ 30 else 0) + t.wlev.toNat * 2 ^ 20 +
    t.kind.toNat * 2 ^ 16 + t.detail.toNat * 2 ^ 8 + t.code.toNat)

/-- Bank L (1 or 2). -/
def Sys.bank (y : Sys) (l : Nat) : Bank := if l == 2 then y.b2 else y.b1
def Sys.setBank (y : Sys) (l : Nat) (b : Bank) : Sys := if l == 2 then { y with b2 := b } else { y with b1 := b }

/-- The level a trap is taken at, 07 R162: the first above tl with a handler, 3 for none. -/
def Sys.trapLevel (y : Sys) : Nat :=
  let l := y.tl.toNat + 1
  if l ≤ 1 && y.b1.tvec != 0#64 then 1
  else if l ≤ 2 && y.b2.tvec != 0#64 then 2
  else 3

/-- Enter level l, 07 R162: the bank is filled, tl becomes l and the pc the handler's address. -/
def Task.enter (t : Task) (l : Nat) (i : TrapInfo) (restart : Word) (count : Nat) (ovf : Bool) : Task :=
  let b := t.sy.bank l
  let b : Bank := { b with cause := causeWord i count ovf, ret := restart, tval := i.tval, xval := i.xval }
  let t := t.onSy (fun y => { (y.setBank l b) with tl := BitVec.ofNat 2 l, lastBank := BitVec.ofNat 2 l })
  let t := t.onRf (fun f => { f with pc := b.tvec })
  t.onPl (fun p => { p with run := .ready })

/-- TakeTrap, 07 R162. At level 3 the context is killed (R165). -/
def State.takeTrap (s : State) (i : TrapInfo) (restart : Word) : State :=
  let t := s.me
  let l := t.sy.trapLevel
  if l == 3 then s.kill s.cur { code := i.code, tval := i.tval, level := t.sy.tl, reason := 0#2 }
  else s.setMe (t.enter l i restart (if i.imp then t.io.sfq.length else 0) (i.imp && t.io.ovf))

/-- A precise trap at the instruction. An ordered task above the horizon waits instead (03 R79, 05 R124, 08 R169). -/
def State.fault (s : State) (i : TrapInfo) : State :=
  if s.provisional s.cur then s.block else s.takeTrap i s.pc
/-- A precise trap with a code and a tval. -/
def State.trap (s : State) (code : BitVec 8) (tval : Word) : State := s.fault { code := code, tval := tval }
/-- An illegal instruction found at execution: tval is the first word (03 R78). -/
def State.illegal (s : State) (w0 : BitVec 32) : State := s.trap cILL (w0.setWidth 64)

/-- Continue with the value of an operation, or trap, or wait. -/
def Out.bind {α : Type} (r : Out α × State) (f : α → State → State) : State :=
  match r with
  | (.ok a, s) => f a s
  | (.trap i, s) => s.fault i
  | (.wait, s) => s.block

/-! ### Reports, 07 R164 -/

/-- The trap of a report of the head store-fault record. -/
def FaultRec.report (r : FaultRec) : TrapInfo :=
  { code := r.q2.extractLsb' 0 8, tval := r.q1, kind := r.q2.extractLsb' 16 4, wlev := r.q2.extractLsb' 20 4, imp := true,
    detail := r.detail, xval := r.q3 }

/-- A reporting point once its stores are resolved: a non-empty queue is reported before the instruction. -/
def State.report (s : State) (cont : State → State) : State :=
  match s.me.io.sfq with
  | r :: _ => s.fault r.report
  | [] => cont s
/-- A reporting point that needs every earlier store (and every earlier Garnet update, 20 R372). -/
def State.reportAll (s : State) (cont : State → State) : State :=
  if !s.me.io.sq.isEmpty || !s.me.io.upds.isEmpty then s.block else s.report cont

/-- CFAULT, 15 R309. -/
def cCFAULT : BitVec 8 := 0x31#8

/-- cfault, 15 R308, without the count of unreported records, which a read adds. -/
def copyFaultWord (r : CopyRec) : Word := BitVec.ofNat 64 (r.id.toNat + r.fn.toNat * 2 ^ 16)

/-- Records of copy faults are reported one at a time in identifier order among those of a test (15 R307); taking the
trap clears the record. -/
def State.reportCopy (s : State) (test : CopyRec → Bool) (cont : State → State) : State :=
  match s.me.io.crecs.find? (fun r => r.unreported && test r) with
  | none => cont s
  | some r =>
    if s.provisional s.cur then s.block
    else
      let s := s.onMe (fun t => t.onIo (fun o => { o with crecs := o.crecs.map (fun q =>
        if q.id == r.id then { q with unreported := false } else q) }))
      let s := s.onMe (fun t => t.onSy (fun y => { y with cfault := copyFaultWord r, cdone := r.written }))
      let walk := decide (3 ≤ r.detail.toNat) && decide (r.detail.toNat ≤ 6)
      s.takeTrap { code := cCFAULT, tval := r.tval, detail := r.detail, kind := if walk then 12#4 else 0#4, wlev := r.wlev } s.pc

/-! ### Reads of memory -/

/-- Whether the accesses of a task are tracked: dmode 1 or 2, and not a pre-emption handler (22 R403). -/
def State.tracks (s : State) : Bool := s.det && !s.me.tid.handler
/-- Locations of runs on tracked pages or in CLM (06 R148). -/
def trackedLocs (gs : List Seg) : List Nat := segLocs (gs.filter (fun g => g.at_.clm || g.at_.det))
/-- The virtual address of a 4-byte word of an access. Log entry 32 (DEDUCED). -/
def wordVa (locs vas : List Nat) (w : Nat) : Word :=
  match (locs.zip vas).find? (fun p => p.1 / 4 == w) with
  | some (l, v) => BitVec.ofNat 64 (v - l % 4)
  | none => 0#64
/-- The other lid of a tracking fault; where the field holds SHARED the spec names no lid and the value is free. Log entry 22 (DESIGN CHOICE). -/
def State.otherLid (s : State) (o : Option Word) : Word × State :=
  match o with
  | some l => (l, s)
  | none =>
    let (k, s) := s.takeFree
    ((Config.freeWord k) &&& 0xFFFFFFFFFFFF#64, s)

/-- An access of the acting task enters tracking, 06 R148-R151: an ordered task's at its commit (01 R25). Log entry 72 (DEDUCED). -/
def State.track (s : State) (kind : BitVec 4) (acc : TrackAcc) (gs : List Seg) : Out Unit × State :=
  let locs := trackedLocs gs
  if !s.tracks || locs.isEmpty then (.ok (), s)
  else if s.me.tid.ord then
    let vas := segVas gs
    let all := segLocs gs
    let new := ((locs.map (· / 4)).dedup).map (fun x => (x, acc, (wordVa all vas x).toNat))
    (.ok (), s.onMe (·.onIo (fun o => { o with unord := o.unord ++ new.filter (fun e => !o.unord.contains e) })))
  else
    let t := s.me
    match s.trackAccess t.tid.launch { lid := t.tid.lid } t.tid.creatorLid acc locs with
    | .ok (s, _) => (.ok (), s)
    | .error f =>
      let (x, s) := s.otherLid f.other
      (.trap { code := f.code, tval := wordVa (segLocs gs) (segVas gs) f.word, kind := kind, xval := x },
        s.waive t.tid.launch)

/-- Whether a store of the queue must be performed before an access reads: a RED that overlaps, a tracked store in dmodes
1 and 2, or any store that an AMO overlaps. -/
def StoreEnt.blocks (e : StoreEnt) (det amo : Bool) (locs : List Nat) : Bool :=
  let hit := e.cells.any (fun c => locs.contains c.1)
  hit && (amo || e.rmw || (match e.op with | .red _ _ _ => true | .plain => det && e.tracked))
/-- Whether the host agent has read one of the words and not yet written it, for an AMO or RED of a device agent (06 R140). -/
def State.hostBusy (s : State) (locs : List Nat) : Bool :=
  locs.any isHost && s.tasks.any (fun p =>
    p.2.io.lq.any (fun e => e.write.any (fun c => locs.contains c.1)) ||
    p.2.io.sq.any (fun e => e.rmw && e.cells.any (fun c => locs.contains c.1)))
/-- Whether a line is pinned to another core, 06 R132. -/
def State.pinnedAway (s : State) (core : Nat) (locs : List Nat) : Bool :=
  s.ms.pins.any (fun p => p.core != core && locs.any (fun l => l / 512 == p.line))
/-- Whether a load of a task has returned bytes and is still to be performed (06 R129). -/
def State.owes (s : State) (u : Nat) : Bool := s.ms.owed.any (·.owner == u)
/-- Whether one of them is at locations: later accesses of the task there come after it (06 R128). -/
def State.owesAt (s : State) (u : Nat) (locs : List Nat) : Bool :=
  s.ms.owed.any (fun o => o.owner == u && o.locs.any locs.contains)
/-- Whether every load of a task has returned and is performed. -/
def State.loadsDone (s : State) (u : Nat) : Bool := (s.task u).io.lq.isEmpty && !s.owes u

/-- The poisoned word that an access consumes, 25 R440. Log entry 30 (DEDUCED). -/
def State.poisonAt (s : State) (locs : List Nat) : Option Nat :=
  (s.ms.poison.find? (fun p => locs.any (fun l => l / 4 == p.1))).map (·.2)

/-- Whether an accepted tile load or store of the acting task must go before an access of it (06 R128, R142). -/
def TileOp.before (o : TileOp) (u : Nat) (locs : List Nat) : Bool :=
  o.owner == u && (o.acq || (match o.what with
    | .store cells _ _ _ _ => cells.any (fun c => locs.contains c)
    | .load _ _ cells => cells.any (fun c => locs.contains c)
    | _ => false))
def State.tileBlocks (s : State) (locs : List Nat) : Bool :=
  (s.coreSt s.me.pl.core).tileq.any (fun o => o.before s.cur locs)
/-- Whether an access must wait before it reads: a pin of another core (06 R132), a queued store that must go first, the host
agent between a read and its write, or host memory above the horizon (11 R245). -/
def State.mustWait (s : State) (amo : Bool) (locs : List Nat) : Bool :=
  s.pinnedAway s.me.pl.core locs || s.me.io.sq.any (fun e => e.blocks s.det amo locs) || s.tileBlocks locs ||
  s.owesAt s.cur locs ||
  s.hostBusy locs || (s.provisional s.cur && locs.any isHost)
/-- The poisoned word that a task's access consumes: not one of which its own queued store, its L1 or a version that it reads has every
byte. -/
def State.poisonFor (s : State) (u : Nat) (locs : List Nat) : Option Nat :=
  if s.ms.poison.isEmpty then none
  else
    let t := s.task u
    let own (l : Nat) : Bool := (forwarded t.io.sq l).isSome || (l1Find s.ms.l1 (coreSees t.pl.core) l).isSome ||
      (s.homeByte u l).2 != some none
    s.poisonAt (locs.filter (fun l => !(locRange (l / 4 * 4) 4).all own))
/-- MCHK and tracking of an access that reads. -/
def State.passTo (s : State) (kind : BitVec 4) (acc : TrackAcc) (gs : List Seg) : Out Unit × State :=
  match s.poisonFor s.cur (segLocs gs) with
  | some unit => (.trap { code := cMCHK, tval := s.me.tid.lid, kind := kind, detail := BitVec.ofNat 8 unit }, s)
  | none => s.track kind acc gs
/-- What an access must pass before it reads: waits, recall (06 R147), MCHK and tracking. -/
def State.readyToRead (s : State) (kind : BitVec 4) (acc : TrackAcc) (gs : List Seg) : Out Unit × State :=
  let locs := segLocs gs
  if s.mustWait (acc != .read) locs then (.wait, s) else (s.recallLocs s.me.tid.vf locs).passTo kind acc gs

/-- Record what an ordered task reads, 11 R247. -/
def State.noteReads (s : State) (locs : List Nat) : State :=
  if s.me.tid.ord then
    let new := s.readRecs s.cur locs
    s.onMe (·.onIo (fun o => { o with reads := o.reads ++ new.filter (fun r => !o.reads.contains r) }))
  else s

/-- Record what an ordered task reads in a later performance of a load. -/
def State.noteReadsOf (s : State) (u : Nat) (locs : List Nat) : State :=
  if (s.task u).tid.ord then
    let new := s.readRecs u locs
    s.updTask u (·.onIo (fun o => { o with reads := o.reads ++ new.filter (fun r => !o.reads.contains r) }))
  else s

/-- A load entry whose elements at locations are performed: of a scalar load all of them. -/
def LoadEnt.close (e : LoadEnt) (locs : List Nat) : LoadEnt :=
  let hits (p : LoadPart) : Bool := p.locs.any locs.contains
  { e with parts := match e.dst with
    | .x _ _ => if e.parts.any hits then [] else e.parts
    | .v _ _ => e.parts.filter (fun p => !hits p) }
/-- The elements of the acting task's loads that overlap locations are performed, and words read ahead there are dropped: a later
access of the task to them keeps its place (06 R128). -/
def State.closeAt (s : State) (locs : List Nat) : State :=
  if s.me.io.lq.any (fun e => !e.parts.isEmpty) || !s.me.io.early.isEmpty then
    s.onMe (·.onIo (fun o => { o with lq := o.lq.map (·.close locs), early := o.early.filter (fun e => !locs.any (· / 8 == e.word)) }))
  else s

/-- A task is about to read locations: its die takes replicas of their lines (06 R133). What an ordered task reads is the home's
value, so that the home finds every read that a write makes stale (11 R247 case 1). -/
def State.toRead (s : State) (u : Nat) (locs : List Nat) : State :=
  let t := s.task u
  let s := s.tookReplica t.tid.vf (dieOf t.pl.core) locs
  if t.tid.ord then s.settle (dieOf t.pl.core) else s
/-- Whether the L1 of a task's core lies within its instance of a scope (06 R126). -/
def State.innerScope (s : State) (u : Nat) (scope : BitVec 3) : Bool :=
  scope == 0#3 || (scope == 1#3 && fl1Of (s.launchOf u).mode)
/-- Whether an acquire of the acting task reads at its die point: bytes of its L1 go there first (06 R127, R135). -/
def State.wideAcq (s : State) (acq : Bool) (scope : BitVec 3) : Bool := acq && !s.innerScope s.cur scope
/-- Read n bytes at va for the acting task, 03 R81, with the runs they were read from: kind names the access (07 R160); `wide` is
an acquire beyond the L1. Nothing changes on a trap or a wait but what the translation and the recall did. -/
def State.readRun (s : State) (kind : BitVec 4) (va : Word) (n : Nat) (wide : Bool := false) :
    Out (List Byte × List Seg) × State :=
  match s.xlate (s.agentOf s.cur) { rd := true } va n with
  | (.error e, s) => (.trap (e.trap kind 0#8), s)
  | (.ok gs, s) =>
    match s.readyToRead kind .read gs with
    | (.ok (), s) =>
      let locs := segLocs gs
      let s := ((if wide then s.flushL1 (coreSees s.me.pl.core) locs else s).underSegs s.me.tid.vf gs).toRead s.cur locs
      (.ok (locs.map (s.loadByte s.cur), gs), (s.noteReads locs).closeAt locs)
    | (.trap i, s) => (.trap i, s)
    | (.wait, s) => (.wait, s)

/-- Read n bytes at va for the acting task. -/
def State.readMem (s : State) (kind : BitVec 4) (va : Word) (n : Nat) (wide : Bool := false) : Out (List Byte) × State :=
  match s.readRun kind va n wide with
  | (.ok r, s) => (.ok r.1, s)
  | (.trap i, s) => (.trap i, s)
  | (.wait, s) => (.wait, s)

/-! ### Stores -/

/-- A store-fault record from a refused store, 07 R164. -/
def faultRec (pc va : Word) (code : BitVec 8) (width kind : Nat) (wlev : BitVec 4) (xv : Word) (issued : Nat) : FaultRec :=
  { q0 := pc, q1 := va, q2 := BitVec.ofNat 64 (code.toNat + width * 2 ^ 8 + kind * 2 ^ 16 + wlev.toNat * 2 ^ 20), q3 := xv,
    issued := issued }

/-- Whether an access bypasses the L1, 05 R115, 06 R139, R146: CLM, host memory, and pages with cache = 1 or 2. -/
def bypasses (gs : List Seg) : Bool := gs.any (fun g => g.at_.clm || g.at_.cache != 0#2 || isHost g.at_.loc)
/-- Issue a store or RED of bytes at va, 08 R186, R189: translated now; refused whole into a record (06 R130), else it
enters the store queue. S at its maximum waits (03 R75); a provisional task defers CLM writes, REDs and host memory
(11 R245), and waits at a refused access (05 R124). Log entry 17 (DEDUCED). -/
def State.issueStore (s : State) (kind : Nat) (op : StoreKind) (width : Nat) (va : Word) (bs : List Byte)
    (rel : Option (BitVec 3)) : Out Unit × State :=
  let t := s.me
  let red := match op with | .red _ _ _ => true | .plain => false
  if 64 ≤ t.io.sq.length || (red && s.provisional s.cur) then (.wait, s)
  else
    match s.xlate (s.agentOf s.cur) { rd := red, w := true } va bs.length with
    | (.error e, s) =>
      if s.provisional s.cur then (.wait, s)
      else (.ok (), s.onMe (·.onIo (fun o => pushFault o
        { faultRec t.rf.pc e.tval e.code width kind e.wlev 0#64 t.pl.retired with detail := e.detail })))
    | (.ok gs, s) =>
      let cells := segCells gs bs
      if s.tileBlocks (cells.map (·.1)) || s.owesAt s.cur (cells.map (·.1)) ||
          (s.provisional s.cur && cells.any (fun c => isClm c.1 || isHost c.1)) then (.wait, s)
      else
        let e : StoreEnt :=
          { pc := t.rf.pc, va := va, kind := kind, width := width, op := op, cells := cells, vas := segVas gs,
            tracked := s.tracks && gs.any (fun g => g.at_.clm || g.at_.det), direct := bypasses gs,
            split := red && gs.any (fun g => isHost g.at_.loc && !g.at_.sysatom), rel := rel, issued := t.pl.retired,
            keys := s.segKeys t.tid.vf gs }
        (.ok (), (s.onMe (·.onIo (fun o => { o with sq := o.sq ++ [e] }))).closeAt (cells.map (·.1)))

/-- Whether what a release at a scope orders has been performed at it, given the task's stores before it (06 R127, R138): each has
left the queue; beyond core scope, or cluster scope with fl1 = 1, nothing that the core sees is in the L1 alone (R131, R134); at
package scope and wider the writes that its die has seen are applied at every die; and no write of the host agent is due. -/
def State.scopeReached (s : State) (u : Nat) (older : List StoreEnt) (scope : BitVec 3) : Bool :=
  let t := s.task u
  let g := t.pl.core
  older.all (fun e => e.ser != 0 && e.cells.isEmpty) && t.io.lq.all (fun e => e.write.isEmpty) &&
  (s.innerScope u scope || !s.ms.l1.any (fun p => coreSees g p.unit)) && (decide (scope.toNat < 3) || !s.flightsPending (dieOf g))

/-- Whether bytes of entry k of a store queue may be performed now, 06 R131: no older entry has bytes at those locations, and
a release comes after what it orders. -/
def State.storeReady (s : State) (u k : Nat) (cells : List Host.Cell) : Bool :=
  let older := (s.task u).io.sq.take k
  (match ((s.task u).io.sq[k]?).bind (·.rel) with
    | some scope => s.scopeReached u older scope
    | none => true) &&
  !older.any (fun o => o.cells.any (fun c => cells.any (fun d => d.1 == c.1)))

/-- What tracking makes of a store that reaches its home: words whose data is discarded, the refusal to report, and the
locations refused (06 R151). -/
structure Tracked where
  lost : List Nat := []
  fault : Option TrackFault := none
  refused : List Nat := []
deriving DecidableEq, Repr

/-- The elements of a store: groups of n cells. -/
def chunks {α : Type} (n : Nat) : Nat → List α → List (List α)
  | 0, _ => []
  | f + 1, l => if l.isEmpty then [] else l.take (max 1 n) :: chunks n f (l.drop (max 1 n))

/-- Track the elements of a store one by one; the refusal of the lowest refused element is reported (10 R222). -/
def State.trackElems (s : State) (u : Nat) (acc : TrackAcc) : List (List Nat) → Tracked → Tracked × State
  | [], r => (r, s)
  | locs :: rest, r =>
    let t := s.task u
    match s.trackAccess t.tid.launch { lid := t.tid.lid } t.tid.creatorLid acc locs with
    | .ok (s, lost) => s.trackElems u acc rest { r with lost := r.lost ++ lost }
    | .error f => s.trackElems u acc rest { r with fault := some (r.fault.getD f), refused := r.refused ++ locs }

/-- The address that the record of a refused store names: the refused element's for a vector store (10 R222), else the word's
(06 R151). -/
def StoreEnt.refusedVa (e : StoreEnt) (r : Tracked) (f : TrackFault) : Word :=
  let locs := e.cells.map (·.1)
  if e.kind == 9 then
    match (locs.zip e.vas).find? (fun p => some p.1 == r.refused.head?) with
    | some p => BitVec.ofNat 64 p.2
    | none => e.va
  else wordVa locs e.vas f.word

/-- The tracking of a store-queue entry. A scalar store is one element. -/
def State.trackStore (s : State) (u : Nat) (e : StoreEnt) : Tracked × State :=
  let t := s.task u
  let locs := e.cells.map (·.1)
  if !e.tracked then ({}, s)
  else
    let acc : TrackAcc := match e.op with | .plain => .write | .red op tg _ => .red op (tg.width / 8)
    if t.tid.ord then
      let new := ((locs.map (· / 4)).dedup).map (fun x => (x, acc, (wordVa locs e.vas x).toNat))
      ({}, s.updTask u (·.onIo (fun o => { o with unord := o.unord ++ new.filter (fun n => !o.unord.contains n) })))
    else s.trackElems u acc (if e.kind == 9 then chunks e.width locs.length locs else [locs]) {}

/-- What RESOLVE leaves of an ordered task's ordinary write, 11 R442, R151: the bytes of a word that a higher lid has written in the
phase are discarded; the others are kept for its commit. -/
def State.settleByLid (s : State) (u : Nat) (cells : List Host.Cell) : List Host.Cell × State :=
  let t := s.task u
  let m := (s.launchOf u).mode
  if !t.tid.ord || !raceOf m || dmodeOf m == 0 then (cells, s)
  else
    let mine (w : Nat) : Bool := t.io.unord.any (fun e => e.1 == w && e.2.1 == .write)
    let lower (w : Nat) : Bool :=
      match (s.trackOf t.tid.launch (w / 32)).conflict { lid := t.tid.lid, ord := true } t.tid.creatorLid .write (w % 32) with
      | some (true, some o) => decide (t.tid.lid.toNat < o.toNat)
      | _ => false
    let kept := cells.filter (fun c => !(mine (c.1 / 4) && lower (c.1 / 4)))
    let new := kept.filter (fun c => mine (c.1 / 4))
    (kept, s.updTask u (·.onIo (fun o => { o with stood := new ++ o.stood.filter (fun c => !new.any (fun x => x.1 == c.1)) })))
/-- Perform the bytes of a plain store for a task at the die point: versions, or ordinary writes (01 R23, 11 R245, 13 R279);
what its L1 holds of those lines goes first. Answers `wait` where a version table has no room. Whether a write is a member's is asked
when it is performed. Log entry 114 (DESIGN CHOICE). -/
def State.placeBytes (s : State) (u : Nat) (cells : List Host.Cell) (ser : Nat := 0) (keys : Map (BitVec 256) := []) :
    Out Unit × State :=
  let t := s.task u
  let spec := s.provisional u
  let quorum := s.quorumOf u
  if cells.isEmpty then (.ok (), s)
  else
    match s.clearAtomics u (cells.map (·.1)) with
    | (.ok (), s) =>
      let apart (c : Host.Cell) : Bool := (spec || quorum.isSome) && !isClm c.1
      let vers := cells.filter apart
      let plain := cells.filter (fun c => !apart c)
      match s.versionRooms u t.tid.vf spec quorum ((vers.map (fun c => c.1 / 128)).dedup) with
      | (.ok (), s) =>
        let s := (s.flushL1 (coreSees t.pl.core) (cells.map (·.1))).recallLocs t.tid.vf (cells.map (·.1))
        let s := if vers.isEmpty then s
          else (if quorum.isNone then s.staleReaders u (some t.pair) vers else s).addVersion u spec quorum vers keys
        if plain.isEmpty then (.ok (), s)
        else
          let w := if t.tid.ord then some t.pair else none
          let (plain, s) := s.settleByLid u plain
          (.ok (), ((s.dropOwn u plain).underKeys t.tid.vf keys (plain.map (·.1))).writeCells t.tid.vf (dieOf t.pl.core) u w plain ser)
      | other => other
    | other => other

/-- Note the lines that a task has written (06 R132). -/
def State.noteWrote (s : State) (u : Nat) (cells : List Host.Cell) : State :=
  let lines := ((cells.filter (fun c => !isClm c.1 && !isHost c.1)).map (fun c => c.1 / 512)).dedup
  let t := s.task u
  let new := lines.filter (fun l => !t.io.wrote.contains l)
  if new.isEmpty then s else s.updTask u (·.onIo (fun o => { o with wrote := o.wrote ++ new }))

/-- Pin the lines that a release at core scope orders; a wider one lifts the task's pins (06 R132). -/
def State.releasePins (s : State) (u : Nat) (scope : BitVec 3) : State :=
  let t := s.task u
  if scope == 0#3 then
    let new := t.io.wrote.map (fun l => ({ core := t.pl.core, owner := u, line := l } : Pin))
    (s.onMs (fun m => { m with pins := m.pins ++ new.filter (fun p => !m.pins.contains p) })).updTask u
      (·.onIo (fun o => { o with wrote := [] }))
  else (s.unpin u).updTask u (·.onIo (fun o => { o with wrote := [] }))

/-- A store that finds no room may displace a younger task; while it waits a pending kill is taken (01 R24), not of a task that the
debugger has stopped (13 R286). -/
def State.storeStalls (s : State) (u : Nat) (cells : List Host.Cell) : State :=
  let s := (s.versionRooms u (s.task u).tid.vf (s.provisional u) (s.quorumOf u) ((cells.map (fun c => c.1 / 128)).dedup)).2
  match (s.task u).pl.pend with
  | some k => if (s.task u).pl.stopped then s else s.kill u k
  | none => s

/-- The parts in which an entry leaves the store queue: a RED whole, the elements of a vector store (10 R221) and the bytes of a
misaligned scalar one (06 R125). -/
def StoreEnt.pieces (e : StoreEnt) : List (List Host.Cell) :=
  if e.cells.isEmpty then (if e.ser == 0 then [[]] else [])
  else if e.op != .plain || e.rmw then [e.cells]
  else if e.kind == 9 then chunks e.width e.cells.length e.cells
  else if e.va.toNat % max 1 e.width == 0 then [e.cells]
  else e.cells.map (fun c => [c])
/-- Whether parts of an entry leave in ascending order only: the bytes of a misaligned access (06 R125). -/
def StoreEnt.inOrder (e : StoreEnt) : Bool := e.kind != 9
/-- Whether a task's stores become versions: an ordered task's and a quorum member's. -/
def State.versioned (s : State) (u : Nat) : Bool := (s.task u).tid.ord || (s.quorumOf u).isSome

/-- What STORE_PERFORMED may perform: bytes of entry `ent` in the queue, or in the L1 a piece of it. -/
structure StorePart where
  ent : Nat := 0
  cells : List Host.Cell := []
  l1 : Option L1Piece := none
deriving DecidableEq, Repr
/-- The parts of a task's stores, in the order of the queue. -/
def State.storeParts (s : State) (u : Nat) : List StorePart :=
  ((s.task u).io.sq.zipIdx).flatMap (fun p =>
    let ps := p.1.pieces
    ((if p.1.inOrder then ps.take 1 else ps).map (fun cs => { ent := p.2, cells := cs })) ++
    ((s.ms.l1.filter (fun q => q.owner == u && q.ser == p.1.ser)).map
      (fun q => { ent := p.2, cells := q.cells, l1 := some q })))

/-- Bytes of entry k leave the queue under the entry's serial. -/
def State.leaveQueue (s : State) (u k : Nat) (cells : List Host.Cell) : Nat × State :=
  let ser := match (s.task u).io.sq[k]? with | some e => e.ser | none => 0
  let new := if ser == 0 then s.ms.vseq + 1 else ser
  let s := if ser == 0 then s.onMs (fun m => { m with vseq := m.vseq + 1 }) else s
  (new, s.updTask u (·.onIo (fun o => { o with sq := o.sq.modify k (fun e =>
    { e with ser := new, cells := e.cells.filter (fun c => !cells.any (fun d => d.1 == c.1)) }) })))
/-- The store of entry k is performed at the die point, or refused: its notes, its pins, its record. -/
def State.storeLeft (s : State) (u : Nat) (e : StoreEnt) (cells : List Host.Cell) (r : Option FaultRec) : State :=
  let s := s.noteWrote u cells
  let s := match e.rel with | some sc => s.releasePins u sc | none => s
  match r with
  | some r => s.updTask u (·.onIo (fun o => pushFault o r))
  | none => s

/-- Whether bytes of a store enter the L1, 05 R115: a plain store of a task in dmode 0 to a page with cache = 0. A version
bypasses it (01 R31). -/
def State.toL1 (s : State) (u : Nat) (e : StoreEnt) : Bool :=
  dmodeOf (s.launchOf u).mode == 0 && !e.direct && e.op == .plain && !e.rmw && !s.versioned u
/-- The unit of the L1 that takes a core's stores (05 R116). -/
def State.l1Unit (s : State) (u : Nat) : Nat :=
  let g := (s.task u).pl.core
  if fl1Of (s.launchOf u).mode then 5120 + clusterOf g else g

/-- A RED of a store queue is performed, 06 R146: absorbed, or direct at the home or bank; to host memory without SYSATOM the
host agent reads now and writes later (R140); direct on a poisoned word it is refused (25 R440). -/
def State.performRed (s : State) (u k : Nat) (e : StoreEnt) (op : RedOp) (tg : Tag) (x : Word) : State :=
  let t := s.task u
  let loc := (e.cells.map (·.1)).headD 0
  let locs := e.cells.map (·.1)
  let x := cutTo tg x
  if !e.direct then
    let s := (s.leaveQueue u k e.cells).2
    let s := s.flushL1 (coreSees t.pl.core) locs
    ((s.absorb t.tid.vf (copyCore (fl1Of (s.launchOf u).mode) t.pl.core loc) loc op tg x (Map.get? e.keys (loc / 128))).storeLeft u e e.cells none).reap
  else
    match s.poisonAt locs with
    | some unit =>
      let r := faultRec e.pc t.tid.lid cMCHK e.width e.kind 0xF#4 0#64 e.issued
      (((s.leaveQueue u k e.cells).2).storeLeft u e [] (some { r with detail := BitVec.ofNat 8 unit })).reap
    | none =>
      let s := s.underKeys t.tid.vf e.keys locs
      if e.split then
        let v := redApply op tg (leNat (locs.map (memGet s.mem))) x
        s.updTask u (·.onIo (fun o => { o with sq := o.sq.modify k (fun e =>
          { e with op := .plain, split := false, rmw := true, tracked := false, cells := cellsAt loc (tg.width / 8) v }) }))
      else
        let (ser, s) := s.leaveQueue u k e.cells
        let w := if t.tid.ord then some t.pair else none
        ((s.redHome t.tid.vf (dieOf t.pl.core) u w loc op tg x ser).storeLeft u e e.cells none).reap

/-- What is done once for a store of the queue when the first of it is performed outside the L1: its tracking, whole (06 R148). Words
that RESOLVE discards and elements that are refused are written by none of its parts. A member's store enters it though a kill is
pending that will discard its version. Log entry 117 (DESIGN CHOICE). -/
def State.trackEntry (s : State) (u k : Nat) (e : StoreEnt) : StoreEnt × State :=
  if !e.tracked then (e, s)
  else
    let t := s.task u
    let (tr, s) := s.trackStore u e
    let (x, s) := match tr.fault with
      | some f => s.otherLid f.other
      | none => (0#64, s)
    let e' : StoreEnt := { e with
      tracked := false, cells := e.cells.filter (fun c => !tr.lost.contains (c.1 / 4) && !tr.refused.contains c.1) }
    let s := s.updTask u (·.onIo (fun o => { o with sq := o.sq.set k e' }))
    match tr.fault with
    | none => (e', s)
    | some f =>
      let r := faultRec e.pc (e.refusedVa tr f) f.code e.width e.kind 0xF#4 x e.issued
      (e', (s.waive t.tid.launch).updTask u (·.onIo (fun o => pushFault o r)))

/-- Bytes of entry k leave the queue, 06 R131: into the L1, or to the die point with their tracking. -/
def State.performQueued (s : State) (u k : Nat) (cells : List Host.Cell) : State :=
  let t := s.task u
  match t.io.sq[k]? with
  | none => s
  | some e =>
    let locs := cells.map (·.1)
    if !s.storeReady u k cells || s.pinnedAway t.pl.core locs || (!e.rmw && s.hostBusy locs) then s
    else if s.toL1 u e then
      let (ser, s) := s.leaveQueue u k cells
      let p : L1Piece := { owner := u, ser := ser, unit := s.l1Unit u, cells := cells, keys := e.keys }
      let s := if cells.isEmpty then s else s.onMs (fun m => { m with l1 := m.l1 ++ [p] })
      (s.storeLeft u e cells none).reap
    else
      let (e', s') := s.trackEntry u k e
      match e.op with
      | .red op tg x =>
        if e'.cells.isEmpty then (((s'.leaveQueue u k []).2).storeLeft u e [] none).reap
        else s'.performRed u k e op tg x
      | .plain =>
        let kept := cells.filter (fun c => e'.cells.any (fun d => d.1 == c.1))
        let (ser, s') := s'.leaveQueue u k cells
        if e.rmw then
          ((s'.writeCells t.tid.vf (dieOf t.pl.core) u (if t.tid.ord then some t.pair else none) kept ser).storeLeft u e kept none).reap
        else
          match s'.placeBytes u kept ser e.keys with
          | (.ok (), s') => (s'.storeLeft u e kept none).reap
          | (_, _) => s.storeStalls u cells

/-- STORE_PERFORMED for part k of a task's stores, 06 R131: unchanged where it may not be performed yet. A piece of the L1 goes
to the die point after older ones of its unit at the same lines. -/
def State.performStore (s : State) (u k : Nat) : State :=
  match (s.storeParts u)[k]? with
  | none => s
  | some p =>
    match p.l1 with
    | none => s.performQueued u p.ent p.cells
    | some q =>
      if s.pinnedAway (s.task u).pl.core (q.cells.map (·.1)) then s
      else
        let lines := (q.cells.map (fun c => c.1 / 512)).dedup
        let older := (s.ms.l1.takeWhile (· != q)).filter (fun r => r.unit == q.unit && r.onLines lines)
        s.writeBack (fun r => r = q || older.contains r)

end Sys2Proof.Machine
end

