-- ==== Sys2Proof/Machine/Operands.lean ====
section
/-! DEFINITION. Operand forms of the scalar engine (03 R68, R69, R80; 08 R166, R186): addresses, extension by tag,
and the writing of a result. -/
namespace Sys2Proof.Machine

/-- Write X(d) and retire an instruction of n bytes, 03 R79, R80. -/
def State.result (s : State) (d : BitVec 5) (v : Word) (n : Nat) : State := (s.setX d v).retire n

/-- The low w bits of a value as a signed number of that width, extended to 64 bits. -/
def signExt (w : Nat) (v : Nat) : Word := BitVec.ofInt 64 (asSigned w (v % 2 ^ w))
/-- Extend(tag, v), 08 R186: integers of `i` tags with sign, all others with zeros. -/
def extendTag (t : Tag) (v : Nat) : Word :=
  if t.isSigned then signExt t.width v else BitVec.ofNat 64 (v % 2 ^ t.width)
/-- Bytes of one element of a tag. -/
def tagBytes (t : Tag) : Nat := t.width / 8
/-- The bytes that a store of this tag writes from a register, 08 R186. -/
def storeBytes (t : Tag) (x : Word) : List Byte := leBytes (tagBytes t) x.toNat

/-- Address of the F-I form: SignExt(imm14, 14). -/
def State.addrI (s : State) (a : BitVec 5) (imm : BitVec 14) : Word := s.x a + imm.signExtend 64
/-- Address of the displacement form: SignExt(imm32, 32) or the literal (08 R186). -/
def State.addrD (s : State) (a : BitVec 5) (disp : Src) : Word := s.x a + disp.sext
/-- Address of the indexed form. -/
def State.addrX (s : State) (a b : BitVec 5) (sh : BitVec 2) : Word := s.x a + (s.x b <<< sh.toNat)
/-- Whether an address is a multiple of n. -/
def aligned (va : Word) (n : Nat) : Bool := va.toNat % n == 0

/-- Target of a compare-branch or a jump, 08 R182, R183. -/
def State.target {n : Nat} (s : State) (disp : BitVec n) : Word := s.pc + (disp.signExtend 64 <<< 2)

/-- A scalar floating-point source, 08 R167: f64, or the low 32 bits for f32. -/
def State.fsrc (s : State) (w : Bool) (r : BitVec 5) : Nat := if w then (s.x r).toNat % 2 ^ 32 else (s.x r).toNat
/-- The format that w selects. -/
def fmtOf (w : Bool) : Tag := if w then .f32 else .f64

end Sys2Proof.Machine
end

