-- ==== Sys2Proof/Machine/Flags.lean ====
section
/-! DEFINITION. Flags: floating-point results that OR their flags into fflags at retirement (04 R93, R96; 08 R167), and
relations written as 0 or 1. -/
namespace Sys2Proof.Machine

/-- 1 for a relation that holds, else 0 (08 R176, R181). -/
def boolWord (b : Bool) : Word := if b then 1#64 else 0#64
/-- Write a floating-point result with its flags and retire, 08 R167. -/
def State.fresult (s : State) (d : BitVec 5) (r : Nat × BitVec 5) (n : Nat) : State :=
  (s.orFlags r.2).result d (BitVec.ofNat 64 r.1) n
/-- Write a relation with its flags and retire, 08 R181. -/
def State.frelation (s : State) (d : BitVec 5) (r : Bool × BitVec 5) (n : Nat) : State :=
  (s.orFlags r.2).result d (boolWord r.1) n
/-- Write a 64-bit value with its flags and retire. -/
def State.wresult (s : State) (d : BitVec 5) (v : Word) (f : BitVec 5) (n : Nat) : State := (s.orFlags f).result d v n

end Sys2Proof.Machine
end

