-- ==== Sys2Proof/Machine/LoadStore.lean ====
section
/-! DEFINITION. Scalar loads and stores (08 R186, R187). A load puts a value into its register at issue and enters L; until
its register is used, or an ordering form comes, it may still be performed, at LOAD_RETURN (06 R129), but for a tracked one, whose
refusal is precise (07 R163). A store enters the store queue and is performed at STORE_PERFORMED. -/
namespace Sys2Proof.Machine

/-- An operation enters L, 03 R75. -/
def State.enterL (s : State) (e : LoadEnt) : State := s.onMe (·.onIo (fun o => { o with lq := o.lq ++ [e] }))
/-- An element of a load: its bytes where it lies in an aligned word that the task has read ahead, under the key by which its page is
read (06 R129, 05 R118). -/
def State.loadPart (s : State) (early : List EarlyWord) (idx : Nat) (locs : List Nat) : LoadPart :=
  let w := locs.headD 0 / 8
  match early.find? (fun e => e.word == w) with
  | some e =>
    if locs.all (fun l => l / 8 == w) && (e.due || e.held == s.heldKey s.me.tid.vf (w / 16)) then
      { idx := idx, locs := locs, early := locs.map (fun l => (e.bytes[l % 8]?).getD 0#8), due := e.due }
    else { idx := idx, locs := locs }
  | none => { idx := idx, locs := locs }
/-- Whether a run is tracked: what reads it is performed at its issue, in the phase of that instant (06 R148). -/
def State.tracksSegs (s : State) (gs : List Seg) : Bool := s.tracks && !(trackedLocs gs).isEmpty
/-- The bytes of an untracked plain load of the task with those words that it has read ahead under their page's key (06 R129). -/
def State.takeEarly (s : State) (early : List EarlyWord) (r : List Byte × List Seg) : List Byte :=
  if early.isEmpty || s.tracksSegs r.2 then r.1
  else ((segLocs r.2).zip r.1).map (fun p =>
    match early.find? (fun e => e.word == p.1 / 8 && !e.due && e.held == s.heldKey s.me.tid.vf (p.1 / 128)) with
    | some e => (e.bytes[p.1 % 8]?).getD p.2
    | none => p.2)
/-- The stack slot of a register of the window, for a load's destination (07 R154). -/
def State.destSlot (s : State) (d : BitVec 5) : Option Nat := if d.toNat < 16 then some (s.me.slotOf d.toNat) else none
/-- The entry of a scalar load: one element, or the bytes of a misaligned access (06 R125). It may be performed later than its
issue (06 R129), an acquire before the task's next instruction; `early` are the words read ahead. Log entry 16 (DEDUCED). -/
def State.loadEnt (s : State) (t : Tag) (acq wide : Bool) (d : BitVec 5) (va : Word) (early : List EarlyWord)
    (r : List Byte × List Seg) : LoadEnt :=
  let locs := segLocs r.2
  { dst := .x d t, bytes := r.1, acq := acq, wide := wide, keys := s.segKeys s.me.tid.vf r.2, slot := s.destSlot d,
    parts := if s.tracksSegs r.2 then []
      else if aligned va (tagBytes t) then [s.loadPart early 0 locs]
      else locs.zipIdx.map (fun p => { idx := p.2, locs := [p.1] }) }

/-- Whether tile loads or stores of the acting task are not complete: a release or a fence orders them too (08 R190,
06 R141). -/
def State.tilesPending (s : State) : Bool :=
  (s.coreSt s.me.pl.core).tileq.any (fun o => o.owner == s.cur && (match o.what with
    | .load _ _ _ | .store _ _ _ _ _ => true
    | _ => false))

/-- A scalar load, 08 R186: an acquire form must be aligned; a full L waits at issue. -/
def State.load (s : State) (t : Tag) (acq : Bool) (scope : BitVec 3) (d : BitVec 5) (va : Word) (size : Nat) : State :=
  if acq && !aligned va (tagBytes t) then s.trap cALIGN va
  else if 64 ≤ s.me.io.lq.length then s.block
  else
    let wide := s.wideAcq acq scope
    let early := s.me.io.early
    Out.bind (s.readRun 1#4 va (tagBytes t) wide) (fun r s =>
      (s.enterL (s.loadEnt t acq wide d va early r)).result d (extendTag t (leNat r.1)) size)

/-- A scalar store, 08 R186: a release form must be aligned; a refusal is recorded, not trapped. -/
def State.store (s : State) (t : Tag) (rel : Bool) (scope : BitVec 3) (d : BitVec 5) (va : Word) (size : Nat) : State :=
  if rel && !aligned va (tagBytes t) then s.trap cALIGN va
  else if rel && s.tilesPending then s.block
  else Out.bind (s.issueStore 2 .plain (tagBytes t) va (storeBytes t (s.x d)) (if rel then some scope else none))
    (fun _ s => s.retire size)

/-- LD, 08 R186: the F-I form loads an i64. -/
def execLd (d a : BitVec 5) (imm : BitVec 14) (s : State) : Host.Outcome State Fault Refusal :=
  .next (s.load .i64 false 0#3 d (s.addrI a imm) 4)

/-- LD_X, 08 R186: the displacement form. -/
def execLdX (t : Tag) (acq : Bool) (scope : BitVec 3) (d a : BitVec 5) (disp : Src) (s : State) :
    Host.Outcome State Fault Refusal :=
  .next (s.load t acq scope d (s.addrD a disp) disp.size)

/-- LD_INDEXED, 08 R186. -/
def execLdIndexed (t : Tag) (acq : Bool) (scope : BitVec 3) (d a b : BitVec 5) (sh : BitVec 2) (s : State) :
    Host.Outcome State Fault Refusal :=
  .next (s.load t acq scope d (s.addrX a b sh) 12)

/-- ST, 08 R186: the F-I form stores an i64. -/
def execSt (d a : BitVec 5) (imm : BitVec 14) (s : State) : Host.Outcome State Fault Refusal :=
  .next (s.store .i64 false 0#3 d (s.addrI a imm) 4)

/-- ST_X, 08 R186: the displacement form. -/
def execStX (t : Tag) (rel : Bool) (scope : BitVec 3) (d a : BitVec 5) (disp : Src) (s : State) :
    Host.Outcome State Fault Refusal :=
  .next (s.store t rel scope d (s.addrD a disp) disp.size)

/-- ST_INDEXED, 08 R186. -/
def execStIndexed (t : Tag) (rel : Bool) (scope : BitVec 3) (d a b : BitVec 5) (sh : BitVec 2) (s : State) :
    Host.Outcome State Fault Refusal :=
  .next (s.store t rel scope d (s.addrX a b sh) 12)

end Sys2Proof.Machine
end

