-- ==== Sys2Proof/Machine/Atomic.lean ====
section
/-! DEFINITION. Atomic memory operations and reductions at memory (08 R188, R189; 11 R251; 06 R139, R140, R146). -/
namespace Sys2Proof.Machine

/-- Whether a release by the acting task must wait for what it orders (06 R127, R138). -/
def State.releaseWaits (s : State) (scope : BitVec 3) : Bool := s.tilesPending || !s.scopeReached s.cur s.me.io.sq scope
/-- A release of the acting task completes: pins (06 R132). -/
def State.released (s : State) (rel : Bool) (scope : BitVec 3) : State := if rel then s.releasePins s.cur scope else s

/-- What an AMO answers: the old value, the flags, and a write that the host agent still has to make (06 R140). -/
structure AmoDone where
  old : Nat
  flags : BitVec 5
  write : List Host.Cell := []
/-- Finish an AMO: the old value, the flags and the counter L. -/
def State.amoDone (s : State) (t : Tag) (d : BitVec 5) (r : AmoDone) (size : Nat) : State :=
  (s.enterL { dst := .x d t, write := r.write }).wresult d (extendTag t r.old) r.flags size

/-- A provisional AMO enters the ordered-atomic buffer of its slice, which is its partition's alone (05 R117), 11 R251: what it returns
is the ordinary value with every buffered AMO of a lower pair, and its own earlier ones, applied. A version of the task's own is no
ordinary value. Log entry 124 (DEDUCED). -/
def State.amoBuffer (s : State) (fn : BitVec 9) (t : Tag) (x expect : Word) (gs : List Seg) : Out AmoDone × State :=
  let me := s.me
  let locs := segLocs gs
  let loc := locs.headD 0
  let slice := s.homeSlice me.tid.vf loc
  let here := s.ms.atomics.filter (fun a => (s.task a.owner).tid.vf == me.tid.vf && s.homeSlice me.tid.vf a.loc == slice)
  let youngest := (sortAtomics here).getLast?
  if 31 ≤ here.length then
    match youngest with
    | some y => (.wait, if me.pair.lt y.pair then s.doom y.owner else s)
    | none => (.wait, s)
  else
    let lower := (sortAtomics s.ms.atomics).filter (fun a => a.hits locs && a.pair.le me.pair)
    let ov := applyAtomics (memGet s.mem) lower []
    let old := leNat (locs.map (fun l => (cellGet ov l).getD (memGet s.mem l)))
    let r := amoWrite fn t old (cutTo t x) (cutTo t expect)
    match s.passTo 4#4 (if r.1.isSome then .both else .read) gs with
    | (.ok (), s) =>
      let n := t.width / 8
      let own : Option Pair := ((lower.filter (fun a => a.owner != s.cur)).getLast?).map (·.pair)
      let words := (locs.map (· / 4)).dedup
      let recs := words.map (fun w => ({ word := w, own := own } : ReadRec))
      let s := s.onMe (·.onIo (fun o => { o with reads := o.reads ++ recs.filter (fun q => !o.reads.contains q) }))
      let s := if r.1.isSome then s.staleReaders s.cur (some me.pair) (cellsAt loc n 0) else s
      let a : Atomic := { owner := s.cur, pair := me.pair, loc := loc, op := fn, t := t, x := x, expect := expect,
                          key := Map.get? (s.segKeys me.tid.vf gs) (loc / 128) }
      (.ok { old := old, flags := r.2 }, s.onMs (fun m => { m with atomics := m.atomics ++ [a] }))
    | (.trap i, s) => (.trap i, s)
    | (.wait, s) => (.wait, s)

/-- Whether the host agent makes an AMO of two accesses, 06 R140: to host memory on a page without SYSATOM. -/
def hostSplit (gs : List Seg) : Bool := gs.any (fun g => isHost g.at_.loc && !g.at_.sysatom)
/-- An AMO performed at its home or bank, 08 R188: an agent of any die that looks there afterwards finds it (06 R139). -/
def State.amoHome (s : State) (fn : BitVec 9) (t : Tag) (x expect : Word) (gs : List Seg) : Out AmoDone × State :=
  let me := s.me
  let locs := segLocs gs
  let s := s.settleAtomics s.cur
  let old := leNat (locs.map (s.amoByte s.cur))
  let r := amoWrite fn t old (cutTo t x) (cutTo t expect)
  match s.passTo 4#4 (if r.1.isSome then .both else .read) gs with
  | (.ok (), s) =>
    match r.1 with
    | none => (.ok { old := old, flags := r.2 }, s.noteReads locs)
    | some v =>
      let cells := cellsAt (locs.headD 0) (t.width / 8) v
      if hostSplit gs then (.ok { old := old, flags := r.2, write := cells }, s)
      else
        let w := if me.tid.ord then some me.pair else none
        let s := ((s.dropOwn s.cur cells).writeCells me.tid.vf (dieOf me.pl.core) s.cur w cells).settleHomes me.tid.vf [locs.headD 0 / 512]
        (.ok { old := old, flags := r.2 }, s.noteWrote s.cur cells)
  | (.trap i, s) => (.trap i, s)
  | (.wait, s) => (.wait, s)

/-- An AMO is performed at the home (06 R139): what the core's L1 holds of the line goes there first, update-only copies are
recalled, and the writes on their way to the home and to the task's die are applied. What the home's die has seen comes before what the
task's die writes next: the AMO reads there (R136 case 2). -/
def State.reachHome (s : State) (locs : List Nat) : State :=
  let t := s.me
  let die := dieOf t.pl.core
  let home := s.homeDie t.tid.vf (locs.headD 0)
  let s := (((s.flushL1 (coreSees t.pl.core) locs).recallLocs t.tid.vf locs).settle home).settle die
  if home == die then s
  else s.onMs (fun m => { m with clocks := Map.set m.clocks die (clockJoin (Map.get [] m.clocks die) (Map.get [] m.clocks home)) })

/-- An AMO, 08 R188: aligned; a release waits for what it orders; CLM and host memory wait above the horizon (11 R245); a SYSATOM
page of host memory needs AtomicOp Requester Enable (23 R416). -/
def State.amo (s : State) (fn : BitVec 9) (t : Tag) (rel : Bool) (scope : BitVec 3) (d : BitVec 5) (va x expect : Word)
    (size : Nat) : State :=
  if !aligned va (tagBytes t) then s.trap cALIGN va
  else if 64 ≤ s.me.io.lq.length || (rel && s.releaseWaits scope) then s.block
  else
    match s.xlate (s.agentOf s.cur) { rd := true, w := true } va (tagBytes t) with
    | (.error e, s) => s.fault (e.trap 4#4 0#8)
    | (.ok gs, s) =>
      let locs := segLocs gs
      if s.mustWait true locs || (s.provisional s.cur && locs.any isClm) then s.block
      else if gs.any (fun g => isHost g.at_.loc && g.at_.sysatom) && !s.hub.atomicReq then
        s.fault { code := cPERM, tval := va, kind := 4#4 }
      else
        let s := ((s.reachHome locs).underSegs s.me.tid.vf gs).closeAt locs
        Out.bind (if s.provisional s.cur then s.amoBuffer fn t x expect gs else s.amoHome fn t x expect gs)
          (fun r s => (s.released rel scope).amoDone t d r size)

/-- A RED, 08 R189: aligned; a floating-point one is refused in dmodes 1 and 2; the rest is a store-queue entry. -/
def State.red (s : State) (op : RedOp) (t : Tag) (rel : Bool) (scope : BitVec 3) (va x : Word) (size : Nat) : State :=
  if !aligned va (tagBytes t) then s.trap cALIGN va
  else if op == .fadd && s.det then s.trap cORDSENS va
  else if rel && s.tilesPending then s.block
  else Out.bind (s.issueStore 5 (.red op t x) (tagBytes t) va (storeBytes t x) (if rel then some scope else none))
    (fun _ s => s.retire size)

/-- AMOADD, 08 R188. -/
def execAmoadd (t : Tag) (_acq rel : Bool) (scope : BitVec 3) (d a b : BitVec 5) (disp : Src) (s : State) :
    Host.Outcome State Fault Refusal :=
  .next (s.amo 1#9 t rel scope d (s.addrD a disp) (s.x b) 0#64 disp.size)

/-- AMOAND, 08 R188. -/
def execAmoand (t : Tag) (_acq rel : Bool) (scope : BitVec 3) (d a b : BitVec 5) (disp : Src) (s : State) :
    Host.Outcome State Fault Refusal :=
  .next (s.amo 2#9 t rel scope d (s.addrD a disp) (s.x b) 0#64 disp.size)

/-- AMOOR, 08 R188. -/
def execAmoor (t : Tag) (_acq rel : Bool) (scope : BitVec 3) (d a b : BitVec 5) (disp : Src) (s : State) :
    Host.Outcome State Fault Refusal :=
  .next (s.amo 3#9 t rel scope d (s.addrD a disp) (s.x b) 0#64 disp.size)

/-- AMOXOR, 08 R188. -/
def execAmoxor (t : Tag) (_acq rel : Bool) (scope : BitVec 3) (d a b : BitVec 5) (disp : Src) (s : State) :
    Host.Outcome State Fault Refusal :=
  .next (s.amo 4#9 t rel scope d (s.addrD a disp) (s.x b) 0#64 disp.size)

/-- AMOSWAP, 08 R188. -/
def execAmoswap (t : Tag) (_acq rel : Bool) (scope : BitVec 3) (d a b : BitVec 5) (disp : Src) (s : State) :
    Host.Outcome State Fault Refusal :=
  .next (s.amo 5#9 t rel scope d (s.addrD a disp) (s.x b) 0#64 disp.size)

/-- AMOCAS, 08 R188. -/
def execAmocas (t : Tag) (_acq rel : Bool) (scope : BitVec 3) (d a b c : BitVec 5) (disp : Src) (s : State) :
    Host.Outcome State Fault Refusal :=
  .next (s.amo 6#9 t rel scope d (s.addrD a disp) (s.x b) (s.x c) disp.size)

/-- AMOMIN, 08 R188. -/
def execAmomin (t : Tag) (_acq rel : Bool) (scope : BitVec 3) (d a b : BitVec 5) (disp : Src) (s : State) :
    Host.Outcome State Fault Refusal :=
  .next (s.amo 7#9 t rel scope d (s.addrD a disp) (s.x b) 0#64 disp.size)

/-- AMOMAX, 08 R188. -/
def execAmomax (t : Tag) (_acq rel : Bool) (scope : BitVec 3) (d a b : BitVec 5) (disp : Src) (s : State) :
    Host.Outcome State Fault Refusal :=
  .next (s.amo 8#9 t rel scope d (s.addrD a disp) (s.x b) 0#64 disp.size)

/-- AMOMINN, 08 R188. -/
def execAmominn (t : Tag) (_acq rel : Bool) (scope : BitVec 3) (d a b : BitVec 5) (disp : Src) (s : State) :
    Host.Outcome State Fault Refusal :=
  .next (s.amo 9#9 t rel scope d (s.addrD a disp) (s.x b) 0#64 disp.size)

/-- AMOMAXN, 08 R188. -/
def execAmomaxn (t : Tag) (_acq rel : Bool) (scope : BitVec 3) (d a b : BitVec 5) (disp : Src) (s : State) :
    Host.Outcome State Fault Refusal :=
  .next (s.amo 10#9 t rel scope d (s.addrD a disp) (s.x b) 0#64 disp.size)

/-- AMOFADD, 08 R188. -/
def execAmofadd (t : Tag) (_acq rel : Bool) (scope : BitVec 3) (d a b : BitVec 5) (disp : Src) (s : State) :
    Host.Outcome State Fault Refusal :=
  .next (s.amo 11#9 t rel scope d (s.addrD a disp) (s.x b) 0#64 disp.size)

/-- REDADD, 08 R189. -/
def execRedadd (t : Tag) (rel : Bool) (scope : BitVec 3) (a b : BitVec 5) (disp : Src) (s : State) :
    Host.Outcome State Fault Refusal :=
  .next (s.red .add t rel scope (s.addrD a disp) (s.x b) disp.size)

/-- REDMIN, 08 R189. -/
def execRedmin (t : Tag) (rel : Bool) (scope : BitVec 3) (a b : BitVec 5) (disp : Src) (s : State) :
    Host.Outcome State Fault Refusal :=
  .next (s.red .min t rel scope (s.addrD a disp) (s.x b) disp.size)

/-- REDMAX, 08 R189. -/
def execRedmax (t : Tag) (rel : Bool) (scope : BitVec 3) (a b : BitVec 5) (disp : Src) (s : State) :
    Host.Outcome State Fault Refusal :=
  .next (s.red .max t rel scope (s.addrD a disp) (s.x b) disp.size)

/-- REDAND, 08 R189. -/
def execRedand (t : Tag) (rel : Bool) (scope : BitVec 3) (a b : BitVec 5) (disp : Src) (s : State) :
    Host.Outcome State Fault Refusal :=
  .next (s.red .and t rel scope (s.addrD a disp) (s.x b) disp.size)

/-- REDOR, 08 R189. -/
def execRedor (t : Tag) (rel : Bool) (scope : BitVec 3) (a b : BitVec 5) (disp : Src) (s : State) :
    Host.Outcome State Fault Refusal :=
  .next (s.red .or t rel scope (s.addrD a disp) (s.x b) disp.size)

/-- REDXOR, 08 R189. -/
def execRedxor (t : Tag) (rel : Bool) (scope : BitVec 3) (a b : BitVec 5) (disp : Src) (s : State) :
    Host.Outcome State Fault Refusal :=
  .next (s.red .xor t rel scope (s.addrD a disp) (s.x b) disp.size)

/-- REDFADD, 08 R189. -/
def execRedfadd (t : Tag) (rel : Bool) (scope : BitVec 3) (a b : BitVec 5) (disp : Src) (s : State) :
    Host.Outcome State Fault Refusal :=
  .next (s.red .fadd t rel scope (s.addrD a disp) (s.x b) disp.size)

end Sys2Proof.Machine
end

