-- ==== Sys2Proof/Machine/Window.lean ====
section
/-! DEFINITION. The register cache of a context: lines of the register stack, spills and fills (07 R154-R156). -/
namespace Sys2Proof.Machine

/-- The 128-byte lines, by address / 128, that a window at wbase covers. -/
def linesOf (wb : Word) : List Nat := [wb.toNat / 128, (wb.toNat + 127) / 128].dedup
/-- The lines of a window that are not resident. -/
def Regs.missing (f : Regs) (wb : Word) : List Nat := (linesOf wb).filter (fun l => !f.lines.any (fun p => p.1 == l))
/-- The bytes of a line. -/
def Regs.lineBytes (f : Regs) (line : Nat) : List Byte :=
  (List.range 16).flatMap (fun i => leBytes 8 (Map.get 0#64 f.slots (line * 16 + i)).toNat)
/-- Drop a line and the slots it holds. -/
def Regs.dropLine (f : Regs) (line : Nat) : Regs :=
  { f with lines := f.lines.filter (fun p => p.1 != line), slots := f.slots.filter (fun p => p.1 / 16 != line),
           bad := f.bad.filter (· / 16 != line) }
/-- Mark a line clean. -/
def Regs.cleanLine (f : Regs) (line : Nat) : Regs :=
  { f with lines := f.lines.map (fun p => if p.1 = line then (p.1, false) else p) }
/-- Make a line resident and clean with its bytes. -/
def Regs.putLine (f : Regs) (line : Nat) (bs : List Byte) : Regs :=
  { f with lines := (line, false) :: f.lines,
           slots := ((List.range 16).map (fun i => (line * 16 + i, BitVec.ofNat 64 (leNat ((bs.drop (8 * i)).take 8))))) ++ f.slots }
/-- Put a line in ascending order of address. -/
def insertLine (p : Nat × Bool) : List (Nat × Bool) → List (Nat × Bool)
  | [] => [p]
  | q :: qs => if p.1 < q.1 then p :: q :: qs else q :: insertLine p qs
/-- Lines in ascending order of address. -/
def sortLines : List (Nat × Bool) → List (Nat × Bool)
  | [] => []
  | p :: ps => insertLine p (sortLines ps)
/-- The resident lines outside a window, lowest first. -/
def Regs.outside (f : Regs) (wb : Word) : List (Nat × Bool) :=
  sortLines (f.lines.filter (fun p => !(linesOf wb).contains p.1))

/-- Change the register file of the acting task. -/
def State.onRegs (s : State) (f : Regs → Regs) : State := s.onMe (·.onRf f)

/-- Register-image traffic reaches lines: pins of other cores are lifted (06 R132) and update-only copies are recalled (R147). -/
def State.imageReach (s : State) (locs : List Nat) : State := s.atHome s.me.tid.vf locs
/-- Before a read of register-image memory: the core's die takes replicas and sees what has been written of it, by the task engine
and its saves too (07 R152, 11 R231). -/
def State.imageSees (s : State) (locs : List Nat) : State :=
  let t := s.me
  let die := dieOf t.pl.core
  ((s.imageReach locs).tookReplica t.tid.vf die locs).settleAt die ((locs.map (· / 512)).dedup)
/-- The poison of a line's slots goes with their words to memory (25 R440). Log entry 30 (DEDUCED). -/
def State.spillPoison (s : State) (u line : Nat) (locs : List Nat) : State :=
  let bad := (s.task u).rf.bad.filter (· / 16 == line)
  if bad.isEmpty then s
  else
    let words := bad.flatMap (fun k => let l := (locs[8 * (k % 16)]?).getD 0 / 4; [(l, 5), (l + 1, 5)])
    (s.onMs (fun m => { m with poison := words ++ m.poison })).updTask u (·.onRf (fun f => { f with bad := f.bad.filter (· / 16 != line) }))
/-- Write a line to its image address through the L1: translated and checked, never tracked, never a version. -/
def State.writeLine (s : State) (line : Nat) : Out Unit × State :=
  let va := BitVec.ofNat 64 (128 * line)
  match s.xlate (s.agentOf s.cur) { w := true } va 128 with
  | (.error e, s) => (.trap (e.trap 6#4 0#8), s)
  | (.ok gs, s) =>
    let t := s.me
    let cells := segCells gs (t.rf.lineBytes line)
    let s := (s.flushL1 (coreSees t.pl.core) (cells.map (·.1))).imageReach (cells.map (·.1))
    let w := if t.tid.ord then some t.pair else none
    (.ok (), ((s.writeCells t.tid.vf (dieOf t.pl.core) s.cur w cells).spillPoison s.cur line (cells.map (·.1))).onRegs (·.cleanLine line))
/-- Read a line from its image address through the L1. -/
def State.fillLine (s : State) (line : Nat) : Out Unit × State :=
  let va := BitVec.ofNat 64 (128 * line)
  match s.xlate (s.agentOf s.cur) { rd := true } va 128 with
  | (.error e, s) => (.trap (e.trap 7#4 0#8), s)
  | (.ok gs, s) =>
    let t := s.me
    let locs := segLocs gs
    let s := s.imageSees locs
    match s.poisonAt locs with
    | some unit => (.trap { code := cMCHK, tval := t.tid.lid, kind := 7#4, detail := BitVec.ofNat 8 unit }, s)
    | none => (.ok (), s.onRegs (·.putLine line (locs.map (s.viewed t.pl.core))))

/-- Write the dirty lines of a spill burst in ascending order. -/
def State.spillLines (s : State) : List (Nat × Bool) → Out Unit × State
  | [] => (.ok (), s)
  | (l, dirty) :: ls =>
    if !dirty then s.spillLines ls
    else
      match s.writeLine l with
      | (.ok (), s) => s.spillLines ls
      | (.trap i, s) => (.trap i, s)
      | (.wait, s) => (.wait, s)
/-- Fill lines; on a fault the resident lines stay as `keep`, those written marked clean. -/
def State.fillLines (s : State) (keep : Regs) : List Nat → Out Unit × State
  | [] => (.ok (), s)
  | l :: ls =>
    match s.fillLine l with
    | (.ok (), s) => s.fillLines keep ls
    | (.trap i, s) => (.trap i, s.onRegs (fun f => { f with lines := keep.lines, slots := keep.slots, bad := keep.bad }))
    | (.wait, s) => (.wait, s)

/-- Spill and fill for a CALL to a window at wb, R156. -/
def State.callLines (s : State) (wb : Word) : Out Unit × State :=
  let f := s.me.rf
  let need := f.missing wb
  if need.isEmpty then (.ok (), s)
  else
    let burst := if 32 ≤ f.lines.length then (f.outside wb).take 4 else []
    match s.spillLines burst with
    | (.ok (), s) =>
      let keep := s.me.rf
      (s.onRegs (fun f => burst.foldl (fun f p => f.dropLine p.1) f)).fillLines keep need
    | (.trap i, s) => (.trap i, s)
    | (.wait, s) => (.wait, s)
/-- Free one line for a fill of a RET or a trap return when 32 are held, R156: the lowest clean one outside the window,
else the lowest dirty one, written back. -/
def State.roomForLine (s : State) (wb : Word) : Out Unit × State :=
  let f := s.me.rf
  if f.lines.length < 32 then (.ok (), s)
  else
    let out := f.outside wb
    match out.find? (fun p => !p.2) with
    | some p => (.ok (), s.onRegs (·.dropLine p.1))
    | none =>
      match out with
      | [] => (.ok (), s)
      | p :: _ =>
        match s.writeLine p.1 with
        | (.ok (), s) => (.ok (), s.onRegs (·.dropLine p.1))
        | other => other
/-- Fill for a RET or a trap return to a window at wb, R156. -/
def State.retLines (s : State) (wb : Word) : List Nat → Out Unit × State
  | [] => (.ok (), s)
  | l :: ls =>
    let keep := s.me.rf
    match s.roomForLine wb with
    | (.ok (), s) =>
      let wrote := (keep.outside wb).find? (fun p => !s.me.rf.lines.any (fun q => q.1 == p.1))
      let keep := match wrote with | some p => keep.cleanLine p.1 | none => keep
      match s.fillLines keep [l] with
      | (.ok (), s) => s.retLines wb ls
      | other => other
    | other => other

/-- CALL and CALLR to a target, 08 R184; n is the slide and size the instruction's length. -/
def State.callTo (s : State) (n : Nat) (t : Word) (size : Nat) : State :=
  let f := s.me.rf
  let top := f.wbase.toNat + 8 * n + 128
  if t.extractLsb' 0 2 != 0#2 then s.trap cIALIGN t
  else if s.me.sy.stklim.toNat < top then s.trap cRSOVF (BitVec.ofNat 64 top)
  else
    let wb := f.wbase + BitVec.ofNat 64 (8 * n)
    Out.bind (s.callLines wb) (fun _ s =>
      let next := s.pc + BitVec.ofNat 64 size
      let s := s.onRegs (fun f => { f with wbase := wb })
      (s.setX 15#5 (BitVec.ofNat 64 (n * 2 ^ 56) ||| next)).retireTo t)
/-- RET, 08 R184. -/
def State.returnFrom (s : State) : State :=
  let k := s.x 15#5
  let back : Word := (k.extractLsb' 56 4).setWidth 64 <<< 3
  let t : Word := (k.extractLsb' 0 56).setWidth 64
  let wb := s.me.rf.wbase
  if k.extractLsb' 60 4 != 0#4 || k.extractLsb' 56 4 == 0#4 || wb.toNat < s.me.sy.stkbase.toNat + back.toNat then
    s.trap cLINK k
  else if k.extractLsb' 0 2 != 0#2 then s.trap cIALIGN t
  else
    Out.bind (s.retLines (wb - back) (s.me.rf.missing (wb - back))) (fun _ s =>
      (s.onRegs (fun f => { f with wbase := wb - back })).retireTo t)

end Sys2Proof.Machine
end

