-- ==== Sys2Proof/Machine/Branch.lean ====
section
/-! DEFINITION. Control flow: branches, jumps, calls and returns, trap and trap return (08 R182-R185). -/
namespace Sys2Proof.Machine

/-- Go to P + 4 * SignExt(disp); with a displacement of 0 or less this is a kill point (08 R170). -/
def State.jump {n : Nat} (s : State) (disp : BitVec n) : State :=
  if disp.toInt ≤ 0 then s.atKillPoint (fun s => s.retireTo (s.target disp)) else s.retireTo (s.target disp)
/-- A compare-branch, 08 R182. -/
def State.branch (s : State) (taken : Bool) (disp : BitVec 11) : State := if taken then s.jump disp else s.retire 4

/-- BEQ, 08 R182. -/
def execBeq (a b : BitVec 5) (disp : BitVec 11) (s : State) : Host.Outcome State Fault Refusal :=
  .next (s.branch (s.x a == s.x b) disp)

/-- BNE, 08 R182. -/
def execBne (a b : BitVec 5) (disp : BitVec 11) (s : State) : Host.Outcome State Fault Refusal :=
  .next (s.branch (s.x a != s.x b) disp)

/-- BLT, 08 R182. -/
def execBlt (a b : BitVec 5) (disp : BitVec 11) (s : State) : Host.Outcome State Fault Refusal :=
  .next (s.branch ((s.x a).slt (s.x b)) disp)

/-- BGE, 08 R182. -/
def execBge (a b : BitVec 5) (disp : BitVec 11) (s : State) : Host.Outcome State Fault Refusal :=
  .next (s.branch (!(s.x a).slt (s.x b)) disp)

/-- BLTN, 08 R182. -/
def execBltn (a b : BitVec 5) (disp : BitVec 11) (s : State) : Host.Outcome State Fault Refusal :=
  .next (s.branch ((s.x a).ult (s.x b)) disp)

/-- BGEN, 08 R182. -/
def execBgen (a b : BitVec 5) (disp : BitVec 11) (s : State) : Host.Outcome State Fault Refusal :=
  .next (s.branch (!(s.x a).ult (s.x b)) disp)

/-- BANY, 08 R182. -/
def execBany (a b : BitVec 5) (disp : BitVec 11) (s : State) : Host.Outcome State Fault Refusal :=
  .next (s.branch ((s.x a &&& s.x b) != 0#64) disp)

/-- BNONE, 08 R182. -/
def execBnone (a b : BitVec 5) (disp : BitVec 11) (s : State) : Host.Outcome State Fault Refusal :=
  .next (s.branch ((s.x a &&& s.x b) == 0#64) disp)

/-- J, 08 R183. -/
def execJ (disp : BitVec 24) (s : State) : Host.Outcome State Fault Refusal := .next (s.jump disp)

/-- CALL, 08 R184. -/
def execCall (n : BitVec 4) (target : BitVec 64) (s : State) : Host.Outcome State Fault Refusal :=
  .next (s.callTo n.toNat target 20)

/-- CALLR, 08 R184: the target is read in the caller's window. -/
def execCallr (n : BitVec 4) (a : BitVec 5) (s : State) : Host.Outcome State Fault Refusal :=
  .next (s.callTo n.toNat (s.x a) 4)

/-- JR, 08 R184. -/
def execJr (a : BitVec 5) (s : State) : Host.Outcome State Fault Refusal :=
  .next (if (s.x a).extractLsb' 0 2 != 0#2 then s.trap cIALIGN (s.x a) else s.retireTo (s.x a))

/-- RET, 08 R184. -/
def execRet (s : State) : Host.Outcome State Fault Refusal := .next s.returnFrom

/-- TRAP, 08 R185: the restart point is Next. An ordered task above the horizon waits (R169). Log entry 66 (DEDUCED). -/
def execTrap (a : BitVec 5) (s : State) : Host.Outcome State Fault Refusal :=
  .next (if s.provisional s.cur then s.block
    else (s.retire 4).takeTrap { code := cTRAP, tval := s.x a } (s.pc + 4#64))

/-- Return from level L, 07 R162: tl becomes L - 1 and the pc retL. -/
def Task.leave (t : Task) (det : Bool) : Task :=
  let l := t.sy.tl.toNat
  (t.onSy (fun y => { y with tl := BitVec.ofNat 2 (l - 1) })).retired det (t.sy.bank l).ret

/-- TRET, 08 R185. -/
def execTret (s : State) : Host.Outcome State Fault Refusal :=
  .next (if s.me.sy.tl == 0#2 then s.trap cSYSREG 0#64
    else s.reportAll (fun s =>
      let wb := s.me.rf.wbase
      Out.bind (s.retLines wb (s.me.rf.missing wb)) (fun _ s => s.onMe (·.leave s.det))))

end Sys2Proof.Machine
end

