-- ==== Sys2Proof/WellFormed.lean ====
section
/-! DEFINITION. Which instructions the encoding admits: register classes (03 R66, 08 R166), tag classes
(10 R209, 17 R330), scopes and flags (00 R6, 08 R166) and the limits of single entries. -/
namespace Sys2Proof

/-- A scalar register code: a0-a15, g0-g7 or zr (03 R66). -/
def xOk (r : BitVec 5) : Bool := decide (r.toNat ≤ 24)
/-- A memory base or index: a0-a15 only (08 R166). -/
def baseOk (r : BitVec 5) : Bool := decide (r.toNat ≤ 15)
/-- A vector destination: v0-v27 (03 R66); a q code is a source only. -/
def vdOk (r : BitVec 5) : Bool := decide (r.toNat ≤ 27)
/-- The scope is not reserved (00 R6), and it is 0 where no flag is set (08 R166). -/
def scopeOk (acq rel : Bool) (scope : BitVec 3) : Bool :=
  if acq || rel then decide (scope.toNat ≤ 5) else scope == 0#3
/-- Argument registers of spawn, start and rfork (11 R254): at most `limit`, none past a15, b = 0 with n = 0. -/
def argsOk (n : BitVec 3) (b : BitVec 4) (limit : Nat) : Bool :=
  decide (n.toNat ≤ limit) && (if n == 0#3 then b == 0#4 else decide (b.toNat + n.toNat ≤ 16))

/-- INT, 10 R209. -/
def Tag.int (t : Tag) : Bool := t.isSigned || t.isUnsigned
/-- INT and bits, 10 R214. -/
def Tag.intBits (t : Tag) : Bool := t.int || t == .bits
/-- FPA, 10 R209. -/
def Tag.fpa (t : Tag) : Bool := t == .f64 || t == .f32 || t == .f16 || t == .bf16
/-- WIDE, 10 R209. -/
def Tag.wide (t : Tag) : Bool := t == .i32 || t == .i64 || t == .n32 || t == .n64 || t == .f32 || t == .f64
/-- DATA, 10 R209. -/
def Tag.data (t : Tag) : Bool := t != .empty
/-- 32- or 64-bit DATA, 10 R223, R225. -/
def Tag.data32 (t : Tag) : Bool := t.data && (t.width == 32 || t.width == 64)
/-- DATA except bits, 10 R228. -/
def Tag.dataNoBits (t : Tag) : Bool := t.data && t != .bits
/-- The tags of ld and st, 08 R186. -/
def Tag.mem (t : Tag) : Bool := t.int || t == .f32 || t == .f64
/-- i32, i64, n32, n64: 08 R188, R189. -/
def Tag.int32 (t : Tag) : Bool := t == .i32 || t == .i64 || t == .n32 || t == .n64
/-- i32, i64: 08 R188. -/
def Tag.sgn32 (t : Tag) : Bool := t == .i32 || t == .i64
/-- n32, n64: 08 R188. -/
def Tag.uns32 (t : Tag) : Bool := t == .n32 || t == .n64
/-- f32, f64: 08 R188, R189. -/
def Tag.fp32 (t : Tag) : Bool := t == .f32 || t == .f64
/-- Tile tags, 17 R330 (0xF is res). -/
def Tag.tile (t : Tag) : Bool := t == .i8 || t == .bits || t.isFp
/-- The destination tags of tcvt, 17 R344. -/
def Tag.fp6 (t : Tag) : Bool := t.isFp

/-- kset: the register form names a scalar register. -/
def ScaleSrc.ok : ScaleSrc → Bool
  | .reg a => xOk a
  | .imm _ => true
/-- evset, evadd: the register form names a scalar register. -/
def LeafSrc.ok : LeafSrc → Bool
  | .reg c => xOk c
  | .imm _ | .lit _ => true
/-- qarr: the contribution is i32, i64 or f32 (13 R290). -/
def Contribution.ok : Contribution → Bool
  | .none => true
  | .vec t _ => t == .i32 || t == .i64 || t == .f32

/-- The encoding admits the instruction's operands. A step of the device has no encoding and is never well formed. -/
def Instr.wf : Instr → Bool
  | .add d a b => xOk d && xOk a && xOk b
  | .sub d a b => xOk d && xOk a && xOk b
  | .and d a b => xOk d && xOk a && xOk b
  | .or d a b => xOk d && xOk a && xOk b
  | .xor d a b => xOk d && xOk a && xOk b
  | .andn d a b => xOk d && xOk a && xOk b
  | .sll d a b => xOk d && xOk a && xOk b
  | .srl d a b => xOk d && xOk a && xOk b
  | .sra d a b => xOk d && xOk a && xOk b
  | .addw d a b => xOk d && xOk a && xOk b
  | .subw d a b => xOk d && xOk a && xOk b
  | .min d a b => xOk d && xOk a && xOk b
  | .max d a b => xOk d && xOk a && xOk b
  | .minn d a b => xOk d && xOk a && xOk b
  | .maxn d a b => xOk d && xOk a && xOk b
  | .addi d a _ => xOk d && xOk a
  | .addiLit d a _ => xOk d && xOk a
  | .andi d a _ => xOk d && xOk a
  | .ori d a _ => xOk d && xOk a
  | .xori d a _ => xOk d && xOk a
  | .slli d a _ => xOk d && xOk a
  | .srli d a _ => xOk d && xOk a
  | .srai d a _ => xOk d && xOk a
  | .li d _ => xOk d
  | .liLit d _ => xOk d
  | .mul d a b => xOk d && xOk a && xOk b
  | .mulh d a b => xOk d && xOk a && xOk b
  | .mulhn d a b => xOk d && xOk a && xOk b
  | .div d a b => xOk d && xOk a && xOk b
  | .divn d a b => xOk d && xOk a && xOk b
  | .rem d a b => xOk d && xOk a && xOk b
  | .remn d a b => xOk d && xOk a && xOk b
  | .mulw d a b => xOk d && xOk a && xOk b
  | .divw d a b => xOk d && xOk a && xOk b
  | .remw d a b => xOk d && xOk a && xOk b
  | .clz d a => xOk d && xOk a
  | .ctz d a => xOk d && xOk a
  | .popc d a => xOk d && xOk a
  | .rev8 d a => xOk d && xOk a
  | .rotl d a b => xOk d && xOk a && xOk b
  | .rotr d a b => xOk d && xOk a && xOk b
  | .bext d a b => xOk d && xOk a && xOk b
  | .bdep d a b => xOk d && xOk a && xOk b
  | .seq d a b => xOk d && xOk a && xOk b
  | .sne d a b => xOk d && xOk a && xOk b
  | .slt d a b => xOk d && xOk a && xOk b
  | .sltn d a b => xOk d && xOk a && xOk b
  | .sel d a b => xOk d && xOk a && xOk b
  | .fadd _ _ d a b => xOk d && xOk a && xOk b
  | .fsub _ _ d a b => xOk d && xOk a && xOk b
  | .fmul _ _ d a b => xOk d && xOk a && xOk b
  | .fdiv _ _ d a b => xOk d && xOk a && xOk b
  | .fsqrt _ _ d a => xOk d && xOk a
  | .fmin _ d a b => xOk d && xOk a && xOk b
  | .fmax _ d a b => xOk d && xOk a && xOk b
  | .fsgnj _ d a b => xOk d && xOk a && xOk b
  | .fsgnjn _ d a b => xOk d && xOk a && xOk b
  | .ffma _ _ d a b c => xOk d && xOk a && xOk b && xOk c
  | .ffms _ _ d a b c => xOk d && xOk a && xOk b && xOk c
  | .ffnma _ _ d a b c => xOk d && xOk a && xOk b && xOk c
  | .fcvt rm w d a => xOk d && xOk a && (w || rm == 0#2)
  | .ftoi _ _ d a => xOk d && xOk a
  | .ftoiw _ _ d a => xOk d && xOk a
  | .fton _ _ d a => xOk d && xOk a
  | .ftonw _ _ d a => xOk d && xOk a
  | .itof _ _ d a => xOk d && xOk a
  | .ntof _ _ d a => xOk d && xOk a
  | .fround _ _ d a => xOk d && xOk a
  | .fclass _ d a => xOk d && xOk a
  | .feq _ d a b => xOk d && xOk a && xOk b
  | .flt _ d a b => xOk d && xOk a && xOk b
  | .fle _ d a b => xOk d && xOk a && xOk b
  | .funord _ d a b => xOk d && xOk a && xOk b
  | .beq a b _ => xOk a && xOk b
  | .bne a b _ => xOk a && xOk b
  | .blt a b _ => xOk a && xOk b
  | .bge a b _ => xOk a && xOk b
  | .bltn a b _ => xOk a && xOk b
  | .bgen a b _ => xOk a && xOk b
  | .bany a b _ => xOk a && xOk b
  | .bnone a b _ => xOk a && xOk b
  | .j _ => true
  | .call n _ => n != 0#4
  | .jr a => xOk a
  | .callr n a => xOk a && n != 0#4
  | .ret => true
  | .trap a => xOk a
  | .tret => true
  | .ld d a _ => xOk d && baseOk a
  | .ldX t acq scope d a _ => t.mem && xOk d && baseOk a && scopeOk acq false scope
  | .ldIndexed t acq scope d a b _ => t.mem && xOk d && baseOk a && baseOk b && scopeOk acq false scope
  | .st d a _ => xOk d && baseOk a
  | .stX t rel scope d a _ => t.mem && xOk d && baseOk a && scopeOk false rel scope
  | .stIndexed t rel scope d a b _ => t.mem && xOk d && baseOk a && baseOk b && scopeOk false rel scope
  | .amoadd t acq rel scope d a b _ => t.int32 && xOk d && baseOk a && xOk b && scopeOk acq rel scope
  | .amoand t acq rel scope d a b _ => t.int32 && xOk d && baseOk a && xOk b && scopeOk acq rel scope
  | .amoor t acq rel scope d a b _ => t.int32 && xOk d && baseOk a && xOk b && scopeOk acq rel scope
  | .amoxor t acq rel scope d a b _ => t.int32 && xOk d && baseOk a && xOk b && scopeOk acq rel scope
  | .amoswap t acq rel scope d a b _ => t.wide && xOk d && baseOk a && xOk b && scopeOk acq rel scope
  | .amocas t acq rel scope d a b c _ => t.wide && xOk d && baseOk a && xOk b && xOk c && scopeOk acq rel scope
  | .amomin t acq rel scope d a b _ => t.sgn32 && xOk d && baseOk a && xOk b && scopeOk acq rel scope
  | .amomax t acq rel scope d a b _ => t.sgn32 && xOk d && baseOk a && xOk b && scopeOk acq rel scope
  | .amominn t acq rel scope d a b _ => t.uns32 && xOk d && baseOk a && xOk b && scopeOk acq rel scope
  | .amomaxn t acq rel scope d a b _ => t.uns32 && xOk d && baseOk a && xOk b && scopeOk acq rel scope
  | .amofadd t acq rel scope d a b _ => t.fp32 && xOk d && baseOk a && xOk b && scopeOk acq rel scope
  | .redadd t rel scope a b _ => t.int32 && baseOk a && xOk b && scopeOk false rel scope
  | .redmin t rel scope a b _ => t.int32 && baseOk a && xOk b && scopeOk false rel scope
  | .redmax t rel scope a b _ => t.int32 && baseOk a && xOk b && scopeOk false rel scope
  | .redand t rel scope a b _ => t.int32 && baseOk a && xOk b && scopeOk false rel scope
  | .redor t rel scope a b _ => t.int32 && baseOk a && xOk b && scopeOk false rel scope
  | .redxor t rel scope a b _ => t.int32 && baseOk a && xOk b && scopeOk false rel scope
  | .redfadd t rel scope a b _ => t.fp32 && baseOk a && xOk b && scopeOk false rel scope
  | .fence acq rel scope => (acq || rel) && scopeOk acq rel scope
  | .drainst => true
  | .waitc _ => true
  | .nop => true
  | .brk => true
  | .kpoint => true
  | .icinv => true
  | .tlbinv a => xOk a
  | .srr d _ => xOk d
  | .srw a _ => xOk a
  | .perfStart _ => true
  | .perfStop a => xOk a
  | .vadd t sc _ d _ b => t.int && vdOk d && (!sc || xOk b)
  | .vsub t sc _ d _ b => t.int && vdOk d && (!sc || xOk b)
  | .vmul t sc _ d _ b => t.int && vdOk d && (!sc || xOk b)
  | .vmulh t sc _ d _ b => t.int && vdOk d && (!sc || xOk b)
  | .vmin t sc _ d _ b => t.int && vdOk d && (!sc || xOk b)
  | .vmax t sc _ d _ b => t.int && vdOk d && (!sc || xOk b)
  | .vand t sc _ d _ b => t.intBits && vdOk d && (!sc || xOk b)
  | .vor t sc _ d _ b => t.intBits && vdOk d && (!sc || xOk b)
  | .vxor t sc _ d _ b => t.intBits && vdOk d && (!sc || xOk b)
  | .vsll t sc _ d _ b => t.int && vdOk d && (!sc || xOk b)
  | .vsrl t sc _ d _ b => t.int && vdOk d && (!sc || xOk b)
  | .vsra t sc _ d _ b => t.int && vdOk d && (!sc || xOk b)
  | .vaddsat t sc _ d _ b => t.int && vdOk d && (!sc || xOk b)
  | .vsubsat t sc _ d _ b => t.int && vdOk d && (!sc || xOk b)
  | .vmov t _ d _ => t.data && vdOk d
  | .vli t _ d _ => t.data && vdOk d
  | .vfadd _ t sc _ d _ b => t.fpa && vdOk d && (!sc || xOk b)
  | .vfsub _ t sc _ d _ b => t.fpa && vdOk d && (!sc || xOk b)
  | .vfmul _ t sc _ d _ b => t.fpa && vdOk d && (!sc || xOk b)
  | .vfdiv _ t sc _ d _ b => t.fpa && vdOk d && (!sc || xOk b)
  | .vffma _ t sc _ d _ b _ => t.fpa && vdOk d && (!sc || xOk b)
  | .vfmin t sc _ d _ b => t.fpa && vdOk d && (!sc || xOk b)
  | .vfmax t sc _ d _ b => t.fpa && vdOk d && (!sc || xOk b)
  | .vfsqrt _ t _ d _ => t.fpa && vdOk d
  | .vcmpeq t sc _ d _ b => t.wide && d != 0#3 && (!sc || xOk b)
  | .vcmpne t sc _ d _ b => t.wide && d != 0#3 && (!sc || xOk b)
  | .vcmplt t sc _ d _ b => t.wide && d != 0#3 && (!sc || xOk b)
  | .vcmple t sc _ d _ b => t.wide && d != 0#3 && (!sc || xOk b)
  | .vsel t _ d _ _ => t.data && vdOk d
  | .mand d _ _ => d != 0#3
  | .mor d _ _ => d != 0#3
  | .mandn d _ _ => d != 0#3
  | .mxor d _ _ => d != 0#3
  | .mpop d _ => xOk d
  | .medge t d a b => t.wide && d != 0#3 && xOk a && xOk b
  | .vld t acq scope _ d a _ => t.data && vdOk d && baseOk a && scopeOk acq false scope
  | .vst t rel scope _ _ a _ => t.data && baseOk a && scopeOk false rel scope
  | .vlds t acq scope _ d a b _ => t.data && vdOk d && baseOk a && xOk b && scopeOk acq false scope
  | .vsts t rel scope _ _ a b _ => t.data && baseOk a && xOk b && scopeOk false rel scope
  | .vgath t acq scope _ d a b _ _ => t.data32 && vdOk d && baseOk a && scopeOk acq false scope && d != b
  | .vscat t rel scope _ _ a _ _ _ => t.data32 && baseOk a && scopeOk false rel scope
  | .vperm t _ d _ _ => t.data32 && vdOk d
  | .vbcast t _ d a => t.data && vdOk d && xOk a
  | .vslide t _ d _ _ => t.data && vdOk d
  | .vredsum rm t _ d _ => t.wide && xOk d && (t.isFp || rm == 0#2)
  | .vredmin t _ d _ => t.wide && xOk d
  | .vredmax t _ d _ => t.wide && xOk d
  | .vext t d _ idx => t.data && xOk d && decide (idx.toNat < t.elems)
  | .vcvt t _ _ d _ _ _ => t.dataNoBits && vdOk d
  | .tclaim t _ _ _ => t.tile
  | .tfree _ => true
  | .hmov d a => d != a
  | .hsend core k _ _ => xOk core && decide (k.toNat ≤ 10)
  | .hdup d a => d != a
  | .hinfo d _ => xOk d
  | .kset _ v => v.ok
  | .tld t int4 acq scope _ a c _ => t.tile && baseOk a && xOk c && scopeOk acq false scope && (!int4 || t == .i8)
  | .tst t rel scope _ a c _ _ _ => t.tile && baseOk a && xOk c && scopeOk false rel scope
  | .tmma d a b => d != a && d != b
  | .tzero t _ => t.tile
  | .tcvt t _ _ _ _ _ => t.fp6
  | .tsplit _ d _ b _ => d != b
  | .trejoin _ a b => a != b
  | .c1d acq rel scope d a b c e => xOk d && xOk a && xOk b && xOk c && xOk e && scopeOk acq rel scope
  | .c2d acq rel scope d a b c e => xOk d && xOk a && xOk b && xOk c && xOk e && scopeOk acq rel scope
  | .c3d acq rel scope d a b c e => xOk d && xOk a && xOk b && xOk c && xOk e && scopeOk acq rel scope
  | .ctileLd acq rel scope d a _ e => xOk d && xOk a && xOk e && scopeOk acq rel scope
  | .ctileSt acq rel scope d a _ e => xOk d && xOk a && xOk e && scopeOk acq rel scope
  | .cfill acq rel scope d a b c e => xOk d && xOk a && xOk b && xOk c && xOk e && scopeOk acq rel scope
  | .cunseal acq rel scope tile d a b c e => xOk d && xOk a && xOk b && xOk c && xOk e && scopeOk acq rel scope && (!tile || baseOk a)
  | .cwait a => xOk a
  | .cstat d a => xOk d && xOk a
  | .sleepu a _ => xOk a
  | .spawn d a b c e _ n ord => xOk d && xOk a && xOk c && xOk e && argsOk n b 4 && (!ord || c != 24#5)
  | .start d b c e _ n => xOk d && xOk c && xOk e && argsOk n b 4
  | .rfork d a b c e _ n => xOk d && xOk a && xOk c && xOk e && argsOk n b 2
  | .exit => true
  | .yield => true
  | .keyset a => xOk a
  | .budset a => xOk a
  | .psend rel scope _ a b => xOk a && xOk b && scopeOk false rel scope
  | .csend t rel scope a _ _ => t.data && xOk a && scopeOk false rel scope
  | .bind c e _ _ _ => xOk c && xOk e
  | .pwait d _ => xOk d
  | .horz d => xOk d
  | .getlid d => xOk d
  | .gjoin a b => xOk a && xOk b
  | .gleave a => xOk a
  | .barinit a b => xOk a && xOk b
  | .bararr a => xOk a
  | .barwait a => xOk a
  | .qinit d a b => xOk d && xOk a && xOk b
  | .qarr a con => xOk a && con.ok
  | .qwait d a => xOk d && xOk a
  | .qstat d a => xOk d && xOk a
  | .qrec d a => xOk d && xOk a
  | .evcfg _ acq rel scope a b c e => xOk a && xOk b && xOk c && xOk e && scopeOk acq rel scope
  | .evset a b v => xOk a && xOk b && v.ok
  | .evadd a b v => xOk a && xOk b && v.ok
  | .evget d a b => xOk d && xOk a && xOk b
  | .evsum d a => xOk d && xOk a
  | .evnext _ acq rel scope d a c e => xOk d && xOk a && xOk c && xOk e && scopeOk acq rel scope
  | .evsched d a b c e => xOk d && xOk a && xOk b && xOk c && xOk e
  | .evclkClock d a => xOk d && xOk a
  | .evclkCount d a => xOk d && xOk a
  | .evhorBound d a => xOk d && xOk a
  | .evhorCommit d a => xOk d && xOk a
  | .evhorStatus d a => xOk d && xOk a
  | .evlook a b c _ => xOk a && xOk b && xOk c
  | .taskDispatch _ => false
  | .postMessageArrival _ => false
  | .channelEntryArrival _ => false
  | .budgetExhausted _ => false
  | .horizonHolderSwitchOut _ => false
  | .horizonUpdate _ => false
  | .commit => false
  | .orderedAbort _ => false
  | .kill _ => false
  | .storePerformed _ _ => false
  | .updateCopyEviction _ => false
  | .replicaApply _ _ => false
  | .pinLift _ => false
  | .sfq64Bound _ => false
  | .copyBeat _ => false
  | .promiseExpiry _ => false
  | .tileComplete _ _ => false
  | .hsendLanded _ => false
  | .barrierRelease _ _ => false
  | .quorumDeadline _ _ => false
  | .deadlinePass _ => false
  | .garnetUpdate _ => false
  | .launchCommit _ _ _ _ => false
  | .launchPlace => false
  | .priorityAging _ => false
  | .sliceExpiry _ => false
  | .preemption _ => false
  | .graceExpiry _ => false
  | .coopHandlerBudgetEnd _ => false
  | .registerCacheSwap _ => false
  | .launchRestore _ => false
  | .launchEnd _ => false
  | .gangReservation _ _ => false
  | .gangGo _ => false
  | .gangStart _ => false
  | .gangCancel _ _ => false
  | .functionLevelReset _ => false
  | .setroot _ _ => false
  | .getcfg _ => false
  | .pfmsg _ => false
  | .mailboxBadop _ => false
  | .pfMailboxAnswer _ _ _ => false
  | .apply _ => false
  | .dissolve _ => false
  | .getVersion _ => false
  | .getCapabilities _ => false
  | .negotiateAlgorithms _ => false
  | .getDigests _ => false
  | .getCertificate _ => false
  | .challenge _ => false
  | .getMeasurements _ => false
  | .keyExchange _ => false
  | .finish _ _ => false
  | .endSession _ _ => false
  | .keySlotLoad _ _ _ _ _ => false
  | .keySlotClear _ _ _ => false
  | .hostRead _ _ _ => false
  | .hostWrite _ _ _ => false
  | .hostAtomicop _ _ _ _ _ _ => false
  | .bar0Write _ _ _ _ => false
  | .tbaseWrite _ _ => false
  | .tsizeWrite _ _ => false
  | .twidxWrite _ _ => false
  | .tridxWrite _ _ => false
  | .traceControlWrite _ _ => false
  | .debuggerAttach => false
  | .debugStop _ => false
  | .debugResume _ _ => false
  | .debugAccess _ _ => false
  | .debuggerKill _ => false
  | .startSequence _ => false
  | .clearstart => false
  | .droopStretch _ => false
  | .stretchRelease _ => false
  | .powerLimitStretch => false
  | .powerLimitRelease => false
  | .softError _ => false
  | .loadReturn _ => false
  | .pfFunctionLevelReset => false

end Sys2Proof
end

