-- ==== Sys2Proof/Decode.lean ====
section
/-! DEFINITION. Words and instructions (03 R58-R77): the fields of the words, the decoder (total on any
bytes, rejecting by name) and the encoder, both written from the entries' encoding tables.

`pick` reads the operands of the entry that major, len and minor select; `decodeRaw` then accepts the
instruction only if it is well formed and its own encoding gives back every field, which is how every
field that an entry does not use must be 0 (R65, R69, R77). -/
namespace Sys2Proof

/-- The fields of an instruction's words, 03 R63, R64 (fields of words that the length does not have are 0). -/
structure Raw where
  len : BitVec 2 := 0#2
  major : BitVec 6 := 0#6
  d : BitVec 5 := 0#5
  a : BitVec 5 := 0#5
  b : BitVec 5 := 0#5
  fn : BitVec 9 := 0#9
  c : BitVec 5 := 0#5
  e : BitVec 5 := 0#5
  mask : BitVec 3 := 0#3
  scope : BitVec 3 := 0#3
  acq : Bool := false
  rel : Bool := false
  dtag : BitVec 4 := 0#4
  stag : BitVec 4 := 0#4
  rm : BitVec 2 := 0#2
  aux : BitVec 4 := 0#4
  imm : BitVec 32 := 0#32
  lit : BitVec 64 := 0#64
deriving DecidableEq, Repr

/-- Word 0 of F-R and F-X, 03 R63. -/
def Raw.word0 (r : Raw) : BitVec 32 := r.fn ++ r.b ++ r.a ++ r.d ++ r.major ++ r.len
/-- Word 1 of F-X, 03 R64. -/
def Raw.word1 (r : Raw) : BitVec 32 :=
  r.aux ++ r.rm ++ r.stag ++ r.dtag ++ BitVec.ofBool r.rel ++ BitVec.ofBool r.acq ++ r.scope ++ r.mask ++ r.e ++ r.c
/-- Read word 0, 03 R63. -/
def Raw.ofWord0 (w : BitVec 32) : Raw :=
  { len := w.extractLsb' 0 2, major := w.extractLsb' 2 6, d := w.extractLsb' 8 5, a := w.extractLsb' 13 5,
    b := w.extractLsb' 18 5, fn := w.extractLsb' 23 9 }
/-- Read words 1 and 2 of F-X, 03 R64. -/
def Raw.withX (r : Raw) (w1 w2 : BitVec 32) : Raw :=
  { r with c := w1.extractLsb' 0 5, e := w1.extractLsb' 5 5, mask := w1.extractLsb' 10 3, scope := w1.extractLsb' 13 3,
           acq := w1.getLsbD 16, rel := w1.getLsbD 17, dtag := w1.extractLsb' 18 4, stag := w1.extractLsb' 22 4,
           rm := w1.extractLsb' 26 2, aux := w1.extractLsb' 28 4, imm := w2 }

/-- imm14 of F-I, 03 R63. -/
def Raw.imm14 (r : Raw) : BitVec 14 := r.fn ++ r.b
/-- disp11 of F-B, 03 R63 (bits 31:21; cond is bits 20:18). -/
def Raw.disp11 (r : Raw) : BitVec 11 := r.fn ++ r.b.extractLsb' 3 2
/-- disp24 of F-J, 03 R63. -/
def Raw.disp24 (r : Raw) : BitVec 24 := r.fn ++ r.b ++ r.a ++ r.d
/-- The operand that the literal word replaces in the literal forms, 03 R69. -/
def Raw.src (r : Raw) : Src := if r.len.getLsbD 0 then .lit r.lit else .imm r.imm
/-- kset's source, 17 R338. -/
def Raw.scaleSrc (r : Raw) : ScaleSrc := if r.aux.getLsbD 0 then .imm r.imm else .reg r.a
/-- The value of evset and evadd, 20 R370. -/
def Raw.leafSrc (r : Raw) : LeafSrc :=
  if r.len.getLsbD 0 then .lit r.lit else if r.aux.getLsbD 3 then .imm r.imm else .reg r.c
/-- qarr's contribution, 13 R290. -/
def Raw.contribution (r : Raw) : Contribution := if r.aux.getLsbD 0 then .vec (Tag.ofCode r.stag) r.b else .none
/-- bind's target, 11 R261. -/
def Raw.bindTarget (r : Raw) : BindTarget := if r.aux.getLsbD 3 then .chan (r.aux.extractLsb' 0 2) else .post r.d

/-- Bytes of an instruction by its len field, 03 R58. -/
def lenBytes (len : BitVec 2) : Nat :=
  match len.toNat with
  | 0 => 4 | 1 => 12 | 2 => 12 | _ => 20

/-- The fields of an instruction, from its entry's encoding table; none for a step of the device, which has no words. -/
def encodeRaw : Instr → Option Raw
  | .add d a b => some { len := 0#2, major := 0x00#6, fn := 1#9, d := d, a := a, b := b }
  | .sub d a b => some { len := 0#2, major := 0x00#6, fn := 2#9, d := d, a := a, b := b }
  | .and d a b => some { len := 0#2, major := 0x00#6, fn := 3#9, d := d, a := a, b := b }
  | .or d a b => some { len := 0#2, major := 0x00#6, fn := 4#9, d := d, a := a, b := b }
  | .xor d a b => some { len := 0#2, major := 0x00#6, fn := 5#9, d := d, a := a, b := b }
  | .andn d a b => some { len := 0#2, major := 0x00#6, fn := 6#9, d := d, a := a, b := b }
  | .sll d a b => some { len := 0#2, major := 0x00#6, fn := 7#9, d := d, a := a, b := b }
  | .srl d a b => some { len := 0#2, major := 0x00#6, fn := 8#9, d := d, a := a, b := b }
  | .sra d a b => some { len := 0#2, major := 0x00#6, fn := 9#9, d := d, a := a, b := b }
  | .addw d a b => some { len := 0#2, major := 0x00#6, fn := 10#9, d := d, a := a, b := b }
  | .subw d a b => some { len := 0#2, major := 0x00#6, fn := 11#9, d := d, a := a, b := b }
  | .min d a b => some { len := 0#2, major := 0x00#6, fn := 12#9, d := d, a := a, b := b }
  | .max d a b => some { len := 0#2, major := 0x00#6, fn := 13#9, d := d, a := a, b := b }
  | .minn d a b => some { len := 0#2, major := 0x00#6, fn := 14#9, d := d, a := a, b := b }
  | .maxn d a b => some { len := 0#2, major := 0x00#6, fn := 15#9, d := d, a := a, b := b }
  | .addi d a imm => some { len := 0#2, major := 0x01#6, d := d, a := a, fn := imm.extractLsb' 5 9, b := imm.extractLsb' 0 5 }
  | .addiLit d a lit => some { len := 1#2, major := 0x01#6, d := d, a := a, lit := lit }
  | .andi d a src => some { len := src.len, major := 0x01#6, fn := 1#9, d := d, a := a, imm := src.immPart, lit := src.litPart }
  | .ori d a src => some { len := src.len, major := 0x01#6, fn := 2#9, d := d, a := a, imm := src.immPart, lit := src.litPart }
  | .xori d a src => some { len := src.len, major := 0x01#6, fn := 3#9, d := d, a := a, imm := src.immPart, lit := src.litPart }
  | .slli d a n => some { len := 2#2, major := 0x01#6, fn := 4#9, d := d, a := a, imm := 0#26 ++ n }
  | .srli d a n => some { len := 2#2, major := 0x01#6, fn := 5#9, d := d, a := a, imm := 0#26 ++ n }
  | .srai d a n => some { len := 2#2, major := 0x01#6, fn := 6#9, d := d, a := a, imm := 0#26 ++ n }
  | .li d imm => some { len := 0#2, major := 0x04#6, d := d, fn := imm.extractLsb' 5 9, b := imm.extractLsb' 0 5 }
  | .liLit d lit => some { len := 1#2, major := 0x04#6, d := d, lit := lit }
  | .mul d a b => some { len := 0#2, major := 0x02#6, fn := 1#9, d := d, a := a, b := b }
  | .mulh d a b => some { len := 0#2, major := 0x02#6, fn := 2#9, d := d, a := a, b := b }
  | .mulhn d a b => some { len := 0#2, major := 0x02#6, fn := 3#9, d := d, a := a, b := b }
  | .div d a b => some { len := 0#2, major := 0x02#6, fn := 4#9, d := d, a := a, b := b }
  | .divn d a b => some { len := 0#2, major := 0x02#6, fn := 5#9, d := d, a := a, b := b }
  | .rem d a b => some { len := 0#2, major := 0x02#6, fn := 6#9, d := d, a := a, b := b }
  | .remn d a b => some { len := 0#2, major := 0x02#6, fn := 7#9, d := d, a := a, b := b }
  | .mulw d a b => some { len := 0#2, major := 0x02#6, fn := 8#9, d := d, a := a, b := b }
  | .divw d a b => some { len := 0#2, major := 0x02#6, fn := 9#9, d := d, a := a, b := b }
  | .remw d a b => some { len := 0#2, major := 0x02#6, fn := 10#9, d := d, a := a, b := b }
  | .clz d a => some { len := 0#2, major := 0x03#6, fn := 1#9, d := d, a := a }
  | .ctz d a => some { len := 0#2, major := 0x03#6, fn := 2#9, d := d, a := a }
  | .popc d a => some { len := 0#2, major := 0x03#6, fn := 3#9, d := d, a := a }
  | .rev8 d a => some { len := 0#2, major := 0x03#6, fn := 4#9, d := d, a := a }
  | .rotl d a b => some { len := 0#2, major := 0x03#6, fn := 5#9, d := d, a := a, b := b }
  | .rotr d a b => some { len := 0#2, major := 0x03#6, fn := 6#9, d := d, a := a, b := b }
  | .bext d a b => some { len := 0#2, major := 0x03#6, fn := 7#9, d := d, a := a, b := b }
  | .bdep d a b => some { len := 0#2, major := 0x03#6, fn := 8#9, d := d, a := a, b := b }
  | .seq d a b => some { len := 0#2, major := 0x05#6, fn := 1#9, d := d, a := a, b := b }
  | .sne d a b => some { len := 0#2, major := 0x05#6, fn := 2#9, d := d, a := a, b := b }
  | .slt d a b => some { len := 0#2, major := 0x05#6, fn := 3#9, d := d, a := a, b := b }
  | .sltn d a b => some { len := 0#2, major := 0x05#6, fn := 4#9, d := d, a := a, b := b }
  | .sel d a b => some { len := 0#2, major := 0x05#6, fn := 5#9, d := d, a := a, b := b }
  | .fadd rm w d a b => some { len := 0#2, major := 0x08#6, d := d, a := a, b := b, fn := rm ++ BitVec.ofBool w ++ 1#6 }
  | .fsub rm w d a b => some { len := 0#2, major := 0x08#6, d := d, a := a, b := b, fn := rm ++ BitVec.ofBool w ++ 2#6 }
  | .fmul rm w d a b => some { len := 0#2, major := 0x08#6, d := d, a := a, b := b, fn := rm ++ BitVec.ofBool w ++ 3#6 }
  | .fdiv rm w d a b => some { len := 0#2, major := 0x08#6, d := d, a := a, b := b, fn := rm ++ BitVec.ofBool w ++ 4#6 }
  | .fsqrt rm w d a => some { len := 0#2, major := 0x08#6, d := d, a := a, fn := rm ++ BitVec.ofBool w ++ 5#6 }
  | .fmin w d a b => some { len := 0#2, major := 0x08#6, d := d, a := a, b := b, fn := 0#2 ++ BitVec.ofBool w ++ 6#6 }
  | .fmax w d a b => some { len := 0#2, major := 0x08#6, d := d, a := a, b := b, fn := 0#2 ++ BitVec.ofBool w ++ 7#6 }
  | .fsgnj w d a b => some { len := 0#2, major := 0x08#6, d := d, a := a, b := b, fn := 0#2 ++ BitVec.ofBool w ++ 8#6 }
  | .fsgnjn w d a b => some { len := 0#2, major := 0x08#6, d := d, a := a, b := b, fn := 0#2 ++ BitVec.ofBool w ++ 9#6 }
  | .ffma rm w d a b c => some { len := 2#2, major := 0x08#6, d := d, a := a, b := b, c := c, fn := rm ++ BitVec.ofBool w ++ 16#6 }
  | .ffms rm w d a b c => some { len := 2#2, major := 0x08#6, d := d, a := a, b := b, c := c, fn := rm ++ BitVec.ofBool w ++ 17#6 }
  | .ffnma rm w d a b c => some { len := 2#2, major := 0x08#6, d := d, a := a, b := b, c := c, fn := rm ++ BitVec.ofBool w ++ 18#6 }
  | .fcvt rm w d a => some { len := 0#2, major := 0x09#6, d := d, a := a, fn := rm ++ BitVec.ofBool w ++ 1#6 }
  | .ftoi rm w d a => some { len := 0#2, major := 0x09#6, d := d, a := a, fn := rm ++ BitVec.ofBool w ++ 2#6 }
  | .ftoiw rm w d a => some { len := 0#2, major := 0x09#6, d := d, a := a, fn := rm ++ BitVec.ofBool w ++ 3#6 }
  | .fton rm w d a => some { len := 0#2, major := 0x09#6, d := d, a := a, fn := rm ++ BitVec.ofBool w ++ 4#6 }
  | .ftonw rm w d a => some { len := 0#2, major := 0x09#6, d := d, a := a, fn := rm ++ BitVec.ofBool w ++ 5#6 }
  | .itof rm w d a => some { len := 0#2, major := 0x09#6, d := d, a := a, fn := rm ++ BitVec.ofBool w ++ 6#6 }
  | .ntof rm w d a => some { len := 0#2, major := 0x09#6, d := d, a := a, fn := rm ++ BitVec.ofBool w ++ 7#6 }
  | .fround rm w d a => some { len := 0#2, major := 0x09#6, d := d, a := a, fn := rm ++ BitVec.ofBool w ++ 8#6 }
  | .fclass w d a => some { len := 0#2, major := 0x09#6, d := d, a := a, fn := 0#2 ++ BitVec.ofBool w ++ 9#6 }
  | .feq w d a b => some { len := 0#2, major := 0x0A#6, d := d, a := a, b := b, fn := 0#2 ++ BitVec.ofBool w ++ 1#6 }
  | .flt w d a b => some { len := 0#2, major := 0x0A#6, d := d, a := a, b := b, fn := 0#2 ++ BitVec.ofBool w ++ 2#6 }
  | .fle w d a b => some { len := 0#2, major := 0x0A#6, d := d, a := a, b := b, fn := 0#2 ++ BitVec.ofBool w ++ 3#6 }
  | .funord w d a b => some { len := 0#2, major := 0x0A#6, d := d, a := a, b := b, fn := 0#2 ++ BitVec.ofBool w ++ 4#6 }
  | .beq a b disp => some { len := 0#2, major := 0x10#6, d := a, a := b, fn := disp.extractLsb' 2 9, b := disp.extractLsb' 0 2 ++ 0#3 }
  | .bne a b disp => some { len := 0#2, major := 0x10#6, d := a, a := b, fn := disp.extractLsb' 2 9, b := disp.extractLsb' 0 2 ++ 1#3 }
  | .blt a b disp => some { len := 0#2, major := 0x10#6, d := a, a := b, fn := disp.extractLsb' 2 9, b := disp.extractLsb' 0 2 ++ 2#3 }
  | .bge a b disp => some { len := 0#2, major := 0x10#6, d := a, a := b, fn := disp.extractLsb' 2 9, b := disp.extractLsb' 0 2 ++ 3#3 }
  | .bltn a b disp => some { len := 0#2, major := 0x10#6, d := a, a := b, fn := disp.extractLsb' 2 9, b := disp.extractLsb' 0 2 ++ 4#3 }
  | .bgen a b disp => some { len := 0#2, major := 0x10#6, d := a, a := b, fn := disp.extractLsb' 2 9, b := disp.extractLsb' 0 2 ++ 5#3 }
  | .bany a b disp => some { len := 0#2, major := 0x10#6, d := a, a := b, fn := disp.extractLsb' 2 9, b := disp.extractLsb' 0 2 ++ 6#3 }
  | .bnone a b disp => some { len := 0#2, major := 0x10#6, d := a, a := b, fn := disp.extractLsb' 2 9, b := disp.extractLsb' 0 2 ++ 7#3 }
  | .j disp => some { len := 0#2, major := 0x11#6, fn := disp.extractLsb' 15 9, b := disp.extractLsb' 10 5, a := disp.extractLsb' 5 5, d := disp.extractLsb' 0 5 }
  | .call n target => some { len := 3#2, major := 0x11#6, fn := 1#9, aux := n, lit := target }
  | .jr a => some { len := 0#2, major := 0x12#6, fn := 1#9, a := a }
  | .callr n a => some { len := 0#2, major := 0x12#6, fn := 2#9, b := 0#1 ++ n, a := a }
  | .ret => some { len := 0#2, major := 0x12#6, fn := 3#9 }
  | .trap a => some { len := 0#2, major := 0x13#6, fn := 1#9, a := a }
  | .tret => some { len := 0#2, major := 0x13#6, fn := 2#9 }
  | .ld d a imm => some { len := 0#2, major := 0x18#6, d := d, a := a, fn := imm.extractLsb' 5 9, b := imm.extractLsb' 0 5 }
  | .ldX t acq scope d a disp => some { len := disp.len, major := 0x18#6, fn := 1#9, dtag := t.code, acq := acq, scope := scope, d := d, a := a, imm := disp.immPart, lit := disp.litPart }
  | .ldIndexed t acq scope d a b sh => some { len := 2#2, major := 0x18#6, fn := 2#9, dtag := t.code, acq := acq, scope := scope, d := d, a := a, b := b, aux := 0#2 ++ sh }
  | .st d a imm => some { len := 0#2, major := 0x19#6, d := d, a := a, fn := imm.extractLsb' 5 9, b := imm.extractLsb' 0 5 }
  | .stX t rel scope d a disp => some { len := disp.len, major := 0x19#6, fn := 1#9, stag := t.code, rel := rel, scope := scope, d := d, a := a, imm := disp.immPart, lit := disp.litPart }
  | .stIndexed t rel scope d a b sh => some { len := 2#2, major := 0x19#6, fn := 2#9, stag := t.code, rel := rel, scope := scope, d := d, a := a, b := b, aux := 0#2 ++ sh }
  | .amoadd t acq rel scope d a b disp => some { len := disp.len, major := 0x1A#6, fn := 1#9, dtag := t.code, acq := acq, rel := rel, scope := scope, d := d, a := a, b := b, imm := disp.immPart, lit := disp.litPart }
  | .amoand t acq rel scope d a b disp => some { len := disp.len, major := 0x1A#6, fn := 2#9, dtag := t.code, acq := acq, rel := rel, scope := scope, d := d, a := a, b := b, imm := disp.immPart, lit := disp.litPart }
  | .amoor t acq rel scope d a b disp => some { len := disp.len, major := 0x1A#6, fn := 3#9, dtag := t.code, acq := acq, rel := rel, scope := scope, d := d, a := a, b := b, imm := disp.immPart, lit := disp.litPart }
  | .amoxor t acq rel scope d a b disp => some { len := disp.len, major := 0x1A#6, fn := 4#9, dtag := t.code, acq := acq, rel := rel, scope := scope, d := d, a := a, b := b, imm := disp.immPart, lit := disp.litPart }
  | .amoswap t acq rel scope d a b disp => some { len := disp.len, major := 0x1A#6, fn := 5#9, dtag := t.code, acq := acq, rel := rel, scope := scope, d := d, a := a, b := b, imm := disp.immPart, lit := disp.litPart }
  | .amocas t acq rel scope d a b c disp => some { len := disp.len, major := 0x1A#6, fn := 6#9, dtag := t.code, acq := acq, rel := rel, scope := scope, d := d, a := a, b := b, c := c, imm := disp.immPart, lit := disp.litPart }
  | .amomin t acq rel scope d a b disp => some { len := disp.len, major := 0x1A#6, fn := 7#9, dtag := t.code, acq := acq, rel := rel, scope := scope, d := d, a := a, b := b, imm := disp.immPart, lit := disp.litPart }
  | .amomax t acq rel scope d a b disp => some { len := disp.len, major := 0x1A#6, fn := 8#9, dtag := t.code, acq := acq, rel := rel, scope := scope, d := d, a := a, b := b, imm := disp.immPart, lit := disp.litPart }
  | .amominn t acq rel scope d a b disp => some { len := disp.len, major := 0x1A#6, fn := 9#9, dtag := t.code, acq := acq, rel := rel, scope := scope, d := d, a := a, b := b, imm := disp.immPart, lit := disp.litPart }
  | .amomaxn t acq rel scope d a b disp => some { len := disp.len, major := 0x1A#6, fn := 10#9, dtag := t.code, acq := acq, rel := rel, scope := scope, d := d, a := a, b := b, imm := disp.immPart, lit := disp.litPart }
  | .amofadd t acq rel scope d a b disp => some { len := disp.len, major := 0x1A#6, fn := 11#9, dtag := t.code, acq := acq, rel := rel, scope := scope, d := d, a := a, b := b, imm := disp.immPart, lit := disp.litPart }
  | .redadd t rel scope a b disp => some { len := disp.len, major := 0x1B#6, fn := 1#9, stag := t.code, rel := rel, scope := scope, a := a, b := b, imm := disp.immPart, lit := disp.litPart }
  | .redmin t rel scope a b disp => some { len := disp.len, major := 0x1B#6, fn := 2#9, stag := t.code, rel := rel, scope := scope, a := a, b := b, imm := disp.immPart, lit := disp.litPart }
  | .redmax t rel scope a b disp => some { len := disp.len, major := 0x1B#6, fn := 3#9, stag := t.code, rel := rel, scope := scope, a := a, b := b, imm := disp.immPart, lit := disp.litPart }
  | .redand t rel scope a b disp => some { len := disp.len, major := 0x1B#6, fn := 4#9, stag := t.code, rel := rel, scope := scope, a := a, b := b, imm := disp.immPart, lit := disp.litPart }
  | .redor t rel scope a b disp => some { len := disp.len, major := 0x1B#6, fn := 5#9, stag := t.code, rel := rel, scope := scope, a := a, b := b, imm := disp.immPart, lit := disp.litPart }
  | .redxor t rel scope a b disp => some { len := disp.len, major := 0x1B#6, fn := 6#9, stag := t.code, rel := rel, scope := scope, a := a, b := b, imm := disp.immPart, lit := disp.litPart }
  | .redfadd t rel scope a b disp => some { len := disp.len, major := 0x1B#6, fn := 7#9, stag := t.code, rel := rel, scope := scope, a := a, b := b, imm := disp.immPart, lit := disp.litPart }
  | .fence acq rel scope => some { len := 2#2, major := 0x1C#6, fn := 1#9, acq := acq, rel := rel, scope := scope }
  | .drainst => some { len := 2#2, major := 0x1C#6, fn := 2#9 }
  | .waitc lim => some { len := 2#2, major := 0x1C#6, fn := 3#9, imm := lim }
  | .nop => some { len := 0#2, major := 0x36#6, fn := 1#9 }
  | .brk => some { len := 0#2, major := 0x36#6, fn := 2#9 }
  | .kpoint => some { len := 0#2, major := 0x36#6, fn := 3#9 }
  | .icinv => some { len := 0#2, major := 0x36#6, fn := 4#9 }
  | .tlbinv a => some { len := 0#2, major := 0x36#6, fn := 5#9, a := a }
  | .srr d n => some { len := 2#2, major := 0x36#6, fn := 6#9, d := d, imm := 0#20 ++ n }
  | .srw a n => some { len := 2#2, major := 0x36#6, fn := 7#9, a := a, imm := 0#20 ++ n }
  | .perfStart group => some { len := 2#2, major := 0x36#6, fn := 8#9, imm := 0#24 ++ group }
  | .perfStop a => some { len := 2#2, major := 0x36#6, fn := 8#9, a := a, aux := 1#4 }
  | .vadd t sc mask d a b => some { len := 2#2, major := 0x20#6, fn := 1#9, stag := t.code, dtag := t.code, aux := 0#3 ++ BitVec.ofBool sc, mask := mask, d := d, a := a, b := b }
  | .vsub t sc mask d a b => some { len := 2#2, major := 0x20#6, fn := 2#9, stag := t.code, dtag := t.code, aux := 0#3 ++ BitVec.ofBool sc, mask := mask, d := d, a := a, b := b }
  | .vmul t sc mask d a b => some { len := 2#2, major := 0x20#6, fn := 3#9, stag := t.code, dtag := t.code, aux := 0#3 ++ BitVec.ofBool sc, mask := mask, d := d, a := a, b := b }
  | .vmulh t sc mask d a b => some { len := 2#2, major := 0x20#6, fn := 4#9, stag := t.code, dtag := t.code, aux := 0#3 ++ BitVec.ofBool sc, mask := mask, d := d, a := a, b := b }
  | .vmin t sc mask d a b => some { len := 2#2, major := 0x20#6, fn := 5#9, stag := t.code, dtag := t.code, aux := 0#3 ++ BitVec.ofBool sc, mask := mask, d := d, a := a, b := b }
  | .vmax t sc mask d a b => some { len := 2#2, major := 0x20#6, fn := 6#9, stag := t.code, dtag := t.code, aux := 0#3 ++ BitVec.ofBool sc, mask := mask, d := d, a := a, b := b }
  | .vand t sc mask d a b => some { len := 2#2, major := 0x20#6, fn := 7#9, stag := t.code, dtag := t.code, aux := 0#3 ++ BitVec.ofBool sc, mask := mask, d := d, a := a, b := b }
  | .vor t sc mask d a b => some { len := 2#2, major := 0x20#6, fn := 8#9, stag := t.code, dtag := t.code, aux := 0#3 ++ BitVec.ofBool sc, mask := mask, d := d, a := a, b := b }
  | .vxor t sc mask d a b => some { len := 2#2, major := 0x20#6, fn := 9#9, stag := t.code, dtag := t.code, aux := 0#3 ++ BitVec.ofBool sc, mask := mask, d := d, a := a, b := b }
  | .vsll t sc mask d a b => some { len := 2#2, major := 0x20#6, fn := 10#9, stag := t.code, dtag := t.code, aux := 0#3 ++ BitVec.ofBool sc, mask := mask, d := d, a := a, b := b }
  | .vsrl t sc mask d a b => some { len := 2#2, major := 0x20#6, fn := 11#9, stag := t.code, dtag := t.code, aux := 0#3 ++ BitVec.ofBool sc, mask := mask, d := d, a := a, b := b }
  | .vsra t sc mask d a b => some { len := 2#2, major := 0x20#6, fn := 12#9, stag := t.code, dtag := t.code, aux := 0#3 ++ BitVec.ofBool sc, mask := mask, d := d, a := a, b := b }
  | .vaddsat t sc mask d a b => some { len := 2#2, major := 0x20#6, fn := 13#9, stag := t.code, dtag := t.code, aux := 0#3 ++ BitVec.ofBool sc, mask := mask, d := d, a := a, b := b }
  | .vsubsat t sc mask d a b => some { len := 2#2, major := 0x20#6, fn := 14#9, stag := t.code, dtag := t.code, aux := 0#3 ++ BitVec.ofBool sc, mask := mask, d := d, a := a, b := b }
  | .vmov t mask d a => some { len := 2#2, major := 0x20#6, fn := 15#9, dtag := t.code, mask := mask, d := d, a := a }
  | .vli t mask d src => some { len := src.len, major := 0x20#6, fn := 16#9, dtag := t.code, mask := mask, d := d, imm := src.immPart, lit := src.litPart }
  | .vfadd rm t sc mask d a b => some { len := 2#2, major := 0x21#6, fn := 1#9, rm := rm, stag := t.code, dtag := t.code, aux := 0#3 ++ BitVec.ofBool sc, mask := mask, d := d, a := a, b := b }
  | .vfsub rm t sc mask d a b => some { len := 2#2, major := 0x21#6, fn := 2#9, rm := rm, stag := t.code, dtag := t.code, aux := 0#3 ++ BitVec.ofBool sc, mask := mask, d := d, a := a, b := b }
  | .vfmul rm t sc mask d a b => some { len := 2#2, major := 0x21#6, fn := 3#9, rm := rm, stag := t.code, dtag := t.code, aux := 0#3 ++ BitVec.ofBool sc, mask := mask, d := d, a := a, b := b }
  | .vfdiv rm t sc mask d a b => some { len := 2#2, major := 0x21#6, fn := 4#9, rm := rm, stag := t.code, dtag := t.code, aux := 0#3 ++ BitVec.ofBool sc, mask := mask, d := d, a := a, b := b }
  | .vffma rm t sc mask d a b c => some { len := 2#2, major := 0x21#6, fn := 5#9, rm := rm, stag := t.code, dtag := t.code, aux := 0#3 ++ BitVec.ofBool sc, mask := mask, d := d, a := a, b := b, c := c }
  | .vfmin t sc mask d a b => some { len := 2#2, major := 0x21#6, fn := 6#9, stag := t.code, dtag := t.code, aux := 0#3 ++ BitVec.ofBool sc, mask := mask, d := d, a := a, b := b }
  | .vfmax t sc mask d a b => some { len := 2#2, major := 0x21#6, fn := 7#9, stag := t.code, dtag := t.code, aux := 0#3 ++ BitVec.ofBool sc, mask := mask, d := d, a := a, b := b }
  | .vfsqrt rm t mask d a => some { len := 2#2, major := 0x21#6, fn := 8#9, rm := rm, stag := t.code, dtag := t.code, mask := mask, d := d, a := a }
  | .vcmpeq t sc mask d a b => some { len := 2#2, major := 0x22#6, fn := 1#9, stag := t.code, aux := 0#3 ++ BitVec.ofBool sc, mask := mask, d := 0#2 ++ d, a := a, b := b }
  | .vcmpne t sc mask d a b => some { len := 2#2, major := 0x22#6, fn := 2#9, stag := t.code, aux := 0#3 ++ BitVec.ofBool sc, mask := mask, d := 0#2 ++ d, a := a, b := b }
  | .vcmplt t sc mask d a b => some { len := 2#2, major := 0x22#6, fn := 3#9, stag := t.code, aux := 0#3 ++ BitVec.ofBool sc, mask := mask, d := 0#2 ++ d, a := a, b := b }
  | .vcmple t sc mask d a b => some { len := 2#2, major := 0x22#6, fn := 4#9, stag := t.code, aux := 0#3 ++ BitVec.ofBool sc, mask := mask, d := 0#2 ++ d, a := a, b := b }
  | .vsel t mask d a b => some { len := 2#2, major := 0x22#6, fn := 5#9, stag := t.code, dtag := t.code, mask := mask, d := d, a := a, b := b }
  | .mand d a b => some { len := 2#2, major := 0x22#6, fn := 6#9, d := 0#2 ++ d, a := 0#2 ++ a, b := 0#2 ++ b }
  | .mor d a b => some { len := 2#2, major := 0x22#6, fn := 7#9, d := 0#2 ++ d, a := 0#2 ++ a, b := 0#2 ++ b }
  | .mandn d a b => some { len := 2#2, major := 0x22#6, fn := 8#9, d := 0#2 ++ d, a := 0#2 ++ a, b := 0#2 ++ b }
  | .mxor d a b => some { len := 2#2, major := 0x22#6, fn := 9#9, d := 0#2 ++ d, a := 0#2 ++ a, b := 0#2 ++ b }
  | .mpop d a => some { len := 2#2, major := 0x22#6, fn := 10#9, d := d, a := 0#2 ++ a }
  | .medge t d a b => some { len := 2#2, major := 0x22#6, fn := 11#9, stag := t.code, d := 0#2 ++ d, a := a, b := b }
  | .vld t acq scope mask d a disp => some { len := disp.len, major := 0x23#6, fn := 1#9, dtag := t.code, acq := acq, scope := scope, mask := mask, d := d, a := a, imm := disp.immPart, lit := disp.litPart }
  | .vst t rel scope mask d a disp => some { len := disp.len, major := 0x23#6, fn := 2#9, stag := t.code, rel := rel, scope := scope, mask := mask, d := d, a := a, imm := disp.immPart, lit := disp.litPart }
  | .vlds t acq scope mask d a b disp => some { len := disp.len, major := 0x23#6, fn := 3#9, dtag := t.code, acq := acq, scope := scope, mask := mask, d := d, a := a, b := b, imm := disp.immPart, lit := disp.litPart }
  | .vsts t rel scope mask d a b disp => some { len := disp.len, major := 0x23#6, fn := 4#9, stag := t.code, rel := rel, scope := scope, mask := mask, d := d, a := a, b := b, imm := disp.immPart, lit := disp.litPart }
  | .vgath t acq scope mask d a b disp sh => some { len := disp.len, major := 0x24#6, fn := 1#9, dtag := t.code, acq := acq, scope := scope, mask := mask, d := d, a := a, b := b, imm := disp.immPart, lit := disp.litPart, aux := 0#2 ++ sh }
  | .vscat t rel scope mask d a b disp sh => some { len := disp.len, major := 0x24#6, fn := 2#9, stag := t.code, rel := rel, scope := scope, mask := mask, d := d, a := a, b := b, imm := disp.immPart, lit := disp.litPart, aux := 0#2 ++ sh }
  | .vperm t mask d a b => some { len := 2#2, major := 0x25#6, fn := 1#9, stag := t.code, dtag := t.code, mask := mask, d := d, a := a, b := b }
  | .vbcast t mask d a => some { len := 2#2, major := 0x25#6, fn := 2#9, dtag := t.code, mask := mask, d := d, a := a }
  | .vslide t mask d a amount => some { len := 2#2, major := 0x25#6, fn := 3#9, stag := t.code, dtag := t.code, mask := mask, d := d, a := a, imm := amount }
  | .vredsum rm t mask d a => some { len := 2#2, major := 0x25#6, fn := 4#9, rm := rm, stag := t.code, mask := mask, d := d, a := a }
  | .vredmin t mask d a => some { len := 2#2, major := 0x25#6, fn := 5#9, stag := t.code, mask := mask, d := d, a := a }
  | .vredmax t mask d a => some { len := 2#2, major := 0x25#6, fn := 6#9, stag := t.code, mask := mask, d := d, a := a }
  | .vext t d a idx => some { len := 2#2, major := 0x25#6, fn := 7#9, stag := t.code, d := d, a := a, imm := idx }
  | .vcvt t rm mask d a p sat => some { len := 2#2, major := 0x26#6, fn := 1#9, dtag := t.code, rm := rm, mask := mask, d := d, a := a, aux := BitVec.ofBool sat ++ p }
  | .tclaim t d br bc => some { len := 2#2, major := 0x28#6, fn := 1#9, dtag := t.code, d := 0#1 ++ d, imm := 0#26 ++ bc ++ br }
  | .tfree a => some { len := 2#2, major := 0x28#6, fn := 2#9, a := 0#1 ++ a }
  | .hmov d a => some { len := 2#2, major := 0x28#6, fn := 3#9, d := 0#1 ++ d, a := 0#1 ++ a }
  | .hsend core k n a => some { len := 2#2, major := 0x28#6, fn := 4#9, b := core, aux := k, d := 0#1 ++ n, a := 0#1 ++ a }
  | .hdup d a => some { len := 2#2, major := 0x28#6, fn := 5#9, d := 0#1 ++ d, a := 0#1 ++ a }
  | .hinfo d a => some { len := 2#2, major := 0x28#6, fn := 6#9, d := d, a := 0#1 ++ a }
  | .kset d v => some { len := 2#2, major := 0x28#6, fn := 7#9, d := 0#1 ++ d, aux := v.aux, a := v.reg', imm := v.immPart }
  | .tld t int4 acq scope d a c disp => some { len := 2#2, major := 0x29#6, fn := 1#9, stag := t.code, aux := 0#3 ++ BitVec.ofBool int4, acq := acq, scope := scope, d := 0#1 ++ d, a := a, c := c, imm := disp }
  | .tst t rel scope d a c rs cs disp => some { len := 2#2, major := 0x29#6, fn := 2#9, stag := t.code, rel := rel, scope := scope, d := 0#1 ++ d, a := a, c := c, e := 0#1 ++ rs, aux := cs, imm := disp }
  | .tmma d a b => some { len := 2#2, major := 0x2A#6, fn := 1#9, d := 0#1 ++ d, a := 0#1 ++ a, b := 0#1 ++ b }
  | .tzero t d => some { len := 2#2, major := 0x2A#6, fn := 2#9, dtag := t.code, d := 0#1 ++ d }
  | .tcvt t rm d a rs cs => some { len := 2#2, major := 0x2A#6, fn := 3#9, dtag := t.code, rm := rm, d := 0#1 ++ d, a := 0#1 ++ a, e := 0#1 ++ rs, aux := cs }
  | .tsplit axis d a b cut => some { len := 2#2, major := 0x2B#6, fn := 1#9, aux := 0#3 ++ BitVec.ofBool axis, d := 0#1 ++ d, a := 0#1 ++ a, b := 0#1 ++ b, imm := 0#29 ++ cut }
  | .trejoin d a b => some { len := 2#2, major := 0x2B#6, fn := 2#9, d := 0#1 ++ d, a := 0#1 ++ a, b := 0#1 ++ b }
  | .c1d acq rel scope d a b c e => some { len := 2#2, major := 0x2C#6, fn := 1#9, acq := acq, rel := rel, scope := scope, d := d, a := a, b := b, c := c, e := e }
  | .c2d acq rel scope d a b c e => some { len := 2#2, major := 0x2C#6, fn := 2#9, acq := acq, rel := rel, scope := scope, d := d, a := a, b := b, c := c, e := e }
  | .c3d acq rel scope d a b c e => some { len := 2#2, major := 0x2C#6, fn := 3#9, acq := acq, rel := rel, scope := scope, d := d, a := a, b := b, c := c, e := e }
  | .ctileLd acq rel scope d a b e => some { len := 2#2, major := 0x2C#6, fn := 4#9, acq := acq, rel := rel, scope := scope, d := d, a := a, b := 0#1 ++ b, e := e }
  | .ctileSt acq rel scope d a b e => some { len := 2#2, major := 0x2C#6, fn := 4#9, acq := acq, rel := rel, scope := scope, d := d, a := a, b := 0#1 ++ b, e := e, aux := 1#4 }
  | .cfill acq rel scope d a b c e => some { len := 2#2, major := 0x2C#6, fn := 5#9, acq := acq, rel := rel, scope := scope, d := d, a := a, b := b, c := c, e := e }
  | .cunseal acq rel scope tile d a b c e => some { len := 2#2, major := 0x2C#6, fn := 6#9, acq := acq, rel := rel, scope := scope, aux := 0#3 ++ BitVec.ofBool tile, d := d, a := a, b := b, c := c, e := e }
  | .cwait a => some { len := 0#2, major := 0x2D#6, fn := 1#9, a := a }
  | .cstat d a => some { len := 0#2, major := 0x2D#6, fn := 2#9, d := d, a := a }
  | .sleepu a slack => some { len := 2#2, major := 0x2D#6, fn := 3#9, a := a, imm := slack }
  | .spawn d a b c e entry n ord => some { len := entry.len, major := 0x2E#6, fn := 1#9, d := d, a := a, b := 0#1 ++ b, c := c, e := e, imm := entry.immPart, lit := entry.litPart, aux := BitVec.ofBool ord ++ n }
  | .start d b c e entry n => some { len := entry.len, major := 0x2E#6, fn := 2#9, d := d, b := 0#1 ++ b, c := c, e := e, imm := entry.immPart, lit := entry.litPart, aux := 0#1 ++ n }
  | .rfork d a b c e entry n => some { len := entry.len, major := 0x2E#6, fn := 3#9, d := d, a := a, b := 0#1 ++ b, c := c, e := e, imm := entry.immPart, lit := entry.litPart, aux := 0#1 ++ n }
  | .exit => some { len := 0#2, major := 0x2F#6, fn := 1#9 }
  | .yield => some { len := 0#2, major := 0x2F#6, fn := 2#9 }
  | .keyset a => some { len := 2#2, major := 0x2F#6, fn := 3#9, a := a }
  | .budset a => some { len := 2#2, major := 0x2F#6, fn := 4#9, a := a }
  | .psend rel scope p a b => some { len := 2#2, major := 0x30#6, fn := 1#9, rel := rel, scope := scope, d := p, a := a, b := b }
  | .csend t rel scope a b q => some { len := 2#2, major := 0x30#6, fn := 2#9, stag := t.code, rel := rel, scope := scope, a := a, b := b, aux := 0#2 ++ q }
  | .bind c e entry tgt ord => some { len := entry.len, major := 0x30#6, fn := 3#9, c := c, e := e, imm := entry.immPart, lit := entry.litPart, aux := BitVec.ofBool tgt.isChan ++ BitVec.ofBool ord ++ tgt.chanPart, d := tgt.postPart }
  | .pwait d p => some { len := 0#2, major := 0x30#6, fn := 4#9, d := d, a := p }
  | .horz d => some { len := 0#2, major := 0x31#6, fn := 1#9, d := d }
  | .getlid d => some { len := 0#2, major := 0x31#6, fn := 2#9, d := d }
  | .gjoin a b => some { len := 2#2, major := 0x32#6, fn := 1#9, a := a, b := b }
  | .gleave a => some { len := 2#2, major := 0x32#6, fn := 2#9, a := a }
  | .barinit a b => some { len := 2#2, major := 0x32#6, fn := 3#9, a := a, b := b }
  | .bararr a => some { len := 2#2, major := 0x32#6, fn := 4#9, a := a }
  | .barwait a => some { len := 2#2, major := 0x32#6, fn := 5#9, a := a }
  | .qinit d a b => some { len := 2#2, major := 0x33#6, fn := 1#9, d := d, a := a, b := b }
  | .qarr a con => some { len := 2#2, major := 0x33#6, fn := 2#9, a := a, aux := con.aux, stag := con.stag, b := con.reg' }
  | .qwait d a => some { len := 2#2, major := 0x33#6, fn := 3#9, d := d, a := a }
  | .qstat d a => some { len := 2#2, major := 0x33#6, fn := 4#9, d := d, a := a }
  | .qrec d a => some { len := 2#2, major := 0x33#6, fn := 5#9, d := d, a := a }
  | .evcfg ord acq rel scope a b c e => some { len := 2#2, major := 0x34#6, fn := 1#9, aux := 0#3 ++ BitVec.ofBool ord, acq := acq, rel := rel, scope := scope, a := a, b := b, c := c, e := e }
  | .evset a b v => some { len := v.len, major := 0x34#6, fn := 2#9, a := a, b := b, aux := v.aux, c := v.reg', imm := v.immPart, lit := v.litPart }
  | .evadd a b v => some { len := v.len, major := 0x34#6, fn := 3#9, a := a, b := b, aux := v.aux, c := v.reg', imm := v.immPart, lit := v.litPart }
  | .evget d a b => some { len := 2#2, major := 0x34#6, fn := 4#9, d := d, a := a, b := b }
  | .evsum d a => some { len := 2#2, major := 0x34#6, fn := 5#9, d := d, a := a }
  | .evnext spawn acq rel scope d a c e => some { len := 2#2, major := 0x35#6, fn := 1#9, aux := 0#3 ++ BitVec.ofBool spawn, acq := acq, rel := rel, scope := scope, d := d, a := a, c := c, e := e }
  | .evsched d a b c e => some { len := 2#2, major := 0x35#6, fn := 2#9, d := d, a := a, b := b, c := c, e := e }
  | .evclkClock d a => some { len := 2#2, major := 0x35#6, fn := 3#9, d := d, a := a }
  | .evclkCount d a => some { len := 2#2, major := 0x35#6, fn := 3#9, d := d, a := a, aux := 1#4 }
  | .evhorBound d a => some { len := 2#2, major := 0x35#6, fn := 4#9, d := d, a := a }
  | .evhorCommit d a => some { len := 2#2, major := 0x35#6, fn := 4#9, d := d, a := a, aux := 1#4 }
  | .evhorStatus d a => some { len := 2#2, major := 0x35#6, fn := 4#9, d := d, a := a, aux := 2#4 }
  | .evlook a b c slot => some { len := 2#2, major := 0x35#6, fn := 5#9, a := a, b := b, c := c, aux := 0#1 ++ slot }
  | .taskDispatch _ => none
  | .postMessageArrival _ => none
  | .channelEntryArrival _ => none
  | .budgetExhausted _ => none
  | .horizonHolderSwitchOut _ => none
  | .horizonUpdate _ => none
  | .commit => none
  | .orderedAbort _ => none
  | .kill _ => none
  | .storePerformed _ _ => none
  | .updateCopyEviction _ => none
  | .replicaApply _ _ => none
  | .pinLift _ => none
  | .sfq64Bound _ => none
  | .copyBeat _ => none
  | .promiseExpiry _ => none
  | .tileComplete _ _ => none
  | .hsendLanded _ => none
  | .barrierRelease _ _ => none
  | .quorumDeadline _ _ => none
  | .deadlinePass _ => none
  | .garnetUpdate _ => none
  | .launchCommit _ _ _ _ => none
  | .launchPlace => none
  | .priorityAging _ => none
  | .sliceExpiry _ => none
  | .preemption _ => none
  | .graceExpiry _ => none
  | .coopHandlerBudgetEnd _ => none
  | .registerCacheSwap _ => none
  | .launchRestore _ => none
  | .launchEnd _ => none
  | .gangReservation _ _ => none
  | .gangGo _ => none
  | .gangStart _ => none
  | .gangCancel _ _ => none
  | .functionLevelReset _ => none
  | .setroot _ _ => none
  | .getcfg _ => none
  | .pfmsg _ => none
  | .mailboxBadop _ => none
  | .pfMailboxAnswer _ _ _ => none
  | .apply _ => none
  | .dissolve _ => none
  | .getVersion _ => none
  | .getCapabilities _ => none
  | .negotiateAlgorithms _ => none
  | .getDigests _ => none
  | .getCertificate _ => none
  | .challenge _ => none
  | .getMeasurements _ => none
  | .keyExchange _ => none
  | .finish _ _ => none
  | .endSession _ _ => none
  | .keySlotLoad _ _ _ _ _ => none
  | .keySlotClear _ _ _ => none
  | .hostRead _ _ _ => none
  | .hostWrite _ _ _ => none
  | .hostAtomicop _ _ _ _ _ _ => none
  | .bar0Write _ _ _ _ => none
  | .tbaseWrite _ _ => none
  | .tsizeWrite _ _ => none
  | .twidxWrite _ _ => none
  | .tridxWrite _ _ => none
  | .traceControlWrite _ _ => none
  | .debuggerAttach => none
  | .debugStop _ => none
  | .debugResume _ _ => none
  | .debugAccess _ _ => none
  | .debuggerKill _ => none
  | .startSequence _ => none
  | .clearstart => none
  | .droopStretch _ => none
  | .stretchRelease _ => none
  | .powerLimitStretch => none
  | .powerLimitRelease => none
  | .softError _ => none
  | .loadReturn _ => none
  | .pfFunctionLevelReset => none

/-- Entries of major 0x00, 03 R73. -/
def pick00 (r : Raw) : Option Instr :=
  match r.fn.toNat with
  | 1 => some (.add (r.d) (r.a) (r.b))
  | 2 => some (.sub (r.d) (r.a) (r.b))
  | 3 => some (.and (r.d) (r.a) (r.b))
  | 4 => some (.or (r.d) (r.a) (r.b))
  | 5 => some (.xor (r.d) (r.a) (r.b))
  | 6 => some (.andn (r.d) (r.a) (r.b))
  | 7 => some (.sll (r.d) (r.a) (r.b))
  | 8 => some (.srl (r.d) (r.a) (r.b))
  | 9 => some (.sra (r.d) (r.a) (r.b))
  | 10 => some (.addw (r.d) (r.a) (r.b))
  | 11 => some (.subw (r.d) (r.a) (r.b))
  | 12 => some (.min (r.d) (r.a) (r.b))
  | 13 => some (.max (r.d) (r.a) (r.b))
  | 14 => some (.minn (r.d) (r.a) (r.b))
  | 15 => some (.maxn (r.d) (r.a) (r.b))
  | _ => none

/-- Entries of major 0x01, 03 R73. -/
def pick01 (r : Raw) : Option Instr :=
  if r.len == 0#2 then some (.addi (r.d) (r.a) (r.imm14))
  else if r.len == 1#2 then some (.addiLit (r.d) (r.a) (r.lit))
  else
    match r.fn.toNat with
    | 1 => some (.andi (r.d) (r.a) (r.src))
    | 2 => some (.ori (r.d) (r.a) (r.src))
    | 3 => some (.xori (r.d) (r.a) (r.src))
    | 4 => some (.slli (r.d) (r.a) (r.imm.extractLsb' 0 6))
    | 5 => some (.srli (r.d) (r.a) (r.imm.extractLsb' 0 6))
    | 6 => some (.srai (r.d) (r.a) (r.imm.extractLsb' 0 6))
    | _ => none

/-- Entries of major 0x02, 03 R73. -/
def pick02 (r : Raw) : Option Instr :=
  match r.fn.toNat with
  | 1 => some (.mul (r.d) (r.a) (r.b))
  | 2 => some (.mulh (r.d) (r.a) (r.b))
  | 3 => some (.mulhn (r.d) (r.a) (r.b))
  | 4 => some (.div (r.d) (r.a) (r.b))
  | 5 => some (.divn (r.d) (r.a) (r.b))
  | 6 => some (.rem (r.d) (r.a) (r.b))
  | 7 => some (.remn (r.d) (r.a) (r.b))
  | 8 => some (.mulw (r.d) (r.a) (r.b))
  | 9 => some (.divw (r.d) (r.a) (r.b))
  | 10 => some (.remw (r.d) (r.a) (r.b))
  | _ => none

/-- Entries of major 0x03, 03 R73. -/
def pick03 (r : Raw) : Option Instr :=
  match r.fn.toNat with
  | 1 => some (.clz (r.d) (r.a))
  | 2 => some (.ctz (r.d) (r.a))
  | 3 => some (.popc (r.d) (r.a))
  | 4 => some (.rev8 (r.d) (r.a))
  | 5 => some (.rotl (r.d) (r.a) (r.b))
  | 6 => some (.rotr (r.d) (r.a) (r.b))
  | 7 => some (.bext (r.d) (r.a) (r.b))
  | 8 => some (.bdep (r.d) (r.a) (r.b))
  | _ => none

/-- Entries of major 0x04, 03 R73. -/
def pick04 (r : Raw) : Option Instr :=
  if r.len == 0#2 then some (.li (r.d) (r.imm14))
  else if r.len == 1#2 then some (.liLit (r.d) (r.lit))
  else none

/-- Entries of major 0x05, 03 R73. -/
def pick05 (r : Raw) : Option Instr :=
  match r.fn.toNat with
  | 1 => some (.seq (r.d) (r.a) (r.b))
  | 2 => some (.sne (r.d) (r.a) (r.b))
  | 3 => some (.slt (r.d) (r.a) (r.b))
  | 4 => some (.sltn (r.d) (r.a) (r.b))
  | 5 => some (.sel (r.d) (r.a) (r.b))
  | _ => none

/-- Entries of major 0x08, 03 R73. -/
def pick08 (r : Raw) : Option Instr :=
  match (r.fn.extractLsb' 0 6).toNat with
  | 1 => some (.fadd (r.fn.extractLsb' 7 2) (r.fn.getLsbD 6) (r.d) (r.a) (r.b))
  | 2 => some (.fsub (r.fn.extractLsb' 7 2) (r.fn.getLsbD 6) (r.d) (r.a) (r.b))
  | 3 => some (.fmul (r.fn.extractLsb' 7 2) (r.fn.getLsbD 6) (r.d) (r.a) (r.b))
  | 4 => some (.fdiv (r.fn.extractLsb' 7 2) (r.fn.getLsbD 6) (r.d) (r.a) (r.b))
  | 5 => some (.fsqrt (r.fn.extractLsb' 7 2) (r.fn.getLsbD 6) (r.d) (r.a))
  | 6 => some (.fmin (r.fn.getLsbD 6) (r.d) (r.a) (r.b))
  | 7 => some (.fmax (r.fn.getLsbD 6) (r.d) (r.a) (r.b))
  | 8 => some (.fsgnj (r.fn.getLsbD 6) (r.d) (r.a) (r.b))
  | 9 => some (.fsgnjn (r.fn.getLsbD 6) (r.d) (r.a) (r.b))
  | 16 => some (.ffma (r.fn.extractLsb' 7 2) (r.fn.getLsbD 6) (r.d) (r.a) (r.b) (r.c))
  | 17 => some (.ffms (r.fn.extractLsb' 7 2) (r.fn.getLsbD 6) (r.d) (r.a) (r.b) (r.c))
  | 18 => some (.ffnma (r.fn.extractLsb' 7 2) (r.fn.getLsbD 6) (r.d) (r.a) (r.b) (r.c))
  | _ => none

/-- Entries of major 0x09, 03 R73. -/
def pick09 (r : Raw) : Option Instr :=
  match (r.fn.extractLsb' 0 6).toNat with
  | 1 => some (.fcvt (r.fn.extractLsb' 7 2) (r.fn.getLsbD 6) (r.d) (r.a))
  | 2 => some (.ftoi (r.fn.extractLsb' 7 2) (r.fn.getLsbD 6) (r.d) (r.a))
  | 3 => some (.ftoiw (r.fn.extractLsb' 7 2) (r.fn.getLsbD 6) (r.d) (r.a))
  | 4 => some (.fton (r.fn.extractLsb' 7 2) (r.fn.getLsbD 6) (r.d) (r.a))
  | 5 => some (.ftonw (r.fn.extractLsb' 7 2) (r.fn.getLsbD 6) (r.d) (r.a))
  | 6 => some (.itof (r.fn.extractLsb' 7 2) (r.fn.getLsbD 6) (r.d) (r.a))
  | 7 => some (.ntof (r.fn.extractLsb' 7 2) (r.fn.getLsbD 6) (r.d) (r.a))
  | 8 => some (.fround (r.fn.extractLsb' 7 2) (r.fn.getLsbD 6) (r.d) (r.a))
  | 9 => some (.fclass (r.fn.getLsbD 6) (r.d) (r.a))
  | _ => none

/-- Entries of major 0x0A, 03 R73. -/
def pick0A (r : Raw) : Option Instr :=
  match (r.fn.extractLsb' 0 6).toNat with
  | 1 => some (.feq (r.fn.getLsbD 6) (r.d) (r.a) (r.b))
  | 2 => some (.flt (r.fn.getLsbD 6) (r.d) (r.a) (r.b))
  | 3 => some (.fle (r.fn.getLsbD 6) (r.d) (r.a) (r.b))
  | 4 => some (.funord (r.fn.getLsbD 6) (r.d) (r.a) (r.b))
  | _ => none

/-- Entries of major 0x10, 03 R73. -/
def pick10 (r : Raw) : Option Instr :=
  match (r.b.extractLsb' 0 3).toNat with
  | 0 => some (.beq (r.d) (r.a) (r.disp11))
  | 1 => some (.bne (r.d) (r.a) (r.disp11))
  | 2 => some (.blt (r.d) (r.a) (r.disp11))
  | 3 => some (.bge (r.d) (r.a) (r.disp11))
  | 4 => some (.bltn (r.d) (r.a) (r.disp11))
  | 5 => some (.bgen (r.d) (r.a) (r.disp11))
  | 6 => some (.bany (r.d) (r.a) (r.disp11))
  | 7 => some (.bnone (r.d) (r.a) (r.disp11))
  | _ => none

/-- Entries of major 0x11, 03 R73. -/
def pick11 (r : Raw) : Option Instr :=
  if r.len == 0#2 then some (.j (r.disp24))
  else
    match r.fn.toNat with
    | 1 => some (.call (r.aux) (r.lit))
    | _ => none

/-- Entries of major 0x12, 03 R73. -/
def pick12 (r : Raw) : Option Instr :=
  match r.fn.toNat with
  | 1 => some (.jr (r.a))
  | 2 => some (.callr (r.b.extractLsb' 0 4) (r.a))
  | 3 => some (.ret )
  | _ => none

/-- Entries of major 0x13, 03 R73. -/
def pick13 (r : Raw) : Option Instr :=
  match r.fn.toNat with
  | 1 => some (.trap (r.a))
  | 2 => some (.tret )
  | _ => none

/-- Entries of major 0x18, 03 R73. -/
def pick18 (r : Raw) : Option Instr :=
  if r.len == 0#2 then some (.ld (r.d) (r.a) (r.imm14))
  else
    match r.fn.toNat with
    | 1 => some (.ldX (Tag.ofCode r.dtag) (r.acq) (r.scope) (r.d) (r.a) (r.src))
    | 2 => some (.ldIndexed (Tag.ofCode r.dtag) (r.acq) (r.scope) (r.d) (r.a) (r.b) (r.aux.extractLsb' 0 2))
    | _ => none

/-- Entries of major 0x19, 03 R73. -/
def pick19 (r : Raw) : Option Instr :=
  if r.len == 0#2 then some (.st (r.d) (r.a) (r.imm14))
  else
    match r.fn.toNat with
    | 1 => some (.stX (Tag.ofCode r.stag) (r.rel) (r.scope) (r.d) (r.a) (r.src))
    | 2 => some (.stIndexed (Tag.ofCode r.stag) (r.rel) (r.scope) (r.d) (r.a) (r.b) (r.aux.extractLsb' 0 2))
    | _ => none

/-- Entries of major 0x1A, 03 R73. -/
def pick1A (r : Raw) : Option Instr :=
  match r.fn.toNat with
  | 1 => some (.amoadd (Tag.ofCode r.dtag) (r.acq) (r.rel) (r.scope) (r.d) (r.a) (r.b) (r.src))
  | 2 => some (.amoand (Tag.ofCode r.dtag) (r.acq) (r.rel) (r.scope) (r.d) (r.a) (r.b) (r.src))
  | 3 => some (.amoor (Tag.ofCode r.dtag) (r.acq) (r.rel) (r.scope) (r.d) (r.a) (r.b) (r.src))
  | 4 => some (.amoxor (Tag.ofCode r.dtag) (r.acq) (r.rel) (r.scope) (r.d) (r.a) (r.b) (r.src))
  | 5 => some (.amoswap (Tag.ofCode r.dtag) (r.acq) (r.rel) (r.scope) (r.d) (r.a) (r.b) (r.src))
  | 6 => some (.amocas (Tag.ofCode r.dtag) (r.acq) (r.rel) (r.scope) (r.d) (r.a) (r.b) (r.c) (r.src))
  | 7 => some (.amomin (Tag.ofCode r.dtag) (r.acq) (r.rel) (r.scope) (r.d) (r.a) (r.b) (r.src))
  | 8 => some (.amomax (Tag.ofCode r.dtag) (r.acq) (r.rel) (r.scope) (r.d) (r.a) (r.b) (r.src))
  | 9 => some (.amominn (Tag.ofCode r.dtag) (r.acq) (r.rel) (r.scope) (r.d) (r.a) (r.b) (r.src))
  | 10 => some (.amomaxn (Tag.ofCode r.dtag) (r.acq) (r.rel) (r.scope) (r.d) (r.a) (r.b) (r.src))
  | 11 => some (.amofadd (Tag.ofCode r.dtag) (r.acq) (r.rel) (r.scope) (r.d) (r.a) (r.b) (r.src))
  | _ => none

/-- Entries of major 0x1B, 03 R73. -/
def pick1B (r : Raw) : Option Instr :=
  match r.fn.toNat with
  | 1 => some (.redadd (Tag.ofCode r.stag) (r.rel) (r.scope) (r.a) (r.b) (r.src))
  | 2 => some (.redmin (Tag.ofCode r.stag) (r.rel) (r.scope) (r.a) (r.b) (r.src))
  | 3 => some (.redmax (Tag.ofCode r.stag) (r.rel) (r.scope) (r.a) (r.b) (r.src))
  | 4 => some (.redand (Tag.ofCode r.stag) (r.rel) (r.scope) (r.a) (r.b) (r.src))
  | 5 => some (.redor (Tag.ofCode r.stag) (r.rel) (r.scope) (r.a) (r.b) (r.src))
  | 6 => some (.redxor (Tag.ofCode r.stag) (r.rel) (r.scope) (r.a) (r.b) (r.src))
  | 7 => some (.redfadd (Tag.ofCode r.stag) (r.rel) (r.scope) (r.a) (r.b) (r.src))
  | _ => none

/-- Entries of major 0x1C, 03 R73. -/
def pick1C (r : Raw) : Option Instr :=
  match r.fn.toNat with
  | 1 => some (.fence (r.acq) (r.rel) (r.scope))
  | 2 => some (.drainst )
  | 3 => some (.waitc (r.imm))
  | _ => none

/-- Entries of major 0x20, 03 R73. -/
def pick20 (r : Raw) : Option Instr :=
  match r.fn.toNat with
  | 1 => some (.vadd (Tag.ofCode r.dtag) (r.aux.getLsbD 0) (r.mask) (r.d) (r.a) (r.b))
  | 2 => some (.vsub (Tag.ofCode r.dtag) (r.aux.getLsbD 0) (r.mask) (r.d) (r.a) (r.b))
  | 3 => some (.vmul (Tag.ofCode r.dtag) (r.aux.getLsbD 0) (r.mask) (r.d) (r.a) (r.b))
  | 4 => some (.vmulh (Tag.ofCode r.dtag) (r.aux.getLsbD 0) (r.mask) (r.d) (r.a) (r.b))
  | 5 => some (.vmin (Tag.ofCode r.dtag) (r.aux.getLsbD 0) (r.mask) (r.d) (r.a) (r.b))
  | 6 => some (.vmax (Tag.ofCode r.dtag) (r.aux.getLsbD 0) (r.mask) (r.d) (r.a) (r.b))
  | 7 => some (.vand (Tag.ofCode r.dtag) (r.aux.getLsbD 0) (r.mask) (r.d) (r.a) (r.b))
  | 8 => some (.vor (Tag.ofCode r.dtag) (r.aux.getLsbD 0) (r.mask) (r.d) (r.a) (r.b))
  | 9 => some (.vxor (Tag.ofCode r.dtag) (r.aux.getLsbD 0) (r.mask) (r.d) (r.a) (r.b))
  | 10 => some (.vsll (Tag.ofCode r.dtag) (r.aux.getLsbD 0) (r.mask) (r.d) (r.a) (r.b))
  | 11 => some (.vsrl (Tag.ofCode r.dtag) (r.aux.getLsbD 0) (r.mask) (r.d) (r.a) (r.b))
  | 12 => some (.vsra (Tag.ofCode r.dtag) (r.aux.getLsbD 0) (r.mask) (r.d) (r.a) (r.b))
  | 13 => some (.vaddsat (Tag.ofCode r.dtag) (r.aux.getLsbD 0) (r.mask) (r.d) (r.a) (r.b))
  | 14 => some (.vsubsat (Tag.ofCode r.dtag) (r.aux.getLsbD 0) (r.mask) (r.d) (r.a) (r.b))
  | 15 => some (.vmov (Tag.ofCode r.dtag) (r.mask) (r.d) (r.a))
  | 16 => some (.vli (Tag.ofCode r.dtag) (r.mask) (r.d) (r.src))
  | _ => none

/-- Entries of major 0x21, 03 R73. -/
def pick21 (r : Raw) : Option Instr :=
  match r.fn.toNat with
  | 1 => some (.vfadd (r.rm) (Tag.ofCode r.dtag) (r.aux.getLsbD 0) (r.mask) (r.d) (r.a) (r.b))
  | 2 => some (.vfsub (r.rm) (Tag.ofCode r.dtag) (r.aux.getLsbD 0) (r.mask) (r.d) (r.a) (r.b))
  | 3 => some (.vfmul (r.rm) (Tag.ofCode r.dtag) (r.aux.getLsbD 0) (r.mask) (r.d) (r.a) (r.b))
  | 4 => some (.vfdiv (r.rm) (Tag.ofCode r.dtag) (r.aux.getLsbD 0) (r.mask) (r.d) (r.a) (r.b))
  | 5 => some (.vffma (r.rm) (Tag.ofCode r.dtag) (r.aux.getLsbD 0) (r.mask) (r.d) (r.a) (r.b) (r.c))
  | 6 => some (.vfmin (Tag.ofCode r.dtag) (r.aux.getLsbD 0) (r.mask) (r.d) (r.a) (r.b))
  | 7 => some (.vfmax (Tag.ofCode r.dtag) (r.aux.getLsbD 0) (r.mask) (r.d) (r.a) (r.b))
  | 8 => some (.vfsqrt (r.rm) (Tag.ofCode r.dtag) (r.mask) (r.d) (r.a))
  | _ => none

/-- Entries of major 0x22, 03 R73. -/
def pick22 (r : Raw) : Option Instr :=
  match r.fn.toNat with
  | 1 => some (.vcmpeq (Tag.ofCode r.stag) (r.aux.getLsbD 0) (r.mask) (r.d.extractLsb' 0 3) (r.a) (r.b))
  | 2 => some (.vcmpne (Tag.ofCode r.stag) (r.aux.getLsbD 0) (r.mask) (r.d.extractLsb' 0 3) (r.a) (r.b))
  | 3 => some (.vcmplt (Tag.ofCode r.stag) (r.aux.getLsbD 0) (r.mask) (r.d.extractLsb' 0 3) (r.a) (r.b))
  | 4 => some (.vcmple (Tag.ofCode r.stag) (r.aux.getLsbD 0) (r.mask) (r.d.extractLsb' 0 3) (r.a) (r.b))
  | 5 => some (.vsel (Tag.ofCode r.dtag) (r.mask) (r.d) (r.a) (r.b))
  | 6 => some (.mand (r.d.extractLsb' 0 3) (r.a.extractLsb' 0 3) (r.b.extractLsb' 0 3))
  | 7 => some (.mor (r.d.extractLsb' 0 3) (r.a.extractLsb' 0 3) (r.b.extractLsb' 0 3))
  | 8 => some (.mandn (r.d.extractLsb' 0 3) (r.a.extractLsb' 0 3) (r.b.extractLsb' 0 3))
  | 9 => some (.mxor (r.d.extractLsb' 0 3) (r.a.extractLsb' 0 3) (r.b.extractLsb' 0 3))
  | 10 => some (.mpop (r.d) (r.a.extractLsb' 0 3))
  | 11 => some (.medge (Tag.ofCode r.stag) (r.d.extractLsb' 0 3) (r.a) (r.b))
  | _ => none

/-- Entries of major 0x23, 03 R73. -/
def pick23 (r : Raw) : Option Instr :=
  match r.fn.toNat with
  | 1 => some (.vld (Tag.ofCode r.dtag) (r.acq) (r.scope) (r.mask) (r.d) (r.a) (r.src))
  | 2 => some (.vst (Tag.ofCode r.stag) (r.rel) (r.scope) (r.mask) (r.d) (r.a) (r.src))
  | 3 => some (.vlds (Tag.ofCode r.dtag) (r.acq) (r.scope) (r.mask) (r.d) (r.a) (r.b) (r.src))
  | 4 => some (.vsts (Tag.ofCode r.stag) (r.rel) (r.scope) (r.mask) (r.d) (r.a) (r.b) (r.src))
  | _ => none

/-- Entries of major 0x24, 03 R73. -/
def pick24 (r : Raw) : Option Instr :=
  match r.fn.toNat with
  | 1 => some (.vgath (Tag.ofCode r.dtag) (r.acq) (r.scope) (r.mask) (r.d) (r.a) (r.b) (r.src) (r.aux.extractLsb' 0 2))
  | 2 => some (.vscat (Tag.ofCode r.stag) (r.rel) (r.scope) (r.mask) (r.d) (r.a) (r.b) (r.src) (r.aux.extractLsb' 0 2))
  | _ => none

/-- Entries of major 0x25, 03 R73. -/
def pick25 (r : Raw) : Option Instr :=
  match r.fn.toNat with
  | 1 => some (.vperm (Tag.ofCode r.dtag) (r.mask) (r.d) (r.a) (r.b))
  | 2 => some (.vbcast (Tag.ofCode r.dtag) (r.mask) (r.d) (r.a))
  | 3 => some (.vslide (Tag.ofCode r.dtag) (r.mask) (r.d) (r.a) (r.imm))
  | 4 => some (.vredsum (r.rm) (Tag.ofCode r.stag) (r.mask) (r.d) (r.a))
  | 5 => some (.vredmin (Tag.ofCode r.stag) (r.mask) (r.d) (r.a))
  | 6 => some (.vredmax (Tag.ofCode r.stag) (r.mask) (r.d) (r.a))
  | 7 => some (.vext (Tag.ofCode r.stag) (r.d) (r.a) (r.imm))
  | _ => none

/-- Entries of major 0x26, 03 R73. -/
def pick26 (r : Raw) : Option Instr :=
  match r.fn.toNat with
  | 1 => some (.vcvt (Tag.ofCode r.dtag) (r.rm) (r.mask) (r.d) (r.a) (r.aux.extractLsb' 0 3) (r.aux.getLsbD 3))
  | _ => none

/-- Entries of major 0x28, 03 R73. -/
def pick28 (r : Raw) : Option Instr :=
  match r.fn.toNat with
  | 1 => some (.tclaim (Tag.ofCode r.dtag) (r.d.extractLsb' 0 4) (r.imm.extractLsb' 0 3) (r.imm.extractLsb' 3 3))
  | 2 => some (.tfree (r.a.extractLsb' 0 4))
  | 3 => some (.hmov (r.d.extractLsb' 0 4) (r.a.extractLsb' 0 4))
  | 4 => some (.hsend (r.b) (r.aux) (r.d.extractLsb' 0 4) (r.a.extractLsb' 0 4))
  | 5 => some (.hdup (r.d.extractLsb' 0 4) (r.a.extractLsb' 0 4))
  | 6 => some (.hinfo (r.d) (r.a.extractLsb' 0 4))
  | 7 => some (.kset (r.d.extractLsb' 0 4) (r.scaleSrc))
  | _ => none

/-- Entries of major 0x29, 03 R73. -/
def pick29 (r : Raw) : Option Instr :=
  match r.fn.toNat with
  | 1 => some (.tld (Tag.ofCode r.stag) (r.aux.getLsbD 0) (r.acq) (r.scope) (r.d.extractLsb' 0 4) (r.a) (r.c) (r.imm))
  | 2 => some (.tst (Tag.ofCode r.stag) (r.rel) (r.scope) (r.d.extractLsb' 0 4) (r.a) (r.c) (r.e.extractLsb' 0 4) (r.aux) (r.imm))
  | _ => none

/-- Entries of major 0x2A, 03 R73. -/
def pick2A (r : Raw) : Option Instr :=
  match r.fn.toNat with
  | 1 => some (.tmma (r.d.extractLsb' 0 4) (r.a.extractLsb' 0 4) (r.b.extractLsb' 0 4))
  | 2 => some (.tzero (Tag.ofCode r.dtag) (r.d.extractLsb' 0 4))
  | 3 => some (.tcvt (Tag.ofCode r.dtag) (r.rm) (r.d.extractLsb' 0 4) (r.a.extractLsb' 0 4) (r.e.extractLsb' 0 4) (r.aux))
  | _ => none

/-- Entries of major 0x2B, 03 R73. -/
def pick2B (r : Raw) : Option Instr :=
  match r.fn.toNat with
  | 1 => some (.tsplit (r.aux.getLsbD 0) (r.d.extractLsb' 0 4) (r.a.extractLsb' 0 4) (r.b.extractLsb' 0 4) (r.imm.extractLsb' 0 3))
  | 2 => some (.trejoin (r.d.extractLsb' 0 4) (r.a.extractLsb' 0 4) (r.b.extractLsb' 0 4))
  | _ => none

/-- Entries of major 0x2C, 03 R73. -/
def pick2C (r : Raw) : Option Instr :=
  match r.fn.toNat with
  | 1 => some (.c1d (r.acq) (r.rel) (r.scope) (r.d) (r.a) (r.b) (r.c) (r.e))
  | 2 => some (.c2d (r.acq) (r.rel) (r.scope) (r.d) (r.a) (r.b) (r.c) (r.e))
  | 3 => some (.c3d (r.acq) (r.rel) (r.scope) (r.d) (r.a) (r.b) (r.c) (r.e))
  | 4 => if r.aux == 0#4 then some (.ctileLd (r.acq) (r.rel) (r.scope) (r.d) (r.a) (r.b.extractLsb' 0 4) (r.e)) else some (.ctileSt (r.acq) (r.rel) (r.scope) (r.d) (r.a) (r.b.extractLsb' 0 4) (r.e))
  | 5 => some (.cfill (r.acq) (r.rel) (r.scope) (r.d) (r.a) (r.b) (r.c) (r.e))
  | 6 => some (.cunseal (r.acq) (r.rel) (r.scope) (r.aux.getLsbD 0) (r.d) (r.a) (r.b) (r.c) (r.e))
  | _ => none

/-- Entries of major 0x2D, 03 R73. -/
def pick2D (r : Raw) : Option Instr :=
  match r.fn.toNat with
  | 1 => some (.cwait (r.a))
  | 2 => some (.cstat (r.d) (r.a))
  | 3 => some (.sleepu (r.a) (r.imm))
  | _ => none

/-- Entries of major 0x2E, 03 R73. -/
def pick2E (r : Raw) : Option Instr :=
  match r.fn.toNat with
  | 1 => some (.spawn (r.d) (r.a) (r.b.extractLsb' 0 4) (r.c) (r.e) (r.src) (r.aux.extractLsb' 0 3) (r.aux.getLsbD 3))
  | 2 => some (.start (r.d) (r.b.extractLsb' 0 4) (r.c) (r.e) (r.src) (r.aux.extractLsb' 0 3))
  | 3 => some (.rfork (r.d) (r.a) (r.b.extractLsb' 0 4) (r.c) (r.e) (r.src) (r.aux.extractLsb' 0 3))
  | _ => none

/-- Entries of major 0x2F, 03 R73. -/
def pick2F (r : Raw) : Option Instr :=
  match r.fn.toNat with
  | 1 => some (.exit )
  | 2 => some (.yield )
  | 3 => some (.keyset (r.a))
  | 4 => some (.budset (r.a))
  | _ => none

/-- Entries of major 0x30, 03 R73. -/
def pick30 (r : Raw) : Option Instr :=
  match r.fn.toNat with
  | 1 => some (.psend (r.rel) (r.scope) (r.d) (r.a) (r.b))
  | 2 => some (.csend (Tag.ofCode r.stag) (r.rel) (r.scope) (r.a) (r.b) (r.aux.extractLsb' 0 2))
  | 3 => some (.bind (r.c) (r.e) (r.src) (r.bindTarget) (r.aux.getLsbD 2))
  | 4 => some (.pwait (r.d) (r.a))
  | _ => none

/-- Entries of major 0x31, 03 R73. -/
def pick31 (r : Raw) : Option Instr :=
  match r.fn.toNat with
  | 1 => some (.horz (r.d))
  | 2 => some (.getlid (r.d))
  | _ => none

/-- Entries of major 0x32, 03 R73. -/
def pick32 (r : Raw) : Option Instr :=
  match r.fn.toNat with
  | 1 => some (.gjoin (r.a) (r.b))
  | 2 => some (.gleave (r.a))
  | 3 => some (.barinit (r.a) (r.b))
  | 4 => some (.bararr (r.a))
  | 5 => some (.barwait (r.a))
  | _ => none

/-- Entries of major 0x33, 03 R73. -/
def pick33 (r : Raw) : Option Instr :=
  match r.fn.toNat with
  | 1 => some (.qinit (r.d) (r.a) (r.b))
  | 2 => some (.qarr (r.a) (r.contribution))
  | 3 => some (.qwait (r.d) (r.a))
  | 4 => some (.qstat (r.d) (r.a))
  | 5 => some (.qrec (r.d) (r.a))
  | _ => none

/-- Entries of major 0x34, 03 R73. -/
def pick34 (r : Raw) : Option Instr :=
  match r.fn.toNat with
  | 1 => some (.evcfg (r.aux.getLsbD 0) (r.acq) (r.rel) (r.scope) (r.a) (r.b) (r.c) (r.e))
  | 2 => some (.evset (r.a) (r.b) (r.leafSrc))
  | 3 => some (.evadd (r.a) (r.b) (r.leafSrc))
  | 4 => some (.evget (r.d) (r.a) (r.b))
  | 5 => some (.evsum (r.d) (r.a))
  | _ => none

/-- Entries of major 0x35, 03 R73. -/
def pick35 (r : Raw) : Option Instr :=
  match r.fn.toNat with
  | 1 => some (.evnext (r.aux.getLsbD 0) (r.acq) (r.rel) (r.scope) (r.d) (r.a) (r.c) (r.e))
  | 2 => some (.evsched (r.d) (r.a) (r.b) (r.c) (r.e))
  | 3 => if r.aux == 0#4 then some (.evclkClock (r.d) (r.a)) else some (.evclkCount (r.d) (r.a))
  | 4 => if r.aux == 0#4 then some (.evhorBound (r.d) (r.a)) else if r.aux == 1#4 then some (.evhorCommit (r.d) (r.a)) else some (.evhorStatus (r.d) (r.a))
  | 5 => some (.evlook (r.a) (r.b) (r.c) (r.aux.extractLsb' 0 3))
  | _ => none

/-- Entries of major 0x36, 03 R73. -/
def pick36 (r : Raw) : Option Instr :=
  match r.fn.toNat with
  | 1 => some (.nop )
  | 2 => some (.brk )
  | 3 => some (.kpoint )
  | 4 => some (.icinv )
  | 5 => some (.tlbinv (r.a))
  | 6 => some (.srr (r.d) (r.imm.extractLsb' 0 12))
  | 7 => some (.srw (r.a) (r.imm.extractLsb' 0 12))
  | 8 => if r.aux == 0#4 then some (.perfStart (r.imm.extractLsb' 0 8)) else some (.perfStop (r.a))
  | _ => none

/-- The entry that the major selects (03 R70), its operands read. -/
def pick (r : Raw) : Option Instr :=
  match r.major.toNat with
  | 0 => pick00 r
  | 1 => pick01 r
  | 2 => pick02 r
  | 3 => pick03 r
  | 4 => pick04 r
  | 5 => pick05 r
  | 8 => pick08 r
  | 9 => pick09 r
  | 10 => pick0A r
  | 16 => pick10 r
  | 17 => pick11 r
  | 18 => pick12 r
  | 19 => pick13 r
  | 24 => pick18 r
  | 25 => pick19 r
  | 26 => pick1A r
  | 27 => pick1B r
  | 28 => pick1C r
  | 32 => pick20 r
  | 33 => pick21 r
  | 34 => pick22 r
  | 35 => pick23 r
  | 36 => pick24 r
  | 37 => pick25 r
  | 38 => pick26 r
  | 40 => pick28 r
  | 41 => pick29 r
  | 42 => pick2A r
  | 43 => pick2B r
  | 44 => pick2C r
  | 45 => pick2D r
  | 46 => pick2E r
  | 47 => pick2F r
  | 48 => pick30 r
  | 49 => pick31 r
  | 50 => pick32 r
  | 51 => pick33 r
  | 52 => pick34 r
  | 53 => pick35 r
  | 54 => pick36 r
  | _ => none

/-- Decode the fields: the entry's operands are admitted and every other field is 0 (03 R65, R66, R69, R77). -/
def decodeRaw (r : Raw) : Option Instr :=
  match pick r with
  | some i => if i.wf && decide (encodeRaw i = some r) then some i else none
  | none => none

/-- Whether major and len are a pair that the opcode map assigns (03 R70). A first word without is illegal
before any further word is fetched. -/
def headOk (w : BitVec 32) : Bool :=
  let len := (w.extractLsb' 0 2).toNat
  let mj := (w.extractLsb' 2 6).toNat
  if mj == 0x00 || mj == 0x02 || mj == 0x03 || mj == 0x05 || mj == 0x09 || mj == 0x0A || mj == 0x10 || mj == 0x12 || mj == 0x13 then len == 0
  else if mj == 0x01 then true
  else if mj == 0x04 then len ≤ 1
  else if mj == 0x08 || mj == 0x36 then len == 0 || len == 2
  else if mj == 0x11 then len == 0 || len == 3
  else if mj == 0x18 || mj == 0x19 then len != 1
  else if mj == 0x1A || mj == 0x1B || mj == 0x34 || mj == 0x35 then 2 ≤ len
  else if mj == 0x1C || mj == 0x32 || mj == 0x33 then len == 2
  else if 0x20 ≤ mj && mj ≤ 0x26 then 2 ≤ len
  else if 0x28 ≤ mj && mj ≤ 0x2B then len == 2
  else if 0x2C ≤ mj && mj ≤ 0x31 then len != 1
  else false

/-- Why bytes are not an instruction. -/
inductive DecodeError where
  /-- fewer bytes than the length field asks for -/
  | truncated
  /-- an illegal instruction (03 R77) -/
  | illegal (firstWord : BitVec 32)
deriving DecidableEq, Repr

/-- A 32-bit word from four bytes, little-endian (03 R59). -/
def word32 (b0 b1 b2 b3 : BitVec 8) : BitVec 32 := b3 ++ b2 ++ b1 ++ b0

/-- Decode instruction words (03 R58, R59): the literal word follows the words of its form. -/
def decodeWords (w0 : BitVec 32) (ws : List (BitVec 32)) : Option Instr :=
  let r := Raw.ofWord0 w0
  match (w0.extractLsb' 0 2).toNat, ws with
  | 0, _ => decodeRaw r
  | 1, l0 :: l1 :: _ => decodeRaw { r with lit := l1 ++ l0 }
  | 2, w1 :: w2 :: _ => decodeRaw (r.withX w1 w2)
  | 3, w1 :: w2 :: l0 :: l1 :: _ => decodeRaw { r.withX w1 w2 with lit := l1 ++ l0 }
  | _, _ => none

/-- Split bytes into whole words, little-endian. -/
def wordsOf : List (BitVec 8) → List (BitVec 32)
  | b0 :: b1 :: b2 :: b3 :: rest => word32 b0 b1 b2 b3 :: wordsOf rest
  | _ => []

/-- The bytes of a word, little-endian (03 R59). -/
def bytes32 (w : BitVec 32) : List (BitVec 8) :=
  [w.extractLsb' 0 8, w.extractLsb' 8 8, w.extractLsb' 16 8, w.extractLsb' 24 8]

/-- Decode the instruction at the front of a byte list and give the bytes after it. -/
def decode (bs : List (BitVec 8)) : Except DecodeError (Instr × List (BitVec 8)) :=
  match wordsOf (bs.take 20) with
  | [] => .error .truncated
  | w0 :: ws =>
    if !headOk w0 then .error (.illegal w0)
    else
      let n := lenBytes (w0.extractLsb' 0 2)
      if bs.length < n then .error .truncated
      else
        match decodeWords w0 ws with
        | some i => .ok (i, bs.drop n)
        | none => .error (.illegal w0)

/-- The words of the fields of an instruction, in ascending address order (03 R58, R59). -/
def Raw.words (r : Raw) : List (BitVec 32) :=
  let l0 : BitVec 32 := r.lit.extractLsb' 0 32
  let l1 : BitVec 32 := r.lit.extractLsb' 32 32
  match r.len.toNat with
  | 0 => [r.word0]
  | 1 => [r.word0, l0, l1]
  | 2 => [r.word0, r.word1, r.imm]
  | _ => [r.word0, r.word1, r.imm, l0, l1]

/-- The words of an instruction; none for a step of the device. -/
def encode (i : Instr) : Option (List (BitVec 32)) := (encodeRaw i).map Raw.words

/-- The bytes of an instruction; none for a step of the device. -/
def encodeBytes (i : Instr) : Option (List (BitVec 8)) := (encode i).map (fun ws => ws.flatMap bytes32)

/-- The words that a table word of `nbits` bits names, as 32-bit words from the lowest address up to the longest
instruction (five words), every bit above `nbits` zero. -/
def tableWords (nbits w : Nat) : List (BitVec 32) :=
  let x := w % 2 ^ nbits
  [BitVec.ofNat 32 x, BitVec.ofNat 32 (x / 2 ^ 32), BitVec.ofNat 32 (x / 2 ^ 64), BitVec.ofNat 32 (x / 2 ^ 96),
   BitVec.ofNat 32 (x / 2 ^ 128)]

/-- The instruction that this decoder reads from a table word (the fixed name of the host's questions). -/
def decodeTableWord (nbits w : Nat) : Option Instr :=
  match decode ((tableWords nbits w).flatMap bytes32) with
  | .ok (i, _) => some i
  | .error _ => none

end Sys2Proof
end

