-- ==== Sys2Proof/Machine/Order.lean ====
section
/-! DEFINITION. Fences and waits (08 R190-R192) and the simple system forms (R193-R196). -/
namespace Sys2Proof.Machine

/-- An acquire fence wider than the L1 finds what its core sees performed at the die point: its earlier loads may have read it
(06 R127, R135). -/
def State.fenceAcq (s : State) (acq : Bool) (scope : BitVec 3) : State :=
  if s.wideAcq acq scope then s.writeBack (fun p => coreSees s.me.pl.core p.unit) else s
/-- Whether bytes that an acquire fence has to write back are pinned to another core (06 R132). -/
def State.fenceWaits (s : State) (acq : Bool) (scope : BitVec 3) : Bool :=
  s.wideAcq acq scope && s.ms.l1.any (fun p => coreSees s.me.pl.core p.unit && s.pinnedAway s.me.pl.core (p.cells.map (·.1)))
/-- A fence at cluster scope or wider lifts the pins of the task (06 R132). -/
def State.fencePins (s : State) (scope : BitVec 3) : State := if scope == 0#3 then s else s.unpin s.cur
/-- FENCE, 08 R190: a kill point and a reporting point; what an acquire fence orders of the task's loads is performed at its issue, so it
needs only the tile loads, and beyond the L1 that what its core sees goes to the die point. -/
def execFence (acq rel : Bool) (scope : BitVec 3) (s : State) : Host.Outcome State Fault Refusal :=
  .next (s.atKillPoint (fun s => s.reportAll (fun s =>
    if s.tilesPending || (rel && s.releaseWaits scope) || s.fenceWaits acq scope then s.block
    else (((s.fenceAcq acq scope).released rel scope).fencePins scope).retire 12)))

/-- DRAINST, 08 R191. -/
def execDrainst (s : State) : Host.Outcome State Fault Refusal :=
  .next (s.atKillPoint (fun s => s.reportAll (fun s => s.retire 12)))

/-- Whether a counter meets a limit of waitc, 03 R76. -/
def meets (limit maximum count : Nat) : Bool :=
  limit == 255 || decide (maximum ≤ limit) || decide (count ≤ limit)
/-- The copy records that a C limit needs, 15 R307: all but the l most recent commands. -/
def Io.needed (o : Io) (l : Nat) : List CopyRec :=
  if l == 255 then [] else o.crecs.filter (fun r => decide (l ≤ (o.cc.toNat + 65535 - r.id.toNat) % 65535))

/-- WAITC, 08 R192: store-fault records are reported before copy fault records (07 R164). As a reporting point it waits for every
earlier Garnet update (20 R372). Log entry 43 (DEDUCED). -/
def execWaitc (lim : BitVec 32) (s : State) : Host.Outcome State Fault Refusal :=
  .next (s.atKillPoint (fun s =>
    let o := s.me.io
    let at_ (i : Nat) : Nat := (lim.extractLsb' (8 * i) 8).toNat
    if meets (at_ 0) 64 o.lq.length && meets (at_ 1) 64 o.sq.length && meets (at_ 2) 32 o.copies && meets (at_ 3) 32 o.tiles &&
        o.upds.isEmpty then
      s.report (fun s => s.reportCopy (fun r => (s.me.io.needed (at_ 2)).any (fun q => q.id == r.id)) (fun s => s.retire 12))
    else s.block))

/-- NOP, 08 R193. -/
def execNop (s : State) : Host.Outcome State Fault Refusal := .next (s.retire 4)

/-- KPOINT, 08 R193. -/
def execKpoint (s : State) : Host.Outcome State Fault Refusal := .next (s.atKillPoint (fun s => s.retire 4))

/-- A context stops before an instruction and its core dispatches and activates nothing, 08 R194, 24 R425; the stop is traced
(R429). -/
def State.stopTask (s : State) (u : Nat) : State :=
  let s := (s.traceTask u 6 7 0#64).updTask u (·.onPl (fun p => { p with stopped := true }))
  s.onCore (s.task u).pl.core (fun c => { c with stopped := true })
/-- BRK, 08 R194: a stop under an attached debugger and dstop, else the trap BRK. -/
def execBrk (s : State) : Host.Outcome State Fault Refusal :=
  .next (if s.hub.attached && dstopOf s.lmode then s.stopTask s.cur else s.trap cBRK s.pc)

/-- ICINV, 08 R195. -/
def execIcinv (s : State) : Host.Outcome State Fault Refusal :=
  let g := s.me.pl.core
  .next ((s.onMs (fun m => { m with icache := Map.del m.icache g, ibad := m.ibad.filter (fun p => p.1 != g) })).retire 4)

/-- Discard translations of a partition: all, or those that cover an address (08 R196). -/
def State.dropTlb (s : State) (vf : Nat) (va : Option Word) : State :=
  s.onMs (fun m => { m with tlb := m.tlb.filter (fun e => !(e.vf == vf && (match va with
    | none => true
    | some a => a.toNat / 2 ^ e.size == e.page / 2 ^ e.size))) })
/-- TLBINV, 08 R196: what a walk made ahead has found is cached at once, so none is in flight. -/
def execTlbinv (a : BitVec 5) (s : State) : Host.Outcome State Fault Refusal :=
  .next (s.atKillPoint (fun s => (s.dropTlb s.me.tid.vf (if a == 24#5 then none else some (s.x a))).retire 4))

end Sys2Proof.Machine
end

