-- ==== Sys2Proof/Machine/SysReg.lean ====
section
/-! DEFINITION. System registers (07 R157-R160; 08 R197, R198; 11 R235; 15 R308; 22 R396; 24 R431) and the capture of
perf (08 R199). -/
namespace Sys2Proof.Machine

/-! ### Reads -/

/-- status, 07 R158. -/
def State.statusWord (s : State) : Word :=
  let t := s.me
  BitVec.ofNat 64 (t.pl.ctx * 2 ^ 12 + (if t.pl.ctx == 0 then 2 ^ 11 else 0) +
    (if (s.launchOf s.cur).waived then 2 ^ 8 else 0) + (if t.sy.timeok then 8 else 0) + (if t.sy.dz then 4 else 0) +
    t.sy.tl.toNat)
/-- tbud, 11 R237. -/
def Sys.budWord (y : Sys) : Word := BitVec.ofBool y.budOn ++ y.budLeft
/-- tinfo, 11 R236. -/
def TaskId.info (i : TaskId) : Word := BitVec.ofNat 64 (i.kind.toNat + (if i.ord then 16 else 0))
/-- cfault, 15 R308, with the count of records still unreported, at most what its 8 bits hold. Log entry 106 (DESIGN CHOICE). -/
def Task.cfaultWord (t : Task) : Word :=
  t.sy.cfault ||| BitVec.ofNat 64 (min 255 (t.io.crecs.filter (·.unreported)).length * 2 ^ 32)
/-- Register i (0-6) of a bank, 07 R157. -/
def Bank.reg (b : Bank) : Nat → Word
  | 0 => b.cause | 1 => b.ret | 2 => b.tval | 3 => b.save | 4 => b.scr | 5 => b.tvec | _ => b.xval
/-- Word i of a record. -/
def FaultRec.reg (r : FaultRec) : Nat → Word
  | 0 => r.q0 | 1 => r.q1 | 2 => r.q2 | _ => r.q3
/-- The selected entry of the delay table, 24 R430, R431. -/
def State.delayEntry (s : State) : Option Delay :=
  let t := s.me
  let d := Map.get [] (s.coreSt t.pl.core).delay t.tid.launch
  if t.sy.mdsel == 64#7 then d.find? (·.sender == 5120) else (d.filter (·.sender != 5120))[t.sy.mdsel.toNat]?
/-- The kill records that the acting task may read, 07 R157: none for a helper context of a core-launch. -/
def State.mayKrec (s : State) : Bool := !((s.launchOf s.cur).core && s.me.pl.ctx != 0)
def State.killq (s : State) : List FaultRec := Map.get [] (s.coreSt s.me.pl.core).killq s.me.tid.launch

/-- mdsnd, 24 R431. The overflow entry has no one sender; its sender field is a free value. Log entry 23 (DESIGN CHOICE). -/
def State.mdsnd (s : State) : Word × State :=
  match s.delayEntry with
  | none => (0#64, s)
  | some e =>
    let cnt : Word := BitVec.ofNat 64 (e.count % 2 ^ 32 * 2 ^ 32)
    if e.sender == 5120 then
      let (k, s) := s.takeFree
      (cnt ||| (Config.freeWord k &&& 0x1FFF#64), s)
    else (cnt ||| BitVec.ofNat 64 e.sender, s)

/-- The value of a system register, none where no chapter assigns the number or the access is refused (07 R157). -/
def State.sysRead (s : State) (n : Nat) : Option (Word × State) :=
  let t := s.me
  let r (w : Word) : Option (Word × State) := some (w, s)
  if n == 0x000 then r s.statusWord
  else if n == 0x001 then r (s.lmode.setWidth 64)
  else if n == 0x002 then r (t.sy.fflags.setWidth 64)
  else if n == 0x003 then r t.tid.lid
  else if n == 0x004 then r t.sy.stkbase
  else if n == 0x005 then r t.sy.stklim
  else if n == 0x006 then r t.rf.wbase
  else if 0x010 ≤ n ∧ n ≤ 0x016 then r (t.sy.b1.reg (n - 0x010))
  else if 0x018 ≤ n ∧ n ≤ 0x01E then r (t.sy.b2.reg (n - 0x018))
  else if 0x020 ≤ n ∧ n ≤ 0x023 then r ((t.io.sfq.headD {}).reg (n - 0x020))
  else if n == 0x030 then r s.dtime
  else if 0x040 ≤ n ∧ n ≤ 0x043 then (if s.mayKrec then r ((s.killq.headD {}).reg (n - 0x040)) else none)
  else if n == 0x100 then r t.sy.key
  else if n == 0x101 then r t.sy.budWord
  else if n == 0x102 then r (t.sy.budInit.setWidth 64)
  else if n == 0x103 then r t.tid.info
  else if n == 0x104 then r (t.sy.cre.setWidth 64)
  else if n == 0x105 then r t.tid.cw
  else if n == 0x140 then r t.cfaultWord
  else if n == 0x141 then r t.sy.cdone
  else if n == 0x142 then r (t.io.cc.setWidth 64)
  else if n == 0x180 then r (s.launchOf s.cur).ext
  else if n == 0x181 then r t.sy.lcoord
  else if n == 0x1C0 then r (t.sy.mdsel.setWidth 64)
  else if n == 0x1C1 then some s.mdsnd
  else if n == 0x1C2 then r (BitVec.ofNat 64 ((s.delayEntry.map (·.transit)).getD 0))
  else if n == 0x1C3 then r (BitVec.ofNat 64 ((s.delayEntry.map (·.queue)).getD 0))
  else if n == 0x1C4 then r (BitVec.ofNat 64 ((s.delayEntry.map (·.run)).getD 0))
  else none

/-- Registers whose read dmodes 1 and 2 close, 08 R168, 24 R431. -/
def timed (n : Nat) : Bool := n == 0x030 || (decide (0x1C1 ≤ n) && decide (n ≤ 0x1C4))
/-- Whether the acting task is refused time, 01 R30. -/
def State.timeClosed (s : State) : Bool := s.det && !s.me.sy.timeok

/-- SRR, 08 R197. -/
def execSrr (d : BitVec 5) (n : BitVec 12) (s : State) : Host.Outcome State Fault Refusal :=
  .next (if timed n.toNat && s.timeClosed then s.trap cTIME (n.setWidth 64)
    else match s.sysRead n.toNat with
      | none => s.trap cSYSREG (n.setWidth 64)
      | some (w, s) => s.result d w 12)

/-! ### Writes -/

/-- Whether a write of cause leaves its RO fields 0, 07 R160. -/
def causeOk (v : Word) : Bool := v.extractLsb' 48 16 == 0#16 && v.extractLsb' 24 6 == 0#6
/-- A value with bits [1:0] cleared (08 R198). -/
def clear2 (v : Word) : Word := v &&& ~~~3#64
/-- Write register i of a bank, none for a change of an RO field. -/
def Bank.write (b : Bank) (i : Nat) (v : Word) : Option Bank :=
  match i with
  | 0 => if causeOk v then some { b with cause := v } else none
  | 1 => some { b with ret := clear2 v }
  | 2 => some { b with tval := v }
  | 3 => some { b with save := v }
  | 4 => some { b with scr := v }
  | 5 => some { b with tvec := clear2 v }
  | _ => some { b with xval := v }

/-- Pop the head store-fault record, 07 R164; popping the last clears ovf. -/
def Io.popFault (o : Io) : Io :=
  { o with sfq := o.sfq.tail, ovf := if o.sfq.length ≤ 1 then false else o.ovf }
/-- Pop the head kill record, 08 R198. -/
def State.popKill (s : State) : State :=
  s.onCore s.me.pl.core (fun c => { c with killq := Map.set c.killq s.me.tid.launch (s.killq.tail) })

/-- Write status, 07 R158: bits [63:16] are ignored, the other RO fields must stay as read. Setting timeok in dmodes 1
and 2 marks the launch; above the horizon a write of timeok waits (11 R245). -/
def State.writeStatus (s : State) (v : Word) : Out Unit × State :=
  let old := s.statusWord
  let ok := v.getLsbD 3
  if v.extractLsb' 4 12 != old.extractLsb' 4 12 || v.extractLsb' 0 2 != old.extractLsb' 0 2 then
    (.trap { code := cSYSREG }, s)
  else if ok != s.me.sy.timeok && s.provisional s.cur then (.wait, s)
  else
    let s := if ok && s.det then s.waive s.me.tid.launch else s
    (.ok (), s.onMe (fun t => t.onSy (fun y => { y with timeok := ok, dz := v.getLsbD 2 })))

/-- Write a system register, 08 R198. A register that no chapter assigns, an RO register, or a changed RO field is SYSREG
with the number as tval. Log entry 67 (DEDUCED). -/
def State.sysWrite (s : State) (n : Nat) (v : Word) : Out Unit × State :=
  let no : Out Unit × State := (.trap { code := cSYSREG, tval := BitVec.ofNat 64 n }, s)
  let y := s.me.sy
  if n == 0x000 then s.writeStatus v
  else if n == 0x002 then (.ok (), s.onMe (fun t => t.onSy (fun y => { y with fflags := v.extractLsb' 0 5 })))
  else if 0x010 ≤ n ∧ n ≤ 0x016 then
    match y.b1.write (n - 0x010) v with
    | some b => (.ok (), s.onMe (fun t => t.onSy (fun y => { y with b1 := b })))
    | none => no
  else if 0x018 ≤ n ∧ n ≤ 0x01E then
    match y.b2.write (n - 0x018) v with
    | some b => (.ok (), s.onMe (fun t => t.onSy (fun y => { y with b2 := b })))
    | none => no
  else if n == 0x020 then (.ok (), s.onMe (fun t => t.onIo Io.popFault))
  else if n == 0x040 then (if s.mayKrec then (.ok (), s.popKill) else no)
  else if n == 0x1C0 then
    if v.toNat ≤ 64 then (.ok (), s.onMe (fun t => t.onSy (fun y => { y with mdsel := v.extractLsb' 0 7 }))) else no
  else no

/-- SRW, 08 R198. -/
def execSrw (a : BitVec 5) (n : BitVec 12) (s : State) : Host.Outcome State Fault Refusal :=
  .next (Out.bind (s.sysWrite n.toNat (s.x a)) (fun _ s => s.retire 12))

/-! ### perf -/

/-- PERF_START, 08 R199. -/
def execPerfStart (group : BitVec 8) (s : State) : Host.Outcome State Fault Refusal :=
  .next (if s.timeClosed then s.trap cTIME 0#64
    else if s.provisional s.cur then s.block
    else (s.onMe (fun t => t.onIo (fun o => { o with perf := { active := true, group := group, start := s.dtime } }))).retire 12)

/-- The counters that the model does not count, 24 R433: L1 and L2 misses, shared-unit wait, walks and retries depend on
timing and on caches that the model leaves out; each is a free value. Log entry 20 (DESIGN CHOICE). -/
def State.perfWords (s : State) : List Word × State :=
  let p := s.me.io.perf
  let w := if !p.active then [0#64, 4#64, 0#64, 0#64, 0#64, 0#64, 0#64, 0#64]
    else [p.group.setWidth 64, (if p.switched then 1#64 else 0#64) ||| (if p.wrapped then 2#64 else 0#64), p.outTime, p.start,
      p.c0, p.c1, p.c2, p.c3]
  if !p.active then (w, s)
  else if p.group == 0#8 then
    let (i, s) := s.takeFree
    let (j, s) := s.takeFree
    (w.take 6 ++ [Config.freeWord i, Config.freeWord j], s)
  else if p.group == 1#8 then
    let (i, s) := s.takeFree
    let (j, s) := s.takeFree
    let (k, s) := s.takeFree
    (w.take 4 ++ [Config.freeWord i, p.c1, Config.freeWord j, Config.freeWord k], s)
  else (w, s)
/-- Eight stores of one word each. -/
def State.storeWords (s : State) (va : Word) : List Word → Out Unit × State
  | [] => (.ok (), s)
  | w :: ws =>
    match s.issueStore 2 .plain 8 va (leBytes 8 w.toNat) none with
    | (.ok (), s) => s.storeWords (va + 8#64) ws
    | other => other

/-- PERF_STOP, 08 R199: TIME is looked at before ALIGN. Log entry 85 (DESIGN CHOICE). -/
def execPerfStop (a : BitVec 5) (s : State) : Host.Outcome State Fault Refusal :=
  .next (if s.timeClosed then s.trap cTIME 0#64
    else if !aligned (s.x a) 64 then s.trap cALIGN (s.x a)
    else if s.provisional s.cur || decide (56 < s.me.io.sq.length) then s.block
    else
      let (ws, s') := s.perfWords
      match s'.storeWords (s.x a) ws with
      | (.ok (), s') => (s'.onMe (fun t => t.onIo (fun o => { o with perf := { o.perf with active := false } }))).retire 12
      | (.trap i, s') => s'.fault i
      | (.wait, _) => s.block)

end Sys2Proof.Machine
end

