-- ==== Sys2Proof/Machine/VecCore.lean ====
section
/-! DEFINITION. Operand forms of the vector engine: elements and masks (10 R205, R207), sources and channel heads (R206,
R208), tag checks, and the writing of a register. -/
namespace Sys2Proof.Machine

/-! ### Elements -/

/-- Element j of width w. -/
def vget (v : BitVec 1024) (w j : Nat) : Nat := (v.extractLsb' (w * j) w).toNat
/-- A register from its elements, element 0 first. -/
def vpack (w : Nat) : List Nat → BitVec 1024
  | [] => 0#1024
  | e :: es => (vpack w es <<< w) ||| BitVec.ofNat 1024 (e % 2 ^ w)
/-- The elements of a register under a tag. -/
def velems (v : BitVec 1024) (t : Tag) : List Nat := (List.range t.elems).map (vget v t.width)
/-- Whether element j of width w is active, R205. -/
def active (m : BitVec 32) (w j : Nat) : Bool := m.getLsbD (j * w / 32)
/-- A mask from a relation per element: bit j, or bits 2j and 2j + 1 of 64-bit elements (R205). -/
def maskOf (w : Nat) (bs : List Bool) : BitVec 32 :=
  BitVec.ofNat 32 ((bs.zipIdx.map (fun p => if p.1 then (if w == 64 then 3 * 2 ^ (2 * p.2) else 2 ^ p.2) else 0)).sum)
/-- A number cut to w bits as two's complement. -/
def cutInt (w : Nat) (x : Int) : Nat := (x % (2 ^ w : Int)).toNat
/-- The value of an element of an integer tag. -/
def intVal (t : Tag) (x : Nat) : Int := if t.isSigned then asSigned t.width x else (x : Int)
/-- The range of an integer tag, 04 R84. -/
def intLo (t : Tag) : Int := if t.isSigned then -(2 ^ (t.width - 1) : Int) else 0
def intHi (t : Tag) : Int := if t.isSigned then (2 ^ (t.width - 1) : Int) - 1 else (2 ^ t.width : Int) - 1

/-! ### Sources -/

/-- The channel that a source code names, R208. -/
def chanCode (r : BitVec 5) : Option Nat := if 28 ≤ r.toNat then some (r.toNat - 28) else none
/-- A vector source: a register with its tag, or a channel head; none where the channel is empty. -/
def State.vsrc (s : State) (r : BitVec 5) : Option (BitVec 1024 × Tag) :=
  match chanCode r with
  | none => some (s.me.vreg r, s.me.vtag r)
  | some q => ((Map.get [] (s.coreSt s.me.pl.core).chans q).head?).map (fun m => (m.val, m.tag))
/-- The trap FORMAT of an operand code and the tag found, R206. -/
def formatTrap (op : Nat) (found : Tag) : TrapInfo :=
  { code := cFORMAT, detail := BitVec.ofNat 8 (op * 16 + found.code.toNat) }

/-- A source operand of a vector instruction: its code in cause.detail, its field, and the tags it admits. -/
structure VSrc where
  op : Nat
  r : BitVec 5
  ok : Tag → Bool

/-- Read and check sources in the order of their operand codes. -/
def State.vcheck (s : State) : List VSrc → Out (List (BitVec 1024 × Tag))
  | [] => .ok []
  | v :: vs =>
    match s.vsrc v.r with
    | none => .wait
    | some x =>
      match s.vcheck vs with
      | .wait => .wait
      | rest =>
        if v.ok x.2 then
          match rest with
          | .ok xs => .ok (x :: xs)
          | other => other
        else .trap (formatTrap v.op x.2)
/-- Whether a write under a mask leaves an element of the tag unwritten, R206. -/
def State.skips (s : State) (mask : BitVec 3) (t : Tag) : Bool :=
  mask != 0#3 && !(List.range t.elems).all (active (s.me.mask mask) t.width)
/-- The destination of a write that leaves elements unwritten must be of the tag or empty, R206. -/
def State.partialOk (s : State) (d : BitVec 5) (t : Tag) : Bool := s.me.vtag d == t || s.me.vtag d == .empty

/-- Pop the channels that source fields name, once each, as the instruction retires (R208). The message is consumed, unless the dispatch
of its activation has consumed it (24 R430). -/
def State.popOne (s : State) (q : Nat) : State :=
  let g := s.me.pl.core
  match (Map.get [] (s.coreSt g).chans q).head? with
  | none => s
  | some m =>
    let s := if m.counted then s else s.consumed g s.me.tid.launch m.src m.sent m.arrived
    (s.popChan g q).onMe (·.count 2 3 1)
def State.popNamed (s : State) (rs : List (BitVec 5)) : State :=
  ((rs.filterMap chanCode).dedup).foldl State.popOne s

/-- Run a vector instruction: sources are checked, then the destination of a partial write, then the effect; the channels
read are popped. `dst` is the destination, its new tag, and whether elements stay unwritten. -/
def State.vrun (s : State) (srcs : List VSrc) (dst : Option (BitVec 5 × Tag × Bool))
    (f : List (BitVec 1024 × Tag) → State → State) (size : Nat) : State :=
  match s.vcheck srcs with
  | .wait => s.block
  | .trap i => s.fault i
  | .ok vs =>
    let bad := match dst with
      | some (d, t, part) => part && !s.partialOk d t
      | none => false
    if bad then s.fault (formatTrap 4 (match dst with | some (d, _, _) => s.me.vtag d | none => .empty))
    else ((f vs s).popNamed (srcs.map (·.r))).retire size

/-! ### Results -/

/-- The elements that a write keeps: those of the register, or 0 of an empty one (R206). -/
def State.oldElems (s : State) (d : BitVec 5) (t : Tag) : List Nat :=
  if s.me.vtag d == .empty then List.replicate t.elems 0 else velems (s.me.vreg d) t
/-- Write the elements given, keep those that are none, set the tag and OR the flags of the elements written. -/
def State.vwrite (s : State) (d : BitVec 5) (t : Tag) (es : List (Option (Nat × BitVec 5))) : State :=
  let old := s.oldElems d t
  let new := es.zipWith (fun e o => match e with | some p => p.1 | none => o) old
  let fl := es.foldl (fun a e => match e with | some p => a ||| p.2 | none => a) 0#5
  (s.onMe (·.setV d (vpack t.width new) t)).orFlags fl
/-- Apply a function to the active elements of a mask. -/
def onActive (m : BitVec 32) (t : Tag) (f : Nat → Nat × BitVec 5) : List (Option (Nat × BitVec 5)) :=
  (List.range t.elems).map (fun j => if active m t.width j then some (f j) else none)

/-- An element-wise instruction of one tag over two sources; with `sc` the second is a scalar (R210). -/
def State.vbinary (s : State) (t : Tag) (sc : Bool) (mask : BitVec 3) (d a b : BitVec 5) (f : Nat → Nat → Nat × BitVec 5) :
    State :=
  let w := t.width
  let m := s.me.mask mask
  let ok (x : Tag) : Bool := x == t
  let srcs : List VSrc := ⟨1, a, ok⟩ :: (if sc then [] else [⟨2, b, ok⟩])
  s.vrun srcs (some (d, t, s.skips mask t)) (fun vs s =>
    let x := (vs.headD (0#1024, t)).1
    let y (j : Nat) : Nat := if sc then (s.x b).toNat % 2 ^ w else vget ((vs.getD 1 (0#1024, t)).1) w j
    s.vwrite d t (onActive m t (fun j => f (vget x w j) (y j)))) 12
/-- An element-wise instruction of one tag over one source. -/
def State.vunary (s : State) (t : Tag) (mask : BitVec 3) (d a : BitVec 5) (f : Nat → Nat × BitVec 5) : State :=
  let m := s.me.mask mask
  s.vrun [⟨1, a, fun x => x == t⟩] (some (d, t, s.skips mask t)) (fun vs s =>
    s.vwrite d t (onActive m t (fun j => f (vget (vs.headD (0#1024, t)).1 t.width j)))) 12

end Sys2Proof.Machine
end

