-- ==== Sys2Proof/Machine/VecMem.lean ====
section
/-! DEFINITION. Vector memory: unit-stride, strided, gather and scatter (10 R221-R224). -/
namespace Sys2Proof.Machine

/-- An element access: its index, address and runs. -/
structure VElem where
  j : Nat
  va : Word
  gs : List Seg

/-- Check the active elements in ascending order, R222: those before the first that fails, and its trap, whose detail is the
element's index where the fault has no detail of its own, as an empty key slot and a poisoned page-table entry have (05 R124, 07
R161). Log entry 84 (DEDUCED). -/
def State.vaddrs (s : State) (need : Need) (kind : BitVec 4) (n : Nat) : List (Nat × Word) →
    List VElem × Option TrapInfo × State
  | [] => ([], none, s)
  | (j, va) :: rest =>
    if !aligned va n then ([], some { code := cALIGN, tval := va, kind := kind, detail := BitVec.ofNat 8 j }, s)
    else
      match s.xlate (s.agentOf s.cur) need va n with
      | (.error e, s) => ([], some (e.trap kind (BitVec.ofNat 8 j)), s)
      | (.ok gs, s) =>
        let r := s.vaddrs need kind n rest
        (⟨j, va, gs⟩ :: r.1, r.2)

/-- Read elements in ascending order up to the first that tracking or MCHK refuses: values by index, and the trap, which for
tracking names the element and its address (R222). `wide` is an acquire beyond the L1. Log entry 32 (DEDUCED). -/
def State.vreads (s : State) (wide : Bool) : List VElem → List (Nat × Nat) × Option TrapInfo × State
  | [] => ([], none, s)
  | e :: es =>
    let locs := segLocs e.gs
    match (s.recallLocs s.me.tid.vf locs).passTo 8#4 .read e.gs with
    | (.ok (), s) =>
      let s := ((if wide then s.flushL1 (coreSees s.me.pl.core) locs else s).underSegs s.me.tid.vf e.gs).toRead s.cur locs
      let v := leNat (locs.map (s.loadByte s.cur))
      let r := ((s.noteReads locs).closeAt locs).vreads wide es
      ((e.j, v) :: r.1, r.2)
    | (.trap i, s) =>
      ([], some (if i.code == cMCHK then i else { i with detail := BitVec.ofNat 8 e.j, tval := e.va }), s)
    | (.wait, s) => ([], none, s)
/-- The entry of a vector load: its elements may still be performed, each by itself (R221, 06 R129), but for tracked ones. -/
def State.vloadEnt (s : State) (acq wide : Bool) (d : BitVec 5) (w : Nat) (early : List EarlyWord) (es : List VElem) :
    LoadEnt :=
  { dst := .v d w, acq := acq, wide := wide, keys := s.segKeys s.me.tid.vf (es.flatMap (·.gs)),
    parts := (es.filter (fun e => !s.tracksSegs e.gs)).map (fun e => s.loadPart early e.j (segLocs e.gs)) }

/-- The first of two traps: that of the lower element. -/
def firstTrap (a b : Option TrapInfo) : Option TrapInfo :=
  match a with
  | some t => some t
  | none => b

/-- A vector load of active elements at addresses, R221, R222: elements below a fault complete. `srcs` are the vector
sources to check and pop; `vas` makes the addresses from their values. Log entry 98 (DESIGN CHOICE). -/
def State.vload (s : State) (t : Tag) (acq : Bool) (scope mask : BitVec 3) (d : BitVec 5) (srcs : List VSrc)
    (vas : List (BitVec 1024 × Tag) → Nat → Word) (size : Nat) : State :=
  let w := t.width
  let m := s.me.mask mask
  match s.vcheck srcs with
  | .wait => s.block
  | .trap i => s.fault i
  | .ok vs =>
    if s.skips mask t && !s.partialOk d t then s.fault (formatTrap 4 (s.me.vtag d))
    else if 64 ≤ s.me.io.lq.length then s.block
    else
      let js := (List.range t.elems).filter (active m w)
      let (es, bad, s) := s.vaddrs { rd := true } 8#4 (w / 8) (js.map (fun j => (j, vas vs j)))
      if s.mustWait false (es.flatMap (fun e => segLocs e.gs)) || (bad.isSome && s.provisional s.cur) then s.block
      else
        let before := s
        let wide := s.wideAcq acq scope
        let early := s.me.io.early
        let (got, bad', s) := s.vreads wide es
        match firstTrap bad' bad with
        | some i =>
          if s.provisional s.cur then before.block
          else
            let part := (List.range t.elems).map (fun j => (got.find? (fun p => p.1 == j)).map (fun p => (p.2, 0#5)))
            (if got.isEmpty then s else s.vwrite d t part).fault i
        | none =>
          let all := (List.range t.elems).map (fun j => (got.find? (fun p => p.1 == j)).map (fun p => (p.2, 0#5)))
          (((s.vwrite d t all).popNamed (srcs.map (·.r))).enterL (s.vloadEnt acq wide d w early es)).retire size

/-- The bytes of one element of a store: where they go, what they are and their virtual addresses. -/
structure ElemStore where
  cells : List Host.Cell := []
  vas : List Nat := []
/-- The elements of a store that stand: of several at one location the highest writes (R224). -/
def lastElems : List ElemStore → List ElemStore
  | [] => []
  | c :: cs =>
    let rest := lastElems cs
    if c.cells.any (fun x => rest.any (fun e => e.cells.any (fun y => y.1 == x.1))) then rest else c :: rest

/-- A vector store of active elements, R221-R224: one entry of the store queue, whose elements are performed in any order;
elements below a fault complete. An MCHK of a page-table entry is a record, for no load or fetch consumes the word (07 R163). -/
def State.vstore (s : State) (t : Tag) (rel : Bool) (scope mask : BitVec 3) (srcs : List VSrc)
    (vas : List (BitVec 1024 × Tag) → Nat → Word) (size : Nat) : State :=
  let w := t.width
  let n := w / 8
  let m := s.me.mask mask
  match s.vcheck srcs with
  | .wait => s.block
  | .trap i => s.fault i
  | .ok vs =>
    if 64 ≤ s.me.io.sq.length || (rel && s.tilesPending) then s.block
    else
      let js := (List.range t.elems).filter (active m w)
      let (es, bad, s) := s.vaddrs { w := true } 9#4 n (js.map (fun j => (j, vas vs j)))
      let locs := es.flatMap (fun e => segLocs e.gs)
      if s.tileBlocks locs || s.owesAt s.cur locs || (s.provisional s.cur && (bad.isSome || locs.any (fun l => isClm l || isHost l))) then s.block
      else
        let data := (vs.getLast?.map (·.1)).getD 0#1024
        let st := lastElems (es.map (fun e =>
          { cells := segCells e.gs (leBytes n (vget data w e.j)), vas := locRange e.va.toNat n }))
        let ent : StoreEnt :=
          { pc := s.pc, va := (es.head?.map (·.va)).getD 0#64, kind := 9, width := n, cells := st.flatMap (·.cells),
            vas := st.flatMap (·.vas),
            tracked := s.tracks && es.any (fun e => e.gs.any (fun g => g.at_.clm || g.at_.det)),
            direct := bypasses (es.flatMap (·.gs)), rel := if rel then some scope else none, issued := s.me.pl.retired,
            keys := s.segKeys s.me.tid.vf (es.flatMap (·.gs)) }
        let s' := (s.onMe (·.onIo (fun o => { o with sq := o.sq ++ [ent] }))).closeAt locs
        match bad with
        | some i =>
          let s := if ent.cells.isEmpty then s else s'
          if i.code == cMCHK then
            let r := { faultRec s.pc i.tval i.code n 9 i.wlev 0#64 s.me.pl.retired with detail := i.detail }
            ((s.onMe (·.onIo (fun o => pushFault o r))).popNamed (srcs.map (·.r))).retire size
          else s.fault i
        | none => (s'.popNamed (srcs.map (·.r))).retire size

/-- VLD, 10 R221. -/
def execVld (t : Tag) (acq : Bool) (scope mask : BitVec 3) (d a : BitVec 5) (disp : Src) (s : State) :
    Host.Outcome State Fault Refusal :=
  .next (s.vload t acq scope mask d [] (fun _ j => s.addrD a disp + BitVec.ofNat 64 (j * (t.width / 8))) disp.size)

/-- VST, 10 R221: the data register may be a channel head. -/
def execVst (t : Tag) (rel : Bool) (scope mask : BitVec 3) (d a : BitVec 5) (disp : Src) (s : State) :
    Host.Outcome State Fault Refusal :=
  .next (s.vstore t rel scope mask [⟨5, d, fun x => x == t⟩]
    (fun _ j => s.addrD a disp + BitVec.ofNat 64 (j * (t.width / 8))) disp.size)

/-- VLDS, 10 R221: the stride is signed. -/
def execVlds (t : Tag) (acq : Bool) (scope mask : BitVec 3) (d a b : BitVec 5) (disp : Src) (s : State) :
    Host.Outcome State Fault Refusal :=
  .next (s.vload t acq scope mask d [] (fun _ j => s.addrD a disp + BitVec.ofNat 64 j * s.x b) disp.size)

/-- VSTS, 10 R221. -/
def execVsts (t : Tag) (rel : Bool) (scope mask : BitVec 3) (d a b : BitVec 5) (disp : Src) (s : State) :
    Host.Outcome State Fault Refusal :=
  .next (s.vstore t rel scope mask [⟨5, d, fun x => x == t⟩]
    (fun _ j => s.addrD a disp + BitVec.ofNat 64 j * s.x b) disp.size)

/-- The index of element j, extended by its tag (R223). -/
def indexOf (v : BitVec 1024 × Tag) (j : Nat) : Word := extendTag v.2 (vget v.1 v.2.width j)
/-- Index tags of R223. -/
def gatherTag (w : Nat) (x : Tag) : Bool := (x.isSigned || x.isUnsigned) && x.width == w

/-- VGATH, 10 R223. -/
def execVgath (t : Tag) (acq : Bool) (scope mask : BitVec 3) (d a b : BitVec 5) (disp : Src) (sh : BitVec 2)
    (s : State) : Host.Outcome State Fault Refusal :=
  .next (s.vload t acq scope mask d [⟨2, b, gatherTag t.width⟩]
    (fun vs j => s.addrD a disp + (indexOf (vs.headD (0#1024, t)) j <<< sh.toNat)) disp.size)

/-- VSCAT, 10 R223, R224. -/
def execVscat (t : Tag) (rel : Bool) (scope mask : BitVec 3) (d a b : BitVec 5) (disp : Src) (sh : BitVec 2)
    (s : State) : Host.Outcome State Fault Refusal :=
  .next (s.vstore t rel scope mask [⟨2, b, gatherTag t.width⟩, ⟨5, d, fun x => x == t⟩]
    (fun vs j => s.addrD a disp + (indexOf (vs.headD (0#1024, t)) j <<< sh.toNat)) disp.size)

end Sys2Proof.Machine
end

