-- ==== Sys2Proof/Machine/Matrix.lean ====
section
/-! DEFINITION. The matrix instructions at issue (spec/17; 16 R318-R326): checks in the order of R330, handle states,
slots, lineage, and the acceptance of tile instructions. What an accepted one does to data is in TileExec. -/
namespace Sys2Proof.Machine

/-! ### Checks -/

def cSLOTS : BitVec 8 := 0x1D#8
def cHSTATE : BitVec 8 := 0x1E#8
def cTSHAPE : BitVec 8 := 0x1F#8
def cTPLACE : BitVec 8 := 0x21#8

/-- What an entry needs of a handle register it names, R318, R319. -/
inductive HNeed where
  | live    -- LIVE of either class
  | onyx    -- LIVE Onyx
  | room    -- EMPTY or MOVED-FROM
deriving DecidableEq, Repr
/-- A handle operand: its code in cause.detail (10 R206), the register, and what it must be. -/
structure HOp where
  op : Nat
  h : BitVec 4
  need : HNeed
  bad : Bool := false   -- HSTATE for another reason of the entry's

/-- A fault of a matrix instruction: tval, and the operand code in cause.detail[7:4] (R326). Log entry 41 (DEDUCED). -/
def tileTrap (code : BitVec 8) (tval : Word) (op : Nat) : TrapInfo :=
  { code := code, tval := tval, detail := BitVec.ofNat 8 (op * 16) }
/-- A fault that names a handle register. -/
def hTrap (code : BitVec 8) (h : BitVec 4) (op : Nat) : TrapInfo := tileTrap code (h.setWidth 64) op

/-- MOVED: no entry but a destination accepts a MOVED-FROM register. -/
def HOp.moved (o : HOp) (v : Word) : Bool := o.need != .room && hSt v == hMOVED
/-- HSTATE. -/
def HOp.wrong (o : HOp) (v : Word) : Bool :=
  o.bad || match o.need with
  | .live => hSt v != hLIVE
  | .onyx => hSt v != hLIVE || !hOnyx v
  | .room => hSt v == hLIVE || hSt v == hPENDING

/-- The waits and the handle checks of R330: a PENDING register waits, and one that may be EMPTY or MOVED-FROM where a copy
command uses it (15 R302); then MOVED, then HSTATE. Log entry 40 (DEDUCED). -/
def State.handleCheck (s : State) (ops : List HOp) : Out Unit :=
  let v (o : HOp) : Word := s.me.hreg o.h
  if ops.any (fun o => hSt (v o) == hPENDING && (o.need != .room || s.commandHolds s.cur o.h.toNat)) then .wait
  else
    match ops.find? (fun o => o.moved (v o)) with
    | some o => .trap (hTrap cMOVED o.h o.op)
    | none =>
      match ops.find? (fun o => o.wrong (v o)) with
      | some o => .trap (hTrap cHSTATE o.h o.op)
      | none => .ok ()

/-- Whether a slot of a tile holds a word. -/
def inSlots (cl : Nat) (h : Word) (word : Nat) : Bool :=
  (hSlots h).any (fun sl => decide (opmBase cl sl ≤ 4 * word) && decide (4 * word < opmBase cl (sl + 1)))
/-- The poisoned words of operand memory that an instruction consumes by naming a tile, R326, 25 R440. -/
def State.poisonIn (s : State) (hs : List Word) : List (Nat × Nat) :=
  let cl := clusterOf s.me.pl.core
  s.ms.poison.filter (fun p => hs.any (fun h => inSlots cl h p.1))
/-- Consume the tiles that an instruction names: a poisoned word of one is MCHK, precise at issue (R326). -/
def State.consume (s : State) (hs : List Word) (cont : State → State) : State :=
  match s.poisonIn hs with
  | p :: ps =>
    if s.provisional s.cur then s.block
    else
      let s := s.onMs (fun m => { m with poison := m.poison.filter (fun q => !(p :: ps).contains q) })
      s.fault { code := cMCHK, tval := s.me.tid.lid, detail := BitVec.ofNat 8 p.2 }
  | [] => cont s

/-- Run a matrix instruction: an ordered task waits for the horizon (R328); `tmax` says that it enters T, which waits at
32 (03 R75); then the handle checks, MCHK, and the entry's own checks and effect. MCHK stands after HSTATE and before FORMAT. Log
entry 119 (DESIGN CHOICE). -/
def State.matrix (s : State) (tmax : Bool) (ops : List HOp) (cont : State → State) : State :=
  if s.provisional s.cur || (tmax && decide (32 ≤ s.me.io.tiles)) then s.block
  else
    match s.handleCheck ops with
    | .wait => s.block
    | .trap i => s.fault i
    | .ok () =>
      s.consume ((ops.filter (fun o => o.need != .room)).map (fun o => s.me.hreg o.h)) cont

/-- Check a condition, else fault. -/
def State.need (s : State) (ok : Bool) (i : TrapInfo) (cont : State → State) : State := if ok then cont s else s.fault i

/-- Write a handle register of the acting task. -/
def State.setH (s : State) (h : BitVec 4) (v : Word) : State := s.onMe (·.setH h v)
/-- Accept a tile instruction: it enters the core's queue and T. -/
def State.accept (s : State) (o : TileOp) : State :=
  (s.onCore s.me.pl.core (fun c => { c with tileq := c.tileq ++ [{ o with launch := s.me.tid.launch }] })).onMe
    (·.onIo (fun x => { x with tiles := x.tiles + 1 }))

/-! ### Claiming, freeing and moving -/

/-- Clear a run of locations. -/
def State.clearRun (s : State) (a n : Nat) : State :=
  let s := { s with mem := s.mem.filter (fun c => decide (c.1 < a) || decide (a + n ≤ c.1)) }
  s.onMs (fun m => { m with poison := m.poison.filter (fun p => decide (4 * p.1 < a) || decide (a + n ≤ 4 * p.1)) })

/-- TCLAIM, R332: the fields hold block counts less 1. -/
def execTclaim (t : Tag) (d : BitVec 4) (br bc : BitVec 3) (s : State) : Host.Outcome State Fault Refusal :=
  .next (s.matrix false [⟨4, d, .room, false⟩] (fun s =>
    let cl := clusterOf s.me.pl.core
    let n := (br.toNat + 1) * (bc.toNat + 1)
    match firstFit (s.cluster cl).slots n with
    | none => s.fault (hTrap cSLOTS d 4)
    | some b =>
      let s := s.onCluster cl (fun c => { c with slots := claimSlots c.slots s.me.tid.launch b n })
      let s := s.clearRun (opmBase cl b) (n * 8192)
      (s.setH d (mkHandle hLIVE true t false false 0 0 (bc.toNat + 1) (bc.toNat + 1) (br.toNat + 1) b)).retire 12))

/-- TFREE, R333. -/
def execTfree (a : BitVec 4) (s : State) : Host.Outcome State Fault Refusal :=
  .next (s.matrix false [⟨1, a, .live, false⟩] (fun s =>
    let v := s.me.hreg a
    ((s.setH a 0#64).freeTile (clusterOf s.me.pl.core) v).retire 12))

/-- HMOV, R334. -/
def execHmov (d a : BitVec 4) (s : State) : Host.Outcome State Fault Refusal :=
  .next (s.matrix false [⟨1, a, .live, false⟩, ⟨4, d, .room, false⟩] (fun s =>
    ((s.setH d (s.me.hreg a)).setH a movedFrom).retire 12))

/-- HDUP, R335. -/
def execHdup (d a : BitVec 4) (s : State) : Host.Outcome State Fault Refusal :=
  let cl := clusterOf s.me.pl.core
  let v := s.me.hreg a
  let n := Map.get 1 (s.cluster cl).refs (hBase v)
  .next (s.matrix false [⟨1, a, .live, hLk v || (!hOnyx v && decide (1024 ≤ n))⟩, ⟨4, d, .room, false⟩] (fun s =>
    let w := hWithOnyx v false
    let s := s.onCluster cl (fun c => { c with refs := Map.set c.refs (hBase v) (if hOnyx v then 2 else n + 1) })
    ((s.setH a w).setH d w).retire 12))

/-- HINFO, R336: in dmodes 1 and 2 a PENDING register waits. -/
def execHinfo (d : BitVec 5) (a : BitVec 4) (s : State) : Host.Outcome State Fault Refusal :=
  .next (if s.provisional s.cur || (s.det && hSt (s.me.hreg a) == hPENDING) then s.block else s.result d (s.me.hreg a) 12)

/-- KSET, R338. -/
def execKset (d : BitVec 4) (v : ScaleSrc) (s : State) : Host.Outcome State Fault Refusal :=
  .next (if s.provisional s.cur then s.block
    else
      let x := match v with
        | .reg a => (s.x a).setWidth 32
        | .imm i => i
      (s.onMe (·.setK d x)).retire 12)

/-- The smallest scope that holds two cores, 00 R6: core, cluster, die, package or domain. -/
def scopeOf (pkg : Nat → Nat) (g g' : Nat) : BitVec 3 :=
  if g == g' then 0#3 else if clusterOf g == clusterOf g' then 1#3 else if dieOf g == dieOf g' then 2#3
  else if pkg g == pkg g' then 3#3 else 4#3
/-- The package of a core: the model's device is one package. Log entry 70 (DEDUCED). -/
def packageOf (_g : Nat) : Nat := 0

/-- Whether a core is one of the acting task's launch that its cluster may reach (11 R254, 05 R110). -/
def State.placeOk (s : State) (x : Word) : Bool :=
  (s.launchOf s.cur).active.contains x.toNat && (s.part s.me.tid.vf).mayReach (clusterOf s.me.pl.core) (clusterOf x.toNat)

/-- Most transfers the copy engine of a cluster queues: one per identifier in flight of its contexts (15 R296). -/
def copyQueueMax : Nat := 128

/-- The moves of HSEND once the target is known, R321. -/
def State.hsendTo (s : State) (u g : Nat) (n a : BitVec 4) (sc : BitVec 3) : State :=
  let v := s.me.hreg a
  let cl := clusterOf s.me.pl.core
  let cl' := clusterOf g
  let tv := (s.task u).hreg n
  if hSt tv == hLIVE || hSt tv == hPENDING then s.fault (hTrap cHSTATE a 1)
  else if cl == cl' then
    let s := s.released true sc
    let wait := s.sendPending cl s.cur v
    let s := s.setHandle u n (hWithSt v (if wait then hPENDING else hLIVE))
    let s := if wait then (s.holdSend cl s.cur v u n.toNat).updTask u (·.onIo (fun o => { o with inbound := o.inbound ++ [n.toNat] })) else s
    (s.setH a movedFrom).retire 12
  else if hLk v then s.fault (hTrap cHSTATE a 1)
  else if 32 ≤ s.me.io.tiles || copyQueueMax ≤ (s.cluster cl).copyq.length then s.block
  else
    match firstFit (s.cluster cl').slots (hBr v * hBc v) with
    | none => s.fault (hTrap cSLOTS a 1)
    | some b =>
      let s := s.released true sc
      let w := mkHandle hPENDING (hOnyx v) (hTag v) false false 0 (hSteps v) (hBc v) (hBc v) (hBr v) b
      let s := s.onCluster cl' (fun c =>
        { c with slots := claimSlots c.slots s.me.tid.launch b (hBr v * hBc v),
                 refs := if hOnyx v then c.refs else Map.set c.refs b 1 })
      let s := (s.setHandle u n w).setH a movedFrom
      let t := s.me
      let q : CopyCmd := { owner := s.cur, core := t.pl.core, ctx := t.pl.ctx, lid := t.tid.lid, launch := t.tid.launch,
                           vf := t.tid.vf, what := .hsend v w cl' u n }
      let s := (s.onCluster cl (fun c => { c with copyq := c.copyq ++ [q] })).holdSend cl s.cur v u n.toNat
      (s.onMe (·.onIo (fun o => { o with tiles := o.tiles + 1 }))).retire 12

/-- The task that holds context k of a core: one that runs there, else one of the acting task's launch that is OUT (11 R230). -/
def State.holderOf (s : State) (g k : Nat) : Option Nat :=
  match s.taskAt g k with
  | some (u, _) => some u
  | none => (s.tasks.find? (fun p => p.2.pl.life == .resident && p.2.pl.run == .out && p.2.pl.core == g && p.2.pl.ctx == k &&
      p.2.tid.launch == s.me.tid.launch)).map (·.1)
/-- HSEND, R337: `core` holds the target core, k its context, n the target register. The move is a release (R321), and while it waits for
the target's answer a pending kill is taken (08 R170). TPLACE comes before HSTATE where both apply: log entry 120 (DESIGN CHOICE). -/
def execHsend (core : BitVec 5) (k n a : BitVec 4) (s : State) : Host.Outcome State Fault Refusal :=
  .next (s.matrix false [⟨1, a, .live, false⟩] (fun s =>
    let g := (s.x core).toNat
    let me := s.me
    let place := s.placeOk (s.x core)
    if place && s.holderOf g k.toNat == some s.cur then
      let tv := me.hreg n
      if n == a || hSt tv == hLIVE || hSt tv == hPENDING then s.fault (hTrap cHSTATE a 1)
      else ((s.setH n (me.hreg a)).setH a movedFrom).retire 12
    else s.atKillPoint (fun s =>
      if !place then s.fault (tileTrap cTPLACE (s.x core) 2)
      else
        match s.holderOf g k.toNat with
        | none => s.fault (hTrap cHSTATE a 1)
        | some u =>
          let sc := scopeOf packageOf me.pl.core g
          if s.scopeReached s.cur me.io.sq sc then s.hsendTo u g n a sc else s.block)))

/-! ### Images in memory, R339 -/

/-- Bits of an element in memory: 4 for INT4. -/
def imageWidth (t : Tag) (int4 : Bool) : Nat := if int4 then 4 else tileWidth t
/-- The blocks of an image in block row-major order: address and length. -/
def imageBlocks (va stride : Nat) (w br bc : Nat) : List (Word × Nat) :=
  (List.range br).flatMap (fun i => (List.range bc).map (fun j => (BitVec.ofNat 64 (va + i * stride + j * 128 * w), 128 * w)))

/-- Runs in ascending order of virtual address, in which refusals are looked for (R326). -/
def insertSeg (g : Seg) : List Seg → List Seg
  | [] => [g]
  | x :: xs => if g.va.toNat ≤ x.va.toNat then g :: x :: xs else x :: insertSeg g xs
def byAddress : List Seg → List Seg
  | [] => []
  | g :: gs => insertSeg g (byAddress gs)
/-- Translate blocks; where some are refused, the refusal of the lowest address (05 R124). -/
def State.xlateBlocks (s : State) (nd : Need) : List (Word × Nat) → Except XFault (List Seg) × State
  | [] => (.ok [], s)
  | (va, n) :: rest =>
    let (r, s) := s.xlate (s.agentOf s.cur) nd va n
    let (r', s) := s.xlateBlocks nd rest
    match r, r' with
    | .ok g, .ok gs => (.ok (g ++ gs), s)
    | .ok _, .error e => (.error e, s)
    | .error e, .ok _ => (.error e, s)
    | .error e, .error e' => (.error (if e'.va.toNat < e.va.toNat then e' else e), s)

/-- The alignment check of R339 on the base and the stride. -/
def State.imageAligned (s : State) (base : Word) (c : BitVec 5) (cont : State → State) : State :=
  if !aligned base 512 then s.trap cALIGN base
  else if c != 24#5 && !aligned (s.x c) 512 then s.trap cALIGN (s.x c)
  else cont s
/-- Blocks of the image of a tile for the acting task. -/
def State.imageOf (s : State) (base : Word) (c : BitVec 5) (h : Word) (w : Nat) : List (Word × Nat) :=
  imageBlocks base.toNat (if c == 24#5 then hBc h * 128 * w else (s.x c).toNat) w (hBr h) (hBc h)
/-- Whether an image must wait at issue: a queued store of the task that overlaps, a pin of another core, or the host agent
between a read and its write. -/
def State.imageWaits (s : State) (locs : List Nat) : Bool :=
  s.pinnedAway s.me.pl.core locs || s.hostBusy locs || s.me.io.sq.any (fun e => e.cells.any (fun c => locs.contains c.1)) ||
  s.tileBlocks locs || s.owesAt s.cur locs

/-- TLD, R339, R340: an acquire beyond the L1 reads at the die point (06 R127, R135). -/
def execTld (t : Tag) (int4 acq : Bool) (scope : BitVec 3) (d : BitVec 4) (a c : BitVec 5) (disp : BitVec 32)
    (s : State) : Host.Outcome State Fault Refusal :=
  .next (s.matrix true [⟨4, d, .onyx, false⟩] (fun s =>
    let v := s.me.hreg d
    let base := s.x a + disp.signExtend 64
    s.imageAligned base c (fun s =>
      match s.xlateBlocks { rd := true } (s.imageOf base c v (imageWidth t int4)) with
      | (.error e, s) => s.fault (e.trap 10#4 0#8)
      | (.ok gs, s) =>
        let locs := segLocs gs
        if s.imageWaits locs then s.block
        else
          Out.bind ((s.recallLocs s.me.tid.vf locs).passTo 10#4 .read (byAddress gs)) (fun _ s =>
            let w := hWithTag v t (if isRes t then 2 ^ 19 else 0)
            let s := ((s.noteReads locs).closeAt locs).setH d w
            (s.accept { owner := s.cur, pc := s.pc, what := .load t int4 locs, dst := w, vf := s.me.tid.vf,
                        acq := acq, wide := s.wideAcq acq scope, keys := s.segKeys s.me.tid.vf gs }).retire 12))))

/-- The formats that a res tile reconstructs to, R341, R344. -/
def resTarget (t : Tag) : Bool := t == .f64 || t == .f32 || t == .bf16 || t == .f16
/-- The scale registers of a reconstruction: row blocks, then column blocks (R324). -/
def State.scales (s : State) (rs cs : BitVec 4) (h : Word) : List (BitVec 32) :=
  (List.range (hBr h)).map (fun i => s.me.kreg (BitVec.ofNat 4 (rs.toNat + i))) ++
  (List.range (hBc h)).map (fun j => s.me.kreg (BitVec.ofNat 4 (cs.toNat + j)))
/-- The numbers of those registers in ascending order. -/
def scaleRegs (rs cs : BitVec 4) (h : Word) : List Nat :=
  (List.range 16).filter (fun k => (decide (rs.toNat ≤ k) && decide (k < rs.toNat + hBr h)) ||
    (decide (cs.toNat ≤ k) && decide (k < cs.toNat + hBc h)))
/-- Whether the scale registers exist, R341. -/
def scalesFit (rs cs : BitVec 4) (h : Word) : Bool :=
  decide (rs.toNat + hBr h - 1 ≤ 15) && decide (cs.toNat + hBc h - 1 ≤ 15)
/-- The scale check of 04 R102: of two bad ones the lower register's bits are reported. -/
def State.scaleCheck (s : State) (op : Nat) (rs cs : BitVec 4) (h : Word) (cont : State → State) : State :=
  match ((scaleRegs rs cs h).map (fun k => s.me.kreg (BitVec.ofNat 4 k))).find? badScale with
  | some k => s.fault (tileTrap cSCALE (k.setWidth 64) op)
  | none => cont s

/-- The tracking of a tst at issue (R326): the locations whose data is discarded under RESOLVE. -/
def State.trackTile (s : State) (gs : List Seg) : Out (List Nat) × State :=
  let locs := trackedLocs gs
  if !s.tracks || locs.isEmpty || s.me.tid.ord then
    match s.track 11#4 .write gs with
    | (.ok (), s) => (.ok [], s)
    | (.trap i, s) => (.trap i, s)
    | (.wait, s) => (.wait, s)
  else
    let t := s.me
    match s.trackAccess t.tid.launch { lid := t.tid.lid } t.tid.creatorLid .write locs with
    | .ok (s, lost) => (.ok (locs.filter (fun l => lost.contains (l / 4))), s)
    | .error f =>
      let (x, s) := s.otherLid f.other
      (.trap { code := f.code, tval := wordVa (segLocs gs) (segVas gs) f.word, kind := 11#4, xval := x },
        s.waive t.tid.launch)

/-- The image part of TST: translation, waits, tracking and acceptance. -/
def State.storeTile (s : State) (t : Tag) (rel : Bool) (scope : BitVec 3) (v base : Word) (c : BitVec 5)
    (scales : List (BitVec 32)) : State :=
  match s.xlateBlocks { w := true } (s.imageOf base c v (imageWidth t false)) with
  | (.error e, s) => s.fault (e.trap 11#4 0#8)
  | (.ok gs, s) =>
    let locs := segLocs gs
    if s.imageWaits locs || (rel && s.releaseWaits scope) then s.block
    else
      Out.bind (s.trackTile (byAddress gs)) (fun lost s =>
        let s := (s.released rel scope).closeAt locs
        (s.accept { owner := s.cur, pc := s.pc, what := .store locs (segVas gs) lost scales t, dst := v,
                    vf := s.me.tid.vf, rel := if rel then some scope else none,
                    keys := s.segKeys s.me.tid.vf gs }).retire 12)

/-- TST, R339, R341. -/
def execTst (t : Tag) (rel : Bool) (scope : BitVec 3) (d : BitVec 4) (a c : BitVec 5) (rs cs : BitVec 4)
    (disp : BitVec 32) (s : State) : Host.Outcome State Fault Refusal :=
  .next (s.matrix true [⟨5, d, .live, false⟩] (fun s =>
    let v := s.me.hreg d
    let tag := hTag v
    let base := s.x a + disp.signExtend 64
    let rec_ := isRes tag && resTarget t
    s.need (t == tag || rec_) (formatTrap 5 tag) (fun s =>
    s.need (!rec_ || scalesFit rs cs v) (hTrap cTSHAPE d 5) (fun s =>
    s.imageAligned base c (fun s =>
      if rec_ then s.scaleCheck 5 rs cs v (fun s => s.storeTile t rel scope v base c (s.scales rs cs v))
      else s.storeTile t rel scope v base c [])))))

/-! ### Arithmetic, R342-R344 -/

/-- The offending operand of a tmma's tags, R342: its code and its tag; none where they form a row of R324. -/
def mmaTags (a b c : Tag) : Option (Nat × Tag) :=
  let res (t : Tag) : Bool := t == .i8 || t == .e4m3
  let fp (t : Tag) : Bool := t == .bf16 || t == .f16 || t == .e5m2 || t == .f32
  if !(res a || fp a || a == .f64) then some (1, a)
  else if !(if res a then res b else b == a) then some (2, b)
  else if c != (if res a then .bits else if a == .f64 then .f64 else .f32) then some (4, c)
  else none
/-- The lowest of handle numbers. -/
def lowestHandle (hs : List (BitVec 4)) : Word := BitVec.ofNat 64 ((hs.map (·.toNat)).foldl min 15)

/-- TMMA, R342. -/
def execTmma (d a b : BitVec 4) (s : State) : Host.Outcome State Fault Refusal :=
  .next (s.matrix true [⟨1, a, .live, false⟩, ⟨2, b, .live, false⟩, ⟨4, d, .onyx, false⟩] (fun s =>
    let va := s.me.hreg a
    let vb := s.me.hreg b
    let vc := s.me.hreg d
    let steps := hSteps vc + hBc va
    match mmaTags (hTag va) (hTag vb) (hTag vc) with
    | some (op, t) => s.fault (formatTrap op t)
    | none =>
      s.need (hBr va == hBr vc && hBc vb == hBc vc && hBc va == hBr vb) (tileTrap cTSHAPE (lowestHandle [a, b, d]) 1) (fun s =>
      s.need (!isRes (hTag vc) || decide (steps ≤ 2 ^ 20)) (hTrap cRESRANGE d 4) (fun s =>
        let w := if isRes (hTag vc) then hWithTag vc .bits steps else vc
        ((s.setH d w).accept { owner := s.cur, pc := s.pc, what := .mma va vb, dst := w, vf := s.me.tid.vf }).retire 12))))

/-- TZERO, R343. -/
def execTzero (t : Tag) (d : BitVec 4) (s : State) : Host.Outcome State Fault Refusal :=
  .next (s.matrix true [⟨4, d, .onyx, false⟩] (fun s =>
    let w := hWithTag (s.me.hreg d) t 0
    ((s.setH d w).accept { owner := s.cur, pc := s.pc, what := .zero, dst := w, vf := s.me.tid.vf }).retire 12))

/-- The first word of an instruction, for ILL. -/
def firstWordOf (i : Instr) : Word :=
  match encode i with
  | some (w :: _) => w.setWidth 64
  | _ => 0#64

/-- TCVT, R344. -/
def execTcvt (t : Tag) (rm : BitVec 2) (d a rs cs : BitVec 4) (s : State) : Host.Outcome State Fault Refusal :=
  .next (s.matrix true [⟨1, a, .live, false⟩, ⟨4, d, .onyx, false⟩] (fun s =>
    let va := s.me.hreg a
    let vd := s.me.hreg d
    let src := hTag va
    let r := isRes src
    let ill : TrapInfo := { code := cILL, tval := firstWordOf (.tcvt t rm d a rs cs) }
    s.need (if r then resTarget t else src.isFp) (formatTrap 1 src) (fun s =>
    s.need (if r then rm == 0#2 else rs == 0#4 && cs == 0#4) ill (fun s =>
    s.need (hBr va == hBr vd && hBc va == hBc vd) (tileTrap cTSHAPE (lowestHandle [a, d]) 1) (fun s =>
    s.need (!r || scalesFit rs cs va) (hTrap cTSHAPE a 1) (fun s =>
      let go (s : State) (scales : List (BitVec 32)) : State :=
        let w := hWithTag vd t 0
        ((s.setH d w).accept { owner := s.cur, pc := s.pc, what := .cvt va scales rm, dst := w,
                               vf := s.me.tid.vf }).retire 12
      if r then s.scaleCheck 1 rs cs va (fun s => go s (s.scales rs cs va)) else go s []))))))

/-! ### Lineage, R345, R346 -/

/-- A child of a split: its lineage, block counts and base. -/
def childHandle (p : Word) (side : Bool) (lin br bc base : Nat) : Word :=
  mkHandle hLIVE true (hTag p) true side lin (hSteps p) (hPitch p) bc br base

/-- TSPLIT, R345: child 0 to d, child 1 to b. -/
def execTsplit (axis : Bool) (d a b : BitVec 4) (cut : BitVec 3) (s : State) : Host.Outcome State Fault Refusal :=
  let room (op : Nat) (h : BitVec 4) : List HOp := if h == a then [] else [⟨op, h, .room, false⟩]
  .next (s.matrix true (⟨1, a, .onyx, false⟩ :: (room 2 b ++ room 4 d)) (fun s =>
    let cl := clusterOf s.me.pl.core
    let p := s.me.hreg a
    let c := cut.toNat
    s.need (c != 0 && decide (c < (if axis then hBc p else hBr p))) (hTrap cTSHAPE a 1) (fun s =>
      match (List.range 1024).find? (fun i => (Map.get? (s.cluster cl).lineage i).isNone) with
      | none => s.fault (tileTrap cLINEAGE 0#64 1)
      | some i =>
        let e : Lineage := { parent := p, axis := axis, cut := cut, launch := s.me.tid.launch }
        let s := s.onCluster cl (fun k => { k with lineage := Map.set k.lineage i e })
        let c0 := if axis then childHandle p false i (hBr p) c (hBase p) else childHandle p false i c (hBc p) (hBase p)
        let c1 := if axis then childHandle p true i (hBr p) (hBc p - c) (hBase p + c)
          else childHandle p true i (hBr p - c) (hBc p) (hBase p + c * hPitch p)
        (((s.setH a movedFrom).setH d c0).setH b c1).retire 12)))

/-- The destination a waiting trejoin holds, and its value, R346. -/
def reserved : Word := 0x8000000000000000#64
/-- Undo a reservation. -/
def Task.unreserve (t : Task) : Task :=
  match t.pl.reserve with
  | some (h, v) => (t.setH h v).onPl (fun p => { p with reserve := none })
  | none => t
/-- End a reservation; its register is written by the caller. -/
def Task.dropReserve (t : Task) : Task := t.onPl (fun p => { p with reserve := none })

/-- The checks of R323. -/
def State.rejoins (s : State) (va vb : Word) : Option Lineage :=
  let cl := clusterOf s.me.pl.core
  if hOnyx va && hOnyx vb && hLk va && hLk vb && hLin va == hLin vb && !hSide va && hSide vb && hTag va == hTag vb then
    match Map.get? (s.cluster cl).lineage (hLin va) with
    | some e => if e.launch == s.me.tid.launch then some e else none
    | none => none
  else none

/-- TREJOIN, R346. -/
def execTrejoin (d a b : BitVec 4) (s : State) : Host.Outcome State Fault Refusal :=
  let undo (s : State) : State := s.onMe Task.unreserve
  let other := d != a && d != b
  .next (if s.provisional s.cur || 32 ≤ s.me.io.tiles then s.block
    else
      let va := s.me.hreg a
      let vb := s.me.hreg b
      let vd := s.me.hreg d
      let held := s.me.pl.reserve.isSome
      if other && !held && hSt vd == hPENDING && s.commandHolds s.cur d.toNat then s.block
      else if hSt va == hMOVED then (undo s).fault (hTrap cMOVED a 1)
      else if hSt vb == hMOVED then (undo s).fault (hTrap cMOVED b 2)
      else if hSt va == hEMPTY then (undo s).fault (hTrap cHSTATE a 1)
      else if hSt vb == hEMPTY then (undo s).fault (hTrap cHSTATE b 2)
      else if other && !held && (hSt vd == hLIVE || hSt vd == hPENDING) then s.fault (hTrap cHSTATE d 4)
      else if hSt va == hPENDING || hSt vb == hPENDING then
        let s := if other && !held then
            (s.onMe (·.onPl (fun p => { p with reserve := some (d, vd) }))).setH d reserved
          else s
        s.block
      else
        if !(s.poisonIn [va, vb]).isEmpty then (undo s).consume [va, vb] id
        else
          match s.rejoins va vb with
          | none => (undo s).fault (hTrap cREJOIN a 1)
          | some e =>
            let cl := clusterOf s.me.pl.core
            let s := s.onCluster cl (fun k => { k with lineage := Map.del k.lineage (hLin va) })
            let w := hWithTag e.parent (hTag va) (max (hSteps va) (hSteps vb))
            ((((s.onMe Task.dropReserve).setH a movedFrom).setH b movedFrom).setH d w).retire 12)

end Sys2Proof.Machine
end

