-- ==== Sys2Proof/Machine/TileExec.lean ====
section
/-! DEFINITION. What accepted tile instructions do to data when they complete (16 R324, R325; 04 R97-R104; 17
R339-R344). -/
namespace Sys2Proof.Machine

/-! ### Products -/

/-- An operand element of the residue path as an integer of 2^-9, 04 R99. -/
def residueOperand (t : Tag) (x : Nat) : Int × BitVec 5 :=
  if t == .i8 then (asSigned 8 x * 512, 0#5)
  else
    match fpDecode .e4m3 x with
    | .fin n m e => ((if n then -1 else 1) * ((m * 2 ^ (e + 9).toNat : Nat) : Int), 0#5)
    | .inf _ => (0, 0#5)
    | .nan _ => (0, fNV)

/-- One block step of the residue path: an exact sum of 32 products added to the residues, R97-R99. -/
def residueStep (ta tb : Tag) (row col : List Nat) (acc : Nat) : Nat × BitVec 5 :=
  let xs := row.map (residueOperand ta)
  let ys := col.map (residueOperand tb)
  let sum := ((xs.zip ys).map (fun p => p.1.1 * p.2.1)).sum
  let fl := (xs ++ ys).foldl (fun f p => f ||| p.2) 0#5
  (resAdd acc (resOf sum), fl)
/-- One block step into an f32 accumulator, 04 R104: the tree of the exact products, then one addition. -/
def treeStep (t : Tag) (row col : List Nat) (acc : Nat) : Nat × BitVec 5 :=
  let ps := row.zipWith (fun x y => fpMulV (fpDecode t x) (fpDecode t y)) col
  let f0 := ps.foldl (fun f p => f ||| p.2) 0#5
  let (v, f1) := treeSum 0#2 .f32 5 (ps.map (·.1))
  let (w, f2) := fpSumV 0#2 (fpDecode .f32 acc) v
  let (r, f3) := fpPack 0#2 .f32 w
  (r, f0 ||| f1 ||| f2 ||| f3)
/-- One block step of the f64 path, 04 R104: fused steps in ascending k. -/
def fusedStep (row col : List Nat) (acc : Nat) : Nat × BitVec 5 :=
  (row.zip col).foldl (fun a p =>
    let (r, f) := fpFma 0#2 .f64 false false p.1 p.2 a.1
    (r, a.2 ||| f)) (acc, 0#5)
/-- One block step of one element. -/
def mmaStep (ta tb : Tag) (row col : List Nat) (acc : Nat) : Nat × BitVec 5 :=
  if ta == .f64 then fusedStep row col acc
  else if ta == .i8 || ta == .e4m3 then residueStep ta tb row col acc
  else treeStep ta row col acc

/-- The rows of a block of 32 x 32 elements. -/
def blockRows (es : List Nat) : List (List Nat) := chunks 32 32 es
/-- Its columns. -/
def blockCols (es : List Nat) : List (List Nat) :=
  let rows := blockRows es
  (List.range 32).map (fun j => rows.map (fun r => (r[j]?).getD 0))
/-- One block step of a block of C. -/
def mmaBlock (ta tb : Tag) (a b c : List Nat) : List Nat × BitVec 5 :=
  let cols := blockCols b
  let places := (blockRows a).flatMap (fun r => cols.map (fun q => (r, q)))
  let out := places.zipWith (fun p x => mmaStep ta tb p.1 p.2 x) c
  (out.map (·.1), out.foldl (fun f p => f ||| p.2) 0#5)
/-- The K extent of a block of C in ascending order. -/
def mmaChain (ta tb : Tag) : List (List Nat × List Nat) → List Nat × BitVec 5 → List Nat × BitVec 5
  | [], acc => acc
  | (a, b) :: rest, (c, f) =>
    let (c', f') := mmaBlock ta tb a b c
    mmaChain ta tb rest (c', f ||| f')

/-! ### Completion -/

/-- Whether entry k of a core's tile queue may complete: no older entry names an overlapping slot (R325). -/
def tileReady (q : List TileOp) (k : Nat) : Bool :=
  match q[k]? with
  | none => false
  | some o => !(q.take k).any (fun p => p.names.any (fun x => o.names.any (fun y => hOverlap x y)))

/-- The scales of block k of a tile, in block row-major order. -/
def blockScales (scales : List (BitVec 32)) (h : Word) (k : Nat) : BitVec 32 × BitVec 32 :=
  ((scales[k / hBc h]?).getD 0#32, (scales[hBr h + k % hBc h]?).getD 0#32)
/-- Reconstruct the blocks of a res tile, 04 R101. -/
def reconstructAll (t : Tag) (scales : List (BitVec 32)) (h : Word) (blocks : List (List Nat)) : List (List Nat) × BitVec 5 :=
  let out := blocks.mapIdx (fun k es =>
    let (sa, sb) := blockScales scales h k
    es.map (reconstruct t sa sb))
  (out.map (fun es => es.map (·.1)), out.foldl (fun f es => es.foldl (fun g p => g ||| p.2) f) 0#5)

/-- The elements of a block of an image, R85, R340: nibbles of INT4 become i8. -/
def imageElems (t : Tag) (int4 : Bool) (bs : List Byte) : List Nat :=
  if int4 then
    bs.flatMap (fun b =>
      let nib (x : Nat) : Nat := if x < 8 then x else x + 240
      [nib (b.toNat % 16), nib (b.toNat / 16)])
  else groupBytes (tileWidth t / 8) 1024 bs

/-- A byte that the engine reads for the owner of a tile load (01 R25); a task that is gone has no versions. -/
def State.ownerByte (s : State) (u g loc : Nat) : Byte :=
  match Map.get? s.tasks u with
  | some _ => (s.homeByte u loc).1
  | none => s.viewed g loc

/-- Words of a slot run that are written whole are no longer poisoned (25 R440). -/
def State.cureSlots (s : State) (cl : Nat) (h : Word) : State :=
  if s.ms.poison.isEmpty then s
  else
    let n := blockBytes (hTag h)
    let hit (w : Nat) : Bool := (hSlots h).any (fun sl => decide (opmBase cl sl ≤ 4 * w) && decide (4 * w < opmBase cl sl + n))
    s.onMs (fun m => { m with poison := m.poison.filter (fun p => !hit p.1) })

/-- Write the elements of a tile. -/
def State.putTile (s : State) (cl : Nat) (h : Word) (blocks : List (List Nat)) : State :=
  (s.setBlocks cl (hTag h) (hSlots h) blocks).cureSlots cl h

/-- The data effect of an accepted instruction: the new state and its flags, or none where a tile store must wait for a
pin or for version room. A tcvt between equal formats copies, as vcvt does (10 R228). Log entry 83 (DEDUCED). The elements of an
image are read or written in one step, where other accesses may come between them (17 R339). Log entry 121 (DESIGN CHOICE). -/
def State.tileEffect (s : State) (g : Nat) (o : TileOp) : Option (BitVec 5) × State :=
  let cl := clusterOf g
  let h := o.dst
  match o.what with
  | .zero => (some 0#5, s.putTile cl h ((hSlots h).map (fun _ => List.replicate 1024 0)))
  | .load t int4 locs =>
    let s := if o.wide then s.flushL1 (coreSees g) locs else s
    let s := (s.underKeys o.vf o.keys locs).tookReplica o.vf (dieOf g) locs
    let bs := locs.map (s.ownerByte o.owner g)
    let blocks := (chunks (128 * (if int4 then 4 else tileWidth t)) 64 bs).map (imageElems t int4)
    (some 0#5, s.putTile cl h (if isRes t then blocks.map (·.map resCanon) else blocks))
  | .cvt src scales rm =>
    let t := hTag h
    let t0 := hTag src
    let blocks := s.tileElems cl src t0
    let (out, f) :=
      if isRes t0 then reconstructAll t scales src blocks
      else if t0 == t then (blocks, 0#5)
      else
        let r := blocks.map (fun es => es.map (fpConv rm t0 t))
        (r.map (fun es => es.map (·.1)), r.foldl (fun f es => es.foldl (fun g p => g ||| p.2) f) 0#5)
    (some f, s.putTile cl h out)
  | .mma a b =>
    let ta := hTag a
    let tb := hTag b
    let ea := s.tileElems cl a ta
    let eb := s.tileElems cl b tb
    let ec := s.tileElems cl h (hTag h)
    let out := ec.mapIdx (fun k c =>
      let i := k / hBc h
      let j := k % hBc h
      mmaChain ta tb ((List.range (hBc a)).map (fun q =>
        ((ea[i * hBc a + q]?).getD [], (eb[q * hBc b + j]?).getD []))) (c, 0#5))
    (some (out.foldl (fun f p => f ||| p.2) 0#5), s.putTile cl h (out.map (·.1)))
  | .store locs _ lost scales t =>
    let t0 := hTag h
    let blocks := s.tileElems cl h t0
    let (es, f) := if isRes t0 && resTarget t then reconstructAll t scales h blocks else (blocks, 0#5)
    let bs := es.flatMap (fun b => b.flatMap (leBytes (tileWidth t / 8)))
    let cells := (locs.zip bs).filter (fun c => !lost.contains c.1)
    if s.pinnedAway g locs then (none, s)
    else
      match Map.get? s.tasks o.owner with
      | none => (some f, if o.dead then s
          else ((s.recallLocs o.vf locs).underKeys o.vf o.keys locs).writeCells o.vf (dieOf g) 0 none cells)
      | some _ =>
        match s.placeBytes o.owner cells 0 o.keys with
        | (.ok (), s) => (some f, s.noteWrote o.owner cells)
        | (_, s) => (none, s)

/-- Whether a release that a tile store carries is still to be performed at its scope, 06 R142. -/
def State.relPending (s : State) (g : Nat) (o : TileOp) : Bool :=
  match o.rel with
  | some sc => decide (3 ≤ sc.toNat) && s.flightsPending (dieOf g)
  | none => false
/-- Entry k of a core's queue is complete: T, and what waited for it. -/
def State.tileDone (s : State) (g k : Nat) (o : TileOp) : State :=
  let s := (s.onCore g (fun c => { c with tileq := c.tileq.eraseIdx k })).updTask o.owner
    (·.onIo (fun x => { x with tiles := x.tiles - 1 }))
  (s.settleSlots (clusterOf g)).settlePending (clusterOf g)
/-- TILE_COMPLETE for entry k of a core's queue, R325: the data and the flags (04 R96); then, a release not before it is performed
at its scope, its end. Log entry 78 (DEDUCED). -/
def State.completeTile (s : State) (g k : Nat) : State :=
  let q := (s.coreSt g).tileq
  match q[k]? with
  | none => s
  | some o =>
    if o.wrote then (if s.relPending g o then s else s.tileDone g k o)
    else if !tileReady q k then s
    else
      match s.tileEffect g o with
      | (none, s) => s
      | (some f, s) =>
        let steps := match o.what with
          | .mma a _ => hBr o.dst * hBc o.dst * hBc a
          | _ => 0
        let s := (s.lateFlags o.owner f).updTask o.owner (·.count 2 0 steps)
        if s.relPending g o then
          s.onCore g (fun c => { c with tileq := c.tileq.set k { o with wrote := true } })
        else s.tileDone g k o

end Sys2Proof.Machine
end

