-- ==== Sys2Proof/Machine/Copy.lean ====
section
/-! DEFINITION. Copy commands at issue (15 R296-R304), and cwait, cstat and sleepu (R310, R311). -/
namespace Sys2Proof.Machine

/-! ### Acceptance -/

def cCSHAPE : BitVec 8 := 0x30#8
def cCKEY : BitVec 8 := 0x33#8
def cCID : BitVec 8 := 0x34#8

/-- Lpath of an endpoint by where its address lies, R297; none for an address that lies nowhere. -/
def State.pathOf (s : State) (va : Word) : Option Nat :=
  let t := s.me
  let p := s.part t.tid.vf
  let cl := clusterOf t.pl.core
  match selectVa p cl va with
  | .bad => none
  | .clm c _ => some (if c == cl then 30 else if c / 10 == cl / 10 then 40 else 140)
  | .xlat =>
    match (s.walk t.tid.vf va).1 with
    | .error _ => none
    | .ok (e, lv) =>
      let pa := ptePage e + va.toNat % 2 ^ levelShift lv
      if 2 ^ 51 ≤ pa then some 1000
      else
        match p.links[pa / 2 ^ 39 % 64]? with
        | some (pkg, _) => if 16 ≤ pkg then none else some (if pkg == s.hub.pkg then 210 else 400)
        | none => none
/-- The larger Lpath of endpoints. -/
def slowest : List (Option Nat) → Option Nat
  | [] => some 0
  | p :: ps =>
    match p, slowest ps with
    | some a, some b => some (max a b)
    | _, _ => none

/-- The identifier after a count, R296: 0 is skipped. -/
def nextId (cc : BitVec 16) : BitVec 16 := if cc == 0xFFFF#16 then 1#16 else cc + 1#16
/-- Keep the state of the 64 latest identifiers, and every record still unreported or busy (R296, R307). -/
def trimRecs (rs : List CopyRec) : List CopyRec :=
  let old := rs.take (rs.length - 64)
  old.filter (fun r => r.unreported || r.st == .busy) ++ rs.drop (rs.length - 64)

/-- What a command is, for its acceptance: its minor, the bytes it writes, the rate of R297, its endpoints' Lpath, its
transfer, and its flags. -/
structure CopyAsk where
  fn : BitVec 8
  bytes : Nat
  rate : Nat := 128
  paths : List (Option Nat)
  what : CopyKind
  acq : Bool
  rel : Bool
  scope : BitVec 3

/-- The scope at which what comes before an engine's command with acq must be performed: the engine belongs to the cluster and to
no core (06 R126, R142). -/
def engineScope (acq : Bool) (scope : BitVec 3) : BitVec 3 := if acq && scope == 0#3 then 1#3 else scope
/-- Accept a command, R299: the identifier, the promise and the queue entry. With acq or rel it waits for the task's
earlier accesses (06 R142). A command of no bytes is DONE at issue (R300). Where an endpoint lies nowhere, Lpath is a free value.
Log entries 37 (DEDUCED), 103 (DESIGN CHOICE). -/
def State.copyIssue (s : State) (d e : BitVec 5) (q : CopyAsk) (mark : State → State) : State :=
  let cl := clusterOf s.me.pl.core
  if s.provisional s.cur then s.block
  else if copyQueueMax ≤ (s.cluster cl).copyq.length || 32 ≤ s.me.io.copies then s.block
  else if (q.acq || q.rel) && s.releaseWaits (engineScope q.acq q.scope) then s.block
  else
    let s := s.released q.rel q.scope
    let id := nextId s.me.io.cc
    let busy := (s.cluster cl).busy
    let w := (if busy.toNat < s.dtime.toNat then s.dtime else busy) + BitVec.ofNat 64 ((q.bytes + q.rate - 1) / q.rate)
    let (l, s) : Word × State :=
      match slowest q.paths with
      | some n => (BitVec.ofNat 64 n, s)
      | none =>
        let (k, s) := s.takeFree
        (Config.freeWord k, s)
    let promise := w + l
    let t := s.me
    let r : CopyRec := { id := id, st := if q.bytes == 0 then .done else .busy, fn := q.fn, promise := some promise }
    let cmd : CopyCmd :=
      { owner := s.cur, core := t.pl.core, ctx := t.pl.ctx, lid := t.tid.lid, launch := t.tid.launch, vf := t.tid.vf,
        id := id, what := q.what, acq := q.acq, rel := q.rel, scope := q.scope, size := q.bytes,
        creatorLid := t.tid.creatorLid, ord := t.tid.ord, track := s.tracks }
    let s := s.onCluster cl (fun c => { c with busy := w, copyq := if q.bytes == 0 then c.copyq else c.copyq ++ [cmd] })
    let s := if q.bytes == 0 then s else mark s
    let s := s.onMe (·.onIo (fun o => { o with cc := id, crecs := trimRecs (o.crecs ++ [r]) }))
    let s := s.setX d (id.setWidth 64)
    let s := s.setX e (if s.timeClosed then 0#64 else promise)
    s.retire 12
/-- A command that holds no handle. -/
def State.copyPlain (s : State) (d e : BitVec 5) (q : CopyAsk) : State := s.copyIssue d e q id

/-! ### Shapes -/

/-- C1D, R300. -/
def execC1d (acq rel : Bool) (scope : BitVec 3) (d a b c e : BitVec 5) (s : State) : Host.Outcome State Fault Refusal :=
  .next (if (s.x c).toNat / 2 ^ 32 != 0 then s.trap cCSHAPE (s.x c)
    else
      let n := (s.x c).toNat
      s.copyPlain d e { fn := 1#8, bytes := n, paths := [s.pathOf (s.x a), s.pathOf (s.x b)],
                        what := .shape (s.x b) (s.x a) n 1 1 0#64 0#64 0#64 0#64, acq := acq, rel := rel, scope := scope })

/-- A shape descriptor's limits, R300. -/
def shapeOk (ws : List Nat) (three : Bool) : Bool :=
  let w0 := ws.headD 0
  let w1 := (ws[1]?).getD 0
  let n2 := w1 / 2 ^ 24 % 2 ^ 24
  let n1 := w1 % 2 ^ 24
  decide (1 ≤ w0) && decide (w0 ≤ 2 ^ 24) && w1 / 2 ^ 48 == 0 && decide (1 ≤ n1) && decide (n1 ≤ 65536) &&
  decide (1 ≤ n2) && decide (n2 ≤ 65536) && (three || n2 == 1)

/-- What a load has recorded is as it was: a precise fault that follows leaves it so (03 R82). -/
def State.unread (s old : State) : State :=
  let o := old.me.io
  (s.onMs (fun m => { m with track := old.ms.track })).onMe
    (·.onIo (fun x => { x with reads := o.reads, unord := o.unord, lq := o.lq, early := o.early }))
/-- C2D and C3D, R300: the descriptor is read as one load of the task, of words that may have been read ahead (06 R129). -/
def State.copyShape (s : State) (three acq rel : Bool) (scope : BitVec 3) (d a b c e : BitVec 5) : State :=
  let at_ := s.x c
  if !aligned at_ 8 then s.trap cALIGN at_
  else
    let old := s
    Out.bind (s.readRun 1#4 at_ 48) (fun r s =>
      let ws := groupBytes 8 6 (s.takeEarly old.me.io.early r)
      let w (i : Nat) : Nat := (ws[i]?).getD 0
      if !shapeOk ws three then (s.unread old).trap cCSHAPE at_
      else
        let n1 := w 1 % 2 ^ 24
        let n2 := w 1 / 2 ^ 24 % 2 ^ 24
        s.copyPlain d e { fn := if three then 3#8 else 2#8, bytes := w 0 * n1 * n2,
                          paths := [s.pathOf (s.x a), s.pathOf (s.x b)],
                          what := .shape (s.x b) (s.x a) (w 0) n1 n2 (BitVec.ofNat 64 (w 2)) (BitVec.ofNat 64 (w 3))
                            (BitVec.ofNat 64 (w 4)) (BitVec.ofNat 64 (w 5)),
                          acq := acq, rel := rel, scope := scope })

/-- C2D, R300. -/
def execC2d (acq rel : Bool) (scope : BitVec 3) (d a b c e : BitVec 5) (s : State) : Host.Outcome State Fault Refusal :=
  .next (s.copyShape false acq rel scope d a b c e)

/-- C3D, R300. -/
def execC3d (acq rel : Bool) (scope : BitVec 3) (d a b c e : BitVec 5) (s : State) : Host.Outcome State Fault Refusal :=
  .next (s.copyShape true acq rel scope d a b c e)

/-- CFILL, R301. -/
def execCfill (acq rel : Bool) (scope : BitVec 3) (d a b c e : BitVec 5) (s : State) : Host.Outcome State Fault Refusal :=
  .next (if (s.x c).toNat / 2 ^ 32 != 0 then s.trap cCSHAPE (s.x c)
    else s.copyPlain d e { fn := 5#8, bytes := (s.x c).toNat, paths := [s.pathOf (s.x a)],
                           what := .fill (s.x a) (s.x b) (s.x c).toNat, acq := acq, rel := rel, scope := scope })

/-- Bytes of a tile's image. -/
def imageBytes (h : Word) : Nat := hBr h * hBc h * blockBytes (hTag h)
/-- While a command uses a tile its handle is PENDING, R302. -/
def State.holdHandle (h : BitVec 4) (v : Word) (s : State) : State := s.setH h (hWithSt v hPENDING)

/-- CTILE_LD, R302. -/
def execCtileLd (acq rel : Bool) (scope : BitVec 3) (d a : BitVec 5) (b : BitVec 4) (e : BitVec 5) (s : State) :
    Host.Outcome State Fault Refusal :=
  let v := s.me.hreg b
  .next (if hSt v == hPENDING then s.block
    else if hSt v == hMOVED then s.trap cMOVED (b.setWidth 64)
    else if hSt v != hLIVE || !hOnyx v || hTag v == .empty then s.trap cCSHAPE (b.setWidth 64)
    else if !aligned (s.x a) 512 then s.trap cALIGN (s.x a)
    else s.consume [v] (fun s =>
      let w := if isRes (hTag v) then hWithTag v (hTag v) (2 ^ 19) else v
      s.copyIssue d e { fn := 4#8, bytes := imageBytes v, paths := [s.pathOf (s.x a), some 20],
                        what := .tileLd b w (s.x a), acq := acq, rel := rel, scope := scope } (State.holdHandle b w)))

/-- CTILE_ST, R302. -/
def execCtileSt (acq rel : Bool) (scope : BitVec 3) (d a : BitVec 5) (b : BitVec 4) (e : BitVec 5) (s : State) :
    Host.Outcome State Fault Refusal :=
  let v := s.me.hreg b
  .next (if hSt v == hPENDING then s.block
    else if hSt v == hMOVED then s.trap cMOVED (b.setWidth 64)
    else if hSt v != hLIVE then s.trap cCSHAPE (b.setWidth 64)
    else if !aligned (s.x a) 512 then s.trap cALIGN (s.x a)
    else s.consume [v] (fun s =>
      s.copyIssue d e { fn := 4#8, bytes := imageBytes v, paths := [s.pathOf (s.x a), some 20],
                        what := .tileSt b v (s.x a), acq := acq, rel := rel, scope := scope } (State.holdHandle b v)))

/-- CUNSEAL, R303, R304: the key is taken at issue (23 R421). Log entry 36 (DEDUCED). -/
def execCunseal (acq rel : Bool) (scope : BitVec 3) (tile : Bool) (d a b c e : BitVec 5) (s : State) :
    Host.Outcome State Fault Refusal :=
  let h : BitVec 4 := a.setWidth 4
  let v := s.me.hreg h
  let x := (s.x c).toNat
  let slot := x % 16
  let k := x / 2 ^ 16 % 2 ^ 16
  let st := hSt v
  .next (if tile && st == hPENDING then s.block
    else if tile && st == hMOVED then s.trap cMOVED (h.setWidth 64)
    else if tile && (st != hLIVE || !hOnyx v) then s.trap cHSTATE (h.setWidth 64)
    else if slot == 0 || x / 16 % 2 ^ 12 != 0 || k == 0 then s.trap cCSHAPE (s.x c)
    else if !tile && !aligned (s.x a) 128 then s.trap cCSHAPE (s.x a)
    else if tile && imageBytes v != k * 4096 then s.trap cCSHAPE (h.setWidth 64)
    else if !aligned (s.x b) 64 then s.trap cALIGN (s.x b)
    else
      match Map.get? (s.vf s.me.tid.vf).keys slot with
      | none => s.trap cCKEY (BitVec.ofNat 64 slot)
      | some (key, _) => s.consume (if tile then [v] else []) (fun s =>
        let ask : CopyAsk :=
          { fn := 6#8, bytes := k * 4096, rate := 64,
            paths := [s.pathOf (s.x b), if tile then some 20 else s.pathOf (s.x a)],
            what := .unseal (s.x a) (if tile then some (h, v) else none) (s.x b) slot (x / 2 ^ 32) k key,
            acq := acq, rel := rel, scope := scope }
        s.copyIssue d e ask (fun s => if tile then s.holdHandle h v else s)))

/-! ### Waiting -/

/-- The record of an identifier that the engine keeps, R296. -/
def Io.copyRec (o : Io) (id : Word) : Option CopyRec :=
  if id == 0#64 || 2 ^ 16 ≤ id.toNat then none
  else (o.crecs.drop (o.crecs.length - 64)).find? (fun r => r.id == id.setWidth 16)

/-- Report the unreported fault record of one command, R307, else go on. -/
def State.reportOne (s : State) (id : BitVec 16) (cont : State → State) : State :=
  s.reportCopy (fun r => r.id == id) cont

/-- CWAIT, R310. -/
def execCwait (a : BitVec 5) (s : State) : Host.Outcome State Fault Refusal :=
  .next (s.atKillPoint (fun s =>
    match s.me.io.copyRec (s.x a) with
    | none => s.trap cCID (s.x a)
    | some r => if r.st == .busy then s.block else s.reportOne r.id (fun s => s.retire 4)))

/-- CSTAT, R310. Log entry 104 (DESIGN CHOICE). -/
def execCstat (d a : BitVec 5) (s : State) : Host.Outcome State Fault Refusal :=
  .next (match s.me.io.copyRec (s.x a) with
    | none => s.trap cCID (s.x a)
    | some r =>
      if s.timeClosed then s.trap cTIME 0#64
      else s.result d (match r.st with | .busy => 0#64 | .done => 1#64 | .fault => 2#64) 4)

/-- SLEEPU, R311. -/
def execSleepu (a : BitVec 5) (slack : BitVec 32) (s : State) : Host.Outcome State Fault Refusal :=
  .next (s.atKillPoint (fun s =>
    match s.me.io.copyRec (s.x a) with
    | none => s.trap cCID (s.x a)
    | some r =>
      if r.st != .busy then s.reportOne r.id (fun s => s.retire 12)
      else
        match r.promise with
        | some p =>
          if s.det || s.dtime.toNat < p.toNat + slack.toNat then s.block
          else
            let s := s.onMe (·.onIo (fun o => { o with crecs := o.crecs.map (fun q =>
              if q.id == r.id then { q with promise := none } else q) }))
            s.trap cPROMISE (s.x a)
        | none => s.block))

end Sys2Proof.Machine
end

