-- ==== Sys2Proof/Machine/CopyExec.lean ====
section
/-! DEFINITION. The copy engine at work: turns, beats, faults and completion (15 R295, R300-R307, R312, R313). -/
namespace Sys2Proof.Machine

/-! ### The byte stream of a command -/

/-- One end of a piece of a transfer: a virtual address, a location of operand memory, or bytes the engine holds. -/
inductive CopyEnd where
  | va (a : Word)
  | at_ (loc : Nat)
  | held (bs : List Byte)
deriving DecidableEq, Repr
/-- A piece: where its bytes come from, where they go, and how many they are. -/
structure Piece where
  src : CopyEnd
  dst : CopyEnd
  n : Nat
deriving DecidableEq, Repr

/-- The location of byte i of a tile's image (02 R50). -/
def tileLoc (cl : Nat) (h : Word) (i : Nat) : Nat :=
  let bb := blockBytes (hTag h)
  opmBase cl (((hSlots h)[i / bb]?).getD 0) + i % bb
/-- Bytes of a tile's image from byte i to the end of its block. -/
def blockRest (h : Word) (i : Nat) : Nat := blockBytes (hTag h) - i % blockBytes (hTag h)

/-- The piece at byte i of a command's stream, at most m bytes, R300-R304. -/
def CopyCmd.piece (q : CopyCmd) (cl i m : Nat) : Piece :=
  let off (w : Word) (k : Nat) : Word := w + BitVec.ofNat 64 k
  match q.what with
  | .shape src dst len n1 _ srow drow splane dplane =>
    let o := i % len
    let r : Word := BitVec.ofNat 64 (i / len % n1)
    let p : Word := BitVec.ofNat 64 (i / (len * n1))
    { src := .va (off (src + p * splane + r * srow) o), dst := .va (off (dst + p * dplane + r * drow) o),
      n := min m (len - o) }
  | .fill dst pat _ =>
    let bs := leBytes 8 pat.toNat
    { src := .held ((List.range m).map (fun k => (bs[(i + k) % 8]?).getD 0#8)), dst := .va (off dst i), n := m }
  | .tileLd _ hv addr => { src := .va (off addr i), dst := .at_ (tileLoc cl hv i), n := min m (blockRest hv i) }
  | .tileSt _ hv addr => { src := .at_ (tileLoc cl hv i), dst := .va (off addr i), n := min m (blockRest hv i) }
  | .unseal dst tile _ _ _ _ _ =>
    let bs := (q.plain.drop (i % 4096)).take m
    match tile with
    | some (_, hv) =>
      let n := min m (blockRest hv i)
      { src := .held (bs.take n), dst := .at_ (tileLoc cl hv i), n := n }
    | none => { src := .held bs, dst := .va (off dst i), n := m }
  | .hsend hv hv' cl' _ _ =>
    { src := .at_ (tileLoc cl hv i), dst := .at_ (tileLoc cl' hv' i), n := min m (blockRest hv i) }

/-- The number by which an end is aligned. -/
def CopyEnd.addr : CopyEnd → Nat
  | .va a => a.toNat
  | .at_ l => l
  | .held _ => 0
/-- Bytes of the beat from byte i, at most m: no aligned 8-byte destination word is cut (R305). -/
def CopyCmd.beatLen (q : CopyCmd) (cl i m : Nat) : Nat :=
  let dst (k : Nat) : Nat := (q.piece cl k 1).dst.addr
  (((List.range m).map (m - ·)).find? (fun n => dst (i + n - 1) / 8 != dst (i + n) / 8)).getD m

/-- The pieces of a beat of m bytes from byte i. -/
def CopyCmd.pieces (q : CopyCmd) (cl : Nat) : Nat → Nat → Nat → List Piece
  | 0, _, _ => []
  | f + 1, i, m =>
    if m == 0 then []
    else
      let p := q.piece cl i m
      p :: q.pieces cl f (i + p.n) (m - p.n)

/-! ### A beat -/

/-- A fault of a command, R307. -/
structure CopyFault where
  detail : BitVec 8
  tval : Word
  wlev : BitVec 4 := 0xF#4
deriving DecidableEq, Repr
def XFault.copy (e : XFault) : CopyFault := { detail := e.code, tval := e.va, wlev := e.wlev }

/-- The agent of a command's accesses, R305. Log entry 52 (DEDUCED). -/
def State.copyAgent (s : State) (q : CopyCmd) : Agent :=
  { engineAgent q.vf (clusterOf q.core) with core := q.core, det := dmodeOf (s.launch q.launch).mode != 0 }

/-- A translated end of a piece: its runs in memory, or locations of operand memory, or bytes. -/
structure Placed where
  gs : List Seg := []
  locs : List Nat := []
  vas : List Nat := []
  bs : Option (List Byte) := none
deriving DecidableEq, Repr
/-- Translate one end. -/
def State.placeEnd (s : State) (who : Agent) (nd : Need) (e : CopyEnd) (n : Nat) : Except CopyFault Placed × State :=
  match e with
  | .va a =>
    match s.xlate who nd a n with
    | (.error x, s) => (.error x.copy, s)
    | (.ok gs, s) => (.ok { gs := gs, locs := segLocs gs, vas := segVas gs }, s)
  | .at_ l => (.ok { locs := locRange l n, vas := List.replicate n 0 }, s)
  | .held bs => (.ok { bs := some bs }, s)
/-- Translate the ends of pieces in stream order. Log entry 35 (DEDUCED). -/
def State.placeEnds (s : State) (who : Agent) (nd : Need) : List (CopyEnd × Nat) → Except CopyFault (List Placed) × State
  | [] => (.ok [], s)
  | (e, n) :: rest =>
    match s.placeEnd who nd e n with
    | (.error x, s) => (.error x, s)
    | (.ok p, s) =>
      match s.placeEnds who nd rest with
      | (.error x, s) => (.error x, s)
      | (.ok ps, s) => (.ok (p :: ps), s)

/-- Where unsealed plaintext may go, R304: CLM, operand memory, or device DRAM under the command's key slot. -/
def sealOk (slot : Nat) (g : Seg) : Bool := g.at_.clm || (!isHost g.at_.loc && g.at_.key.toNat == slot)
/-- The first destination address that R304 refuses. -/
def sealFault (slot : Nat) (ps : List Placed) : Option CopyFault :=
  ((ps.flatMap (·.gs)).find? (fun g => !sealOk slot g)).map (fun g => { detail := cCKEY, tval := g.va })

/-- Track the accesses of a beat under the issuer's lid, R305: the refusal, or the words whose data is discarded. An ordered
task's enter tracking at its commit (01 R25). -/
def State.copyTrack (s : State) (q : CopyCmd) (acc : TrackAcc) (ps : List Placed) : Except CopyFault (List Nat) × State :=
  let gs := ps.flatMap (·.gs)
  let locs := trackedLocs gs
  if !q.track || locs.isEmpty then (.ok [], s)
  else if q.ord && (Map.get? s.tasks q.owner).isSome then
    let all := segLocs gs
    let vas := segVas gs
    let new := ((locs.map (· / 4)).dedup).map (fun x => (x, acc, (wordVa all vas x).toNat))
    (.ok [], s.updTask q.owner (·.onIo (fun o => { o with unord := o.unord ++ new.filter (fun e => !o.unord.contains e) })))
  else
    match s.trackAccess q.launch { lid := q.lid, ord := q.ord } q.creatorLid acc locs with
    | .ok (s, lost) => (.ok lost, s)
    | .error f => (.error { detail := f.code, tval := wordVa (segLocs gs) (segVas gs) f.word }, s.waive q.launch)

/-- The poisoned word that a beat reads. -/
def State.copyPoison (s : State) (ps : List Placed) : Option CopyFault :=
  ps.findSome? (fun p => ((p.locs.zip p.vas).find? (fun x => s.ms.poison.any (fun w => w.1 == x.1 / 4))).map
    (fun x => { detail := cMCHK, tval := BitVec.ofNat 64 x.2 }))

/-- The byte that the engine finds at a location for its issuer: its own version, else what the engine sees (R305). -/
def State.copyByte (s : State) (q : CopyCmd) (loc : Nat) : Byte :=
  (s.versionByte q.owner loc (s.engineViewed (clusterOf q.core) loc)).1

/-- What a beat has written so far, and the bytes that the command has overwritten. -/
structure Written where
  now : List Host.Cell := []
  old : List Host.Cell := []
deriving DecidableEq, Repr

/-- Whether a location is in operand memory. -/
def isOpm (loc : Nat) : Bool := decide (2 ^ 53 ≤ loc)
/-- Whether the command has overwritten a source of a destination word. -/
def Written.clash (w : Written) (ps : List (Sum Nat Byte × Nat)) : Bool :=
  ps.any (fun p => match p.1 with
    | .inl l => (cellGet w.old l).isSome
    | .inr _ => false)
/-- Move one destination word: where the source was already overwritten by the command, the device chooses the old value
or the copied one for the whole word (R305). Log entry 25 (DESIGN CHOICE). -/
def State.copyWord (s : State) (q : CopyCmd) (w : Written) (ps : List (Sum Nat Byte × Nat)) : Written × State :=
  let src (l : Nat) : Byte := (cellGet w.now l).getD (s.copyByte q l)
  let (old, s) : Bool × State :=
    if w.clash ps then
      let (k, s) := s.takeFree
      (Config.freeChoice k, s)
    else (false, s)
  let value (p : Sum Nat Byte × Nat) : Byte :=
    match p.1 with
    | .inr b => b
    | .inl l => if old then (cellGet w.old l).getD (src l) else src l
  let cells := ps.map (fun p => (p.2, value p))
  let before := (ps.filter (fun p => (cellGet w.old p.2).isNone)).map (fun p => (p.2, src p.2))
  ({ now := cells ++ w.now.filter (fun c => !cells.any (fun x => x.1 == c.1)), old := w.old ++ before }, s)

/-- The rest of the last source word of a beat, which the next beat has from this one's read (R305). -/
def State.readOn (s : State) (q : CopyCmd) (bytes : List (Sum Nat Byte × Nat)) : List Host.Cell :=
  match bytes.getLast? with
  | some (.inl l, _) => (locRange (l + 1) (7 - l % 8)).map (fun x => (x, s.copyByte q x))
  | _ => []
/-- The first destination word of a beat takes what was read with the last one: it begins where that read ended, and the command has
overwritten none of its sources. -/
def takeAhead (ahead : List Host.Cell) (w : Written) : List (List (Sum Nat Byte × Nat)) → List (List (Sum Nat Byte × Nat))
  | [] => []
  | r :: rs =>
    let starts := match r.head?, ahead.head? with
      | some (.inl l, _), some c => l == c.1
      | _, _ => false
    if !starts || w.clash r then r :: rs
    else r.map (fun p => match p.1 with
      | .inl l => (match cellGet ahead l with | some b => (.inr b, p.2) | none => p)
      | .inr _ => p) :: rs
/-- The sources and destinations of a beat byte by byte. -/
def pairUp (srcs dsts : List Placed) : List (Sum Nat Byte × Nat) :=
  (srcs.zip dsts).flatMap (fun p =>
    (match p.1.bs with
      | some bs => bs.map Sum.inr
      | none => p.1.locs.map Sum.inl).zip p.2.locs)
/-- Whether a new access begins at byte q after byte p: at a 128-byte boundary of the CLM (05 R111). -/
def newAccess (p q : Sum Nat Byte × Nat) : Bool :=
  (isClm q.2 && q.2 % 128 == 0) ||
  (match p.1, q.1 with
    | .inl _, .inl l => isClm l && l % 128 == 0
    | _, _ => false)
/-- How many bytes come before the next access. -/
def accessLen : List (Sum Nat Byte × Nat) → Nat
  | p :: q :: ps => if newAccess p q then 1 else accessLen (q :: ps) + 1
  | ps => ps.length
/-- How many of n bytes are those of whole destination words. -/
def wholeRuns (n : Nat) : List (List (Sum Nat Byte × Nat)) → Nat
  | [] => 0
  | r :: rs => if r.length ≤ n then r.length + wholeRuns (n - r.length) rs else 0
/-- Cut a beat into runs of one aligned 8-byte destination word. -/
def wordRuns : Nat → List (Sum Nat Byte × Nat) → List (List (Sum Nat Byte × Nat))
  | 0, _ => []
  | _ + 1, [] => []
  | f + 1, p :: ps =>
    let k := (ps.takeWhile (fun x => x.2 / 8 == p.2 / 8)).length
    (p :: ps.take k) :: wordRuns f (ps.drop k)
def State.copyWords (s : State) (q : CopyCmd) (w : Written) : List (List (Sum Nat Byte × Nat)) → Written × State
  | [] => (w, s)
  | r :: rs =>
    let (w, s) := s.copyWord q w r
    s.copyWords q w rs

/-- Write bytes of operand memory. -/
def State.putOpm (s : State) (cells : List Host.Cell) : State :=
  if cells.isEmpty then s
  else { s with mem := memPut s.mem cells, ms := { s.ms with poison := cureWords s.ms.poison cells } }

/-- Write the bytes of a beat, R305, 13 R279, R284: versions of a member, nothing translated of a killed member, else
ordinary writes of an engine. Answers `wait` where a version table has no room. Log entry 71 (DEDUCED). -/
def State.copyWrite (s : State) (q : CopyCmd) (cells : List Host.Cell) : Out Unit × State :=
  let opm := cells.filter (fun c => isOpm c.1)
  let rest := cells.filter (fun c => !isOpm c.1)
  let rest := if q.dead then rest.filter (fun c => isClm c.1) else rest
  if rest.isEmpty then (.ok (), s.putOpm opm)
  else
    match Map.get? s.tasks q.owner, s.quorumOf q.owner with
    | some _, some _ =>
      match s.placeBytes q.owner rest 0 q.keys with
      | (.ok (), s) => (.ok (), s.putOpm opm)
      | other => other
    | _, _ =>
      let locs := rest.map (·.1)
      let s := ((s.flushL1 (engineSees (clusterOf q.core)) locs).recallLocs q.vf locs).underKeys q.vf q.keys locs
      let (rest, s) := s.settleByLid q.owner rest
      (.ok (), ((s.dropOwn q.owner rest).writeCells q.vf (dieOf q.core) 0 none rest).putOpm opm)

/-! ### The end of a command -/

/-- Change the command at a position of a cluster's queue. -/
def State.setCopy (s : State) (cl k : Nat) (q : CopyCmd) : State :=
  s.onCluster cl (fun c => { c with copyq := c.copyq.set k q })
/-- Take a command out of the queue. -/
def State.dropCopy (s : State) (cl k : Nat) : State := s.onCluster cl (fun c => { c with copyq := c.copyq.eraseIdx k })
/-- Change the record of a command. -/
def State.copyRecord (s : State) (q : CopyCmd) (f : CopyRec → CopyRec) : State :=
  s.updTask q.owner (·.onIo (fun o => { o with crecs := o.crecs.map (fun r => if r.id == q.id then f r else r) }))
/-- The handle and value that a command holds. -/
def CopyCmd.handle (q : CopyCmd) : Option (BitVec 4 × Word) :=
  match q.what with
  | .tileLd h v _ | .tileSt h v _ => some (h, v)
  | .unseal _ t _ _ _ _ _ => t
  | _ => none
/-- A register that was PENDING becomes LIVE; a tile whose holder is gone, or has exited, is freed (16 R327). -/
def State.handleLive (s : State) (u cl : Nat) (h : BitVec 4) (v : Word) : State :=
  match Map.get? s.tasks u with
  | some t => if t.pl.life == .exited then s.freeTile cl v else s.setHandle u h (hWithSt v hLIVE)
  | none => s.freeTile cl v
/-- The handle of an ended command returns to LIVE, R302. Log entry 39 (DEDUCED). -/
def State.freeCopyHandle (s : State) (cl : Nat) (q : CopyCmd) : State :=
  match q.handle with
  | none => s
  | some (h, v) => s.handleLive q.owner cl h v

/-- A command stops at a failing beat, R307. -/
def State.failCopy (s : State) (cl k : Nat) (q : CopyCmd) (f : CopyFault) : State :=
  let s := (s.dropCopy cl k).copyRecord q (fun r =>
    { r with st := .fault, unreported := true, detail := f.detail, wlev := f.wlev, tval := f.tval,
             written := BitVec.ofNat 64 q.pos })
  s.freeCopyHandle cl q
/-- The last beat of a command has been performed. An hsend's source tile is freed; it lands later (16 R321). -/
def State.endCopy (s : State) (cl k : Nat) (q : CopyCmd) : State :=
  match q.what with
  | .hsend hv _ _ _ _ => (s.setCopy cl k q).freeTile cl hv
  | _ => ((s.dropCopy cl k).copyRecord q (fun r => { r with st := .done, written := BitVec.ofNat 64 q.pos })).freeCopyHandle cl q

/-- Bytes that a command writes; an hsend's are those of its tile. -/
def CopyCmd.total (q : CopyCmd) : Nat :=
  match q.what with
  | .hsend hv _ _ _ _ => imageBytes hv
  | _ => q.size
/-- Whether an hsend has been read out and waits to land. -/
def CopyCmd.carried (q : CopyCmd) : Bool :=
  match q.what with
  | .hsend hv _ _ _ _ => decide (imageBytes hv ≤ q.pos)
  | _ => false

/-- Whether a line of locations is pinned (06 R132): the engine belongs to no core that holds pins. -/
def State.pinned (s : State) (locs : List Nat) : Bool := s.ms.pins.any (fun p => locs.any (fun l => l / 512 == p.line))
/-- The plaintext of a chunk record that has been read whole, R304. -/
def openRecord (key : BitVec 256) (index : Nat) (bs : List Byte) : Option (List Byte) :=
  let part (i n : Nat) : List Byte := (bs.drop i).take n
  if leNat (part 4108 4) != index % 2 ^ 32 then none
  else gcmOpen (leBytes 32 key.toNat) (part 4096 12) (part 4096 16) (part 0 4096) (part 4112 16)
/-- The next access to the record of the chunk at a cunseal's position, R304: it is read and verified before the chunk's first beat.
Answers the fault, or what the command then holds: part of the record, or the plaintext. It waits where the record's lines are pinned
or the host agent is between a read and its write. -/
def State.openChunk (s : State) (q : CopyCmd) (src : Word) (first : Nat) (key : BitVec 256) :
    Except CopyFault CopyCmd × State :=
  let j := q.pos / 4096
  let rec_ := src + BitVec.ofNat 64 (4160 * j)
  match s.placeEnd (s.copyAgent q) { rd := true } (.va rec_) 4160 with
  | (.error f, s) => (.error f, s)
  | (.ok p, s) =>
    match s.pinned p.locs || s.hostBusy p.locs, s.copyPoison [p] with
    | true, _ => (.ok q, s)
    | false, some f => (.error f, s)
    | false, none =>
      match ((s.recallLocs q.vf p.locs).tookReplica q.vf (dieOf q.core) p.locs).copyTrack q .read (if q.sealed.isEmpty then [p] else []) with
      | (.error f, s) => (.error f, s)
      | (.ok _, s) =>
        let left := p.locs.drop q.sealed.length
        let bs := q.sealed ++ (left.take (accessLen (left.map (fun l => (.inl l, 2 ^ 53))))).map (s.copyByte q)
        if bs.length < 4160 then (.ok { q with sealed := bs }, s)
        else
          match openRecord key (first + j) bs with
          | none => (.error { detail := 0x32#8, tval := rec_ }, s)
          | some pt => (.ok { q with sealed := [], plain := pt }, s)

/-- Poison moves with a tile that hsend carries. -/
def State.carryPoison (s : State) (ps : List (Sum Nat Byte × Nat)) : State :=
  if s.ms.poison.isEmpty then s
  else
    let new := s.ms.poison.flatMap (fun w => ps.filterMap (fun p => match p.1 with
      | .inl l => if l == 4 * w.1 then some (p.2 / 4, w.2) else none
      | .inr _ => none))
    s.onMs (fun m => { m with poison := m.poison ++ new })

/-- Whether a beat must wait: a pin on a line it touches (06 R132), the host agent between a read and its write (06 R140), or earlier
tile instructions on its tile (R302). -/
def State.copyWaits (s : State) (cl : Nat) (q : CopyCmd) (ps : List Placed) : Bool :=
  let tile := match q.what with
    | .hsend hv _ _ _ _ => s.slotsBusy cl (hSlots hv)
    | _ => (match q.handle with | some (_, v) => s.slotsBusy cl (hSlots v) | none => false)
  tile || s.pinned (ps.flatMap (·.locs)) || s.hostBusy (ps.flatMap (·.locs))

/-- A command whose last beat is performed ends, with rel at package scope or wider not before its writes are performed there
(06 R142); until then it stays in the queue. -/
def State.finishCopy (s : State) (cl k : Nat) (q : CopyCmd) : State :=
  if q.rel && decide (3 ≤ q.scope.toNat) && s.flightsPending (dieOf q.core) then s.setCopy cl k q else s.endCopy cl k q

/-- One access of the beat in hand: the bytes before the next 128-byte boundary of the CLM, R111. A destination word whose sources it cuts
is written with the next access, from what each has read, unless the command has overwritten one of them; then the word is moved at
once. None where the access waits. -/
def State.access (s : State) (cl k : Nat) (q : CopyCmd) : Option State :=
  let hold := match q.what with | .hsend _ _ _ _ _ => true | _ => false
  let e := accessLen q.todo
  let runs := wordRuns 513 q.todo
  let n := wholeRuns e runs
  let part := (q.todo.drop n).take (e - n)
  let m := if { old := (q.todo.take n).map (fun p => (p.2, 0#8)) ++ q.old : Written }.clash part then n + ((wordRuns 1 (q.todo.drop n)).headD []).length else n
  let here := q.todo.take (max e m)
  let srcs := here.filterMap (fun p => match p.1 with | .inl l => if isOpm l then none else some l | .inr _ => none)
  let locs := srcs ++ (here.map (·.2)).filter (fun l => !isOpm l)
  if s.pinned locs || s.hostBusy locs then none
  else
    let s := ((s.recallLocs q.vf locs).underKeys q.vf q.keys locs).tookReplica q.vf (dieOf q.core) srcs
    let bytes := q.todo.take m
    let (w, s) := s.copyWords q { old := q.old } (wordRuns 513 bytes)
    match s.copyWrite q w.now with
    | (.ok (), s) =>
      let s := if hold then s.carryPoison bytes else s
      let ahead := s.readOn q bytes
      let read (p : Sum Nat Byte × Nat) : Sum Nat Byte × Nat := match p.1 with | .inl l => (.inr (s.copyByte q l), p.2) | .inr _ => p
      let todo := ((q.todo.drop m).take (e - m)).map read ++ q.todo.drop (max e m)
      let q := { q with todo := todo, old := w.old, ahead := ahead }
      some (if !todo.isEmpty then s.setCopy cl k q
        else
          let q := { q with pos := q.upto, plain := if q.upto % 4096 == 0 then [] else q.plain }
          if q.pos == q.total then s.finishCopy cl k q else s.setCopy cl k q)
    | (_, _) => none

/-- The beat of a command from its position, R295: up to 512 bytes. It is translated and checked whole, for a beat that fails has no
effect (R307), and its first access is performed. Log entry 38 (DEDUCED). -/
def State.beat (s0 : State) (cl k : Nat) (q : CopyCmd) : State :=
  let who := s0.copyAgent q
  let n := if q.pos + 512 < q.total then q.beatLen cl q.pos 512 else q.total - q.pos
  let hold := match q.what with | .hsend _ _ _ _ _ => true | _ => false
  let ps := q.pieces cl 512 q.pos n
  match s0.placeEnds who { rd := true } (ps.map (fun p => (p.src, p.n))) with
  | (.error f, s) => s.failCopy cl k q f
  | (.ok srcs, s) =>
    match s.placeEnds who { w := true } (ps.map (fun p => (p.dst, p.n))) with
    | (.error f, s) => s.failCopy cl k q f
    | (.ok dsts, s) =>
      let refused := match q.what with
        | .unseal _ _ _ slot _ _ _ => sealFault slot dsts
        | _ => none
      match refused with
      | some f => s.failCopy cl k q f
      | none =>
        if s.copyWaits cl q (srcs ++ dsts) then s
        else
          match (if hold then none else s.copyPoison srcs) with
          | some f => s.failCopy cl k q f
          | none =>
            match (s.recallLocs q.vf ((srcs ++ dsts).flatMap (·.locs))).copyTrack q .read srcs with
            | (.error f, _) => (s.waive q.launch).failCopy cl k q f
            | (.ok _, s2) =>
              match s2.copyTrack q .write dsts with
              | (.error f, _) => (s.waive q.launch).failCopy cl k q f
              | (.ok lost, s2) =>
                let todo := (takeAhead q.ahead { old := q.old } (wordRuns 513 (pairUp srcs dsts))).flatMap id
                let q := { q with
                  todo := todo.filter (fun p => !lost.contains (p.2 / 4)), upto := q.pos + n,
                  keys := s2.segKeys q.vf ((srcs ++ dsts).flatMap (·.gs)) }
                (((s2.access cl k q)).map (fun s => s.updTask q.owner (·.count 1 1 1))).getD s

/-- The next access of a command, or its end. A cunseal verifies a chunk before the chunk's first beat. -/
def State.runCopy (s : State) (cl k : Nat) (q : CopyCmd) : State :=
  if !q.todo.isEmpty then (s.access cl k q).getD s
  else if q.pos == q.total then s.finishCopy cl k q
  else
    match q.what with
    | .unseal _ _ src _ first _ key =>
      if q.pos % 4096 == 0 && q.plain.isEmpty then
        match s.openChunk q src first key with
        | (.error f, s) => s.failCopy cl k q f
        | (.ok q, s) => if q.plain.isEmpty then s.setCopy cl k q else s.beat cl k q
      else s.beat cl k q
    | _ => s.beat cl k q

/-! ### Turns -/

/-- The first of each context's commands, R295: positions in the queue. A task keeps its count when it goes to another context
(R296), and its commands their order. -/
def copyHeads (qs : List CopyCmd) : List (Nat × CopyCmd) :=
  let live := (qs.zipIdx.map (fun p => (p.2, p.1))).filter (fun p => !p.2.carried)
  live.filter (fun p => !live.any (fun x => decide (x.1 < p.1) && x.2.owner == p.2.owner))
/-- The first number at or after a mark, else the lowest. -/
def nextFrom (mark : Nat) (ns : List Nat) : Option Nat :=
  match (ns.filter (fun n => decide (mark ≤ n))).min? with
  | some n => some n
  | none => ns.min?
/-- The command whose access is next: the one whose beat is in hand, else cores take turns, then the contexts of the core. -/
def ClusterSt.nextCopy (c : ClusterSt) : Option (Nat × CopyCmd) :=
  let hs := copyHeads c.copyq
  match hs.find? (fun p => !p.2.todo.isEmpty), nextFrom c.turn (hs.map (fun p => p.2.core)) with
  | some p, _ => some p
  | none, none => none
  | none, some g =>
    let here := hs.filter (fun p => p.2.core == g)
    match nextFrom (Map.get 0 c.turnCtx g) (here.map (fun p => p.2.owner)) with
    | none => none
    | some x => here.find? (fun p => p.2.owner == x)

/-- COPY_BEAT in a cluster. -/
def State.copyBeat (s : State) (cl : Nat) : State :=
  match (s.cluster cl).nextCopy with
  | none => s
  | some (k, q) =>
    let s := s.onCluster cl (fun c => { c with turn := q.core + 1, turnCtx := Map.set c.turnCtx q.core (q.owner + 1) })
    s.runCopy cl k q

/-- HSEND_LANDED for a carried transfer, 16 R321: once the sender's tile loads and stores are complete, for the move is a release,
and across dies its writes applied at every die (06 R138), the target handle becomes LIVE and the sender's T counts down. -/
def State.landCopy (s : State) (cl k : Nat) (q : CopyCmd) : State :=
  match q.what with
  | .hsend _ hv' cl' u n =>
    if (s.tileOps cl).any (fun o => o.holds.contains (u, n.toNat)) || (cl / 10 != cl' / 10 && s.flightsPending (cl / 10)) then s
    else ((s.dropCopy cl k).updTask q.owner (·.onIo (fun o => { o with tiles := o.tiles - 1 }))).handleLive u cl' n hv'
  | _ => s

end Sys2Proof.Machine
end

