-- ==== Sys2Proof/Machine/Image.lean ====
section
/-! DEFINITION. The register image in memory (07 R153), and the start of a task in a context (11 R230, R231; 22 R397;
24 R426). -/
namespace Sys2Proof.Machine

/-! ### The fixed part of the image -/

/-- Bytes cut or filled with zeros to a length. -/
def padTo (n : Nat) (bs : List Byte) : List Byte := (bs ++ List.replicate (n - bs.length) 0#8).take n
/-- Pairs of tag codes in one byte each, the lower register in the low nibble. -/
def tagNibbles (ts : List Tag) : List Byte :=
  (chunks 2 14 (ts.map (fun t => t.code.toNat))).map (fun p => BitVec.ofNat 8 (p.headD 0 + 16 * ((p[1]?).getD 0)))
/-- The numbers of the system registers in the image, ascending: R157, R235, R308, R396, R431. -/
def imageRegs : List Nat :=
  [0x000, 0x002, 0x003, 0x004, 0x005, 0x006] ++ (List.range 7).map (0x010 + ·) ++ (List.range 7).map (0x018 + ·) ++
  (List.range 6).map (0x100 + ·) ++ [0x140, 0x141, 0x142, 0x181, 0x1C0]
/-- One copy record of the image, 07 R153. -/
def copyImage (r : CopyRec) : List Word :=
  let st : Nat := match r.st with | .busy => 0 | .done => 1 | .fault => 2
  [BitVec.ofNat 64 (r.id.toNat + st * 2 ^ 16 + (if r.unreported then 2 ^ 18 else 0) + r.fn.toNat * 2 ^ 24 +
     r.detail.toNat * 2 ^ 32), r.tval, r.written, r.promise.getD 0#64]
/-- The store-fault records and the word of counters of the image. -/
def queueImage (o : Io) : List Byte :=
  padTo 256 (wordBytes (o.sfq.flatMap (fun r => [r.q0, r.q1, r.q2, r.q3]))) ++
  wordBytes [BitVec.ofNat 64 (o.sfq.length + (if o.ovf then 16 else 0) + o.copies * 2 ^ 16 + o.tiles * 2 ^ 24)]
/-- The capture of perf in the image. -/
def perfImage (p : Perf) : List Byte :=
  wordBytes [BitVec.ofNat 64 ((if p.active then 1 else 0) + (if p.switched then 2 else 0) + (if p.wrapped then 4 else 0) +
      p.group.toNat * 2 ^ 8), p.outTime, p.start, p.c0, p.c1, p.c2, p.c3]
/-- The fixed part [fimg, stkbase) of a task's image, R153. -/
def State.imageOfTask (s : State) (u : Nat) : List Byte :=
  let s := { s with cur := u }
  let t := s.me
  let f := t.rf
  let reg (n : Nat) : Word := match s.sysRead n with | some (w, _) => w | none => 0#64
  wordBytes ((List.range 8).map (Map.get 0#64 f.g)) ++
  padTo 32 ((List.range 7).flatMap (fun i => leBytes 4 (Map.get 0#32 f.m (i + 1)).toNat)) ++
  padTo 32 (tagNibbles ((List.range 28).map (Map.get .empty f.vt))) ++
  wordBytes ((List.range 16).map (Map.get 0#64 f.h)) ++
  (List.range 16).flatMap (fun i => leBytes 4 (Map.get 0#32 f.k i).toNat) ++
  padTo 704 (wordBytes (imageRegs.map reg)) ++
  (List.range 28).flatMap (fun i => leBytes 128 (Map.get 0#1024 f.v i).toNat) ++
  queueImage t.io ++ padTo 248 (perfImage t.io.perf) ++
  padTo 3072 (wordBytes ((t.io.crecs.drop (t.io.crecs.length - 64)).flatMap copyImage))

/-- Write the dirty lines of a task back, lowest first. -/
def State.backLines (s : State) (u : Nat) (who : Agent) : List (Nat × Bool) → State
  | [] => s
  | (l, dirty) :: ls =>
    if !dirty then s.backLines u who ls
    else
      let va := BitVec.ofNat 64 (128 * l)
      let (_, s) := s.hubWrite who va ((s.task u).rf.lineBytes l)
      let s := if (s.task u).rf.bad.isEmpty then s
        else match s.xlate who { w := true } va 128 with
          | (.ok gs, s) => s.spillPoison u l (segLocs gs)
          | (.error _, s) => s
      (s.updTask u (·.onRf (·.cleanLine l))).backLines u who ls
/-- Write a task's image: its stack lines and its fixed part (07 R153, 22 R404). A refused write is lost. Log entry 57 (DEDUCED). -/
def State.saveImage (s : State) (u : Nat) : State :=
  let who := s.agentOf u
  let s := s.backLines u who (sortLines (s.task u).rf.lines)
  (s.hubWrite who ((s.task u).sy.stkbase - 0x2000#64) (s.imageOfTask u)).2

/-- A task leaves its context with its state saved, 07 R152, R153: the capture of perf halts (24 R433). -/
def State.goOut (s : State) (u : Nat) : State :=
  let s := s.updTask u (fun t => (t.onIo (fun o => { o with early := [], perf := { o.perf with switched := o.perf.switched || o.perf.active } })).onPl
    (fun p => { p with saved := true, outAt := s.dtime }))
  s.saveImage u

/-- Word i of an image. -/
def imgWord (bs : List Byte) (off : Nat) : Word := BitVec.ofNat 64 (leNat ((bs.drop off).take 8))
/-- n bytes of an image as a number. -/
def imgNat (bs : List Byte) (off n : Nat) : Nat := leNat ((bs.drop off).take n)
/-- A trap bank of an image. -/
def imgBank (bs : List Byte) (off : Nat) : Bank :=
  let w (i : Nat) : Word := imgWord bs (off + 8 * i)
  { cause := w 0, ret := w 1, tval := w 2, save := w 3, scr := w 4, tvec := w 5, xval := w 6 }
/-- The store-fault records of an image; what the image does not hold of them is the context's (07 R164). -/
def imgFaults (bs : List Byte) (old : List FaultRec) : List FaultRec :=
  (List.range (min 8 (imgNat bs 0x1300 1 % 16))).map (fun i =>
    { (old[i]?).getD {} with
      q0 := imgWord bs (0x1200 + 32 * i), q1 := imgWord bs (0x1208 + 32 * i), q2 := imgWord bs (0x1210 + 32 * i),
      q3 := imgWord bs (0x1218 + 32 * i) })
/-- The capture of perf of an image. -/
def imgPerf (bs : List Byte) : Perf :=
  let f := imgNat bs 0x1308 2
  { active := f % 2 == 1, switched := f / 2 % 2 == 1, wrapped := f / 4 % 2 == 1, group := BitVec.ofNat 8 (f / 256),
    outTime := imgWord bs 0x1310, start := imgWord bs 0x1318, c0 := imgWord bs 0x1320, c1 := imgWord bs 0x1328,
    c2 := imgWord bs 0x1330, c3 := imgWord bs 0x1338 }
/-- The register file of an image. -/
def Regs.ofImage (f : Regs) (bs : List Byte) : Regs :=
  { f with
    g := (List.range 8).map (fun i => (i, imgWord bs (8 * i))),
    m := (List.range 7).map (fun i => (i + 1, BitVec.ofNat 32 (imgNat bs (0x40 + 4 * i) 4))),
    vt := (List.range 28).map (fun i => (i, Tag.ofCode (BitVec.ofNat 4 (imgNat bs (0x60 + i / 2) 1 / 16 ^ (i % 2))))),
    h := (List.range 16).map (fun i => (i, imgWord bs (0x80 + 8 * i))),
    k := (List.range 16).map (fun i => (i, BitVec.ofNat 32 (imgNat bs (0x100 + 4 * i) 4))),
    v := (List.range 28).map (fun i => (i, BitVec.ofNat 1024 (imgNat bs (0x400 + 128 * i) 128))),
    wbase := imgWord bs (0x140 + 8 * 5) }
/-- The system registers of an image that software can change; the task's identity and its stack are fixed. -/
def Sys.ofImage (y : Sys) (bs : List Byte) : Sys :=
  let r (i : Nat) : Word := imgWord bs (0x140 + 8 * i)
  { y with
    tl := (r 0).extractLsb' 0 2, dz := (r 0).getLsbD 2, timeok := (r 0).getLsbD 3, fflags := (r 1).extractLsb' 0 5,
    b1 := imgBank bs (0x140 + 8 * 6), b2 := imgBank bs (0x140 + 8 * 13), key := r 20, budLeft := (r 21).extractLsb' 0 63,
    budOn := (r 21).getLsbD 63, budInit := (r 22).extractLsb' 0 63, cre := (r 24).extractLsb' 0 32,
    cfault := r 26 &&& 0xFFFFFFFF#64, cdone := r 27, lcoord := r 29, mdsel := (r 30).extractLsb' 0 7 }
/-- Copy record i of an image; what the image does not hold of it is the context's. -/
def imgCopy (bs : List Byte) (i : Nat) (old : CopyRec) : CopyRec :=
  let w (k : Nat) : Word := imgWord bs (0x1400 + 32 * i + 8 * k)
  let promise := w 3
  { old with
    id := (w 0).extractLsb' 0 16,
    st := if (w 0).extractLsb' 16 2 == 0#2 then .busy else if (w 0).extractLsb' 16 2 == 1#2 then .done else .fault,
    unreported := (w 0).getLsbD 18, fn := (w 0).extractLsb' 24 8, detail := (w 0).extractLsb' 32 8, tval := w 1, written := w 2,
    promise := if promise == 0#64 then none else some promise }
/-- The copy records of an image, over those that the context has. -/
def imgCopies (bs : List Byte) (old : List CopyRec) : List CopyRec :=
  let n := old.length - 64
  old.take n ++ (old.drop n).mapIdx (fun i r => imgCopy bs i r)
/-- A task with the state of an image, 07 R153. Commands that the image has as busy have gone on while the task was OUT: their records
and the counters C and T are those that they have left (R153, 15 R314, 16 R328). -/
def Task.ofImage (t : Task) (bs : List Byte) : Task :=
  ((t.onRf (·.ofImage bs)).onSy (·.ofImage bs)).onIo (fun o =>
    { o with sfq := imgFaults bs o.sfq, ovf := (imgNat bs 0x1300 1).testBit 4, perf := imgPerf bs,
             cc := (imgWord bs (0x140 + 8 * 28)).setWidth 16,
             crecs := List.zipWith (fun r q => if q.st == .busy then r else q) o.crecs (imgCopies bs o.crecs) })

/-- A task is no longer switched out: the time that it was is added to its capture of perf (08 R199). -/
def Task.isBack (t : Task) : Task :=
  (t.onIo (fun o => { o with perf := { o.perf with
    outTime := if o.perf.active then o.perf.outTime + (t.pl.backAt - t.pl.outAt) else o.perf.outTime } })).onPl
    (fun p => { p with saved := false })
/-- The acting task takes its state back from its image at its first instruction, 22 R404: the fixed part, then the lines of
its window. A fault leaves the state that the context holds. -/
def State.restoreImage (s : State) : Out Unit × State :=
  let t := s.me
  let done (s : State) : State := s.onMe Task.isBack
  match s.xlate (s.agentOf s.cur) { rd := true } (t.sy.stkbase - 0x2000#64) 0x2000 with
  | (.error e, s) => (.trap (e.trap 7#4 0#8), done s)
  | (.ok gs, s) =>
    let locs := segLocs gs
    let s := s.imageSees locs
    match s.poisonAt locs with
    | some unit => (.trap { code := cMCHK, tval := t.tid.lid, kind := 7#4, detail := BitVec.ofNat 8 unit }, done s)
    | none =>
      let bs := locs.map (s.viewed t.pl.core)
      let s := s.onMe (·.ofImage bs)
      let keep := s.me.rf
      let s := s.onRegs (fun f => { f with lines := [], slots := [], bad := [] })
      match s.fillLines keep (linesOf keep.wbase) with
      | (r, s) => (r, done s)

/-! ### Contexts -/

/-- The helper contexts of a core that are EMPTY and kept for no continuation (11 R230, R257), lowest first. -/
def State.emptyHelpers (s : State) (g : Nat) : List Nat :=
  ((List.range 10).map (· + 1)).filter (fun c => (s.taskAt g c).isNone &&
    !s.tasks.any (fun p => p.2.pl.life == .queued && p.2.pl.core == g && p.2.pl.want == some c))
/-- The stack slot that a task's first dispatch takes, 22 R397: the lowest free one; with ord = 1 the last is the horizon
holder's. Log entry 55 (DEDUCED). -/
def State.stackSlot (s : State) (u : Nat) : Option Nat :=
  let l := s.launchOf u
  let free := (List.range l.scount).filter (fun k => !l.stackUse.contains k)
  if ordOf l.mode && !s.isHolder u && decide (free.length ≤ 1) then none else free.head?

/-- Whether a breakpoint matches a task, 24 R426. -/
def Break.hits (b : Break) (i : TaskId) : Bool :=
  b.entry == i.entry && (match b.tag with | some t => t == i.tag | none => true) &&
  (match b.lid with | some l => l == i.lid | none => true)
/-- A stop of a core for a launch: each resident context of the launch there stops (24 R425). -/
def State.stopCore (s : State) (g l : Nat) : State :=
  ((s.tasks.filter (fun p => p.2.pl.life == .resident && p.2.pl.core == g && p.2.tid.launch == l && !p.2.pl.stopped)).map
    (·.1)).foldl (fun s u => s.stopTask u) s
/-- The breakpoints of a core at the start of a task, 24 R426: every one that matches acts. A STOP stops the core before the
task's first instruction when its launch has dstop, else the match is traced. -/
def State.checkBreaks (s : State) (u : Nat) : State :=
  let t := s.task u
  ((s.coreSt t.pl.core).breaks.filter (fun b => b.2.hits t.tid)).foldl (fun s b =>
    if b.2.stop && dstopOf (s.launchOf u).mode then s.stopCore t.pl.core t.tid.launch
    else s.traceTask u 5 6 t.tid.entry) s

/-- The acting task's first fill, before its first instruction (R231): the engine has written what it finds there. -/
def State.firstFill (s : State) : Out Unit × State :=
  if s.me.rf.lines.isEmpty then s.fillLines s.me.rf (linesOf s.me.rf.wbase) else (.ok (), s)
/-- The task starts: the state of R231, with its arguments and zeros written into the image before the first fill, and its
record; the region whose pending event it handles becomes IDLE (19 R360). A task that yielded, or was frozen, goes on with
the state it has. -/
def State.startTask (s : State) (u : Nat) : State :=
  let t := s.task u
  if t.pl.saved then s
  else
    let l := s.launchOf u
    let fimg := l.spool + BitVec.ofNat 64 ((t.pl.stack.getD 0) * l.ssize)
    let base := fimg + 0x2000#64
    let args := (List.range 16).map (fun i => (t.tid.args[i]?).getD 0#64)
    let s := s.updTask u (fun t =>
      (t.onSy (fun y => { y with stkbase := base, stklim := fimg + BitVec.ofNat 64 l.ssize })).onRf (fun f =>
        { f with pc := t.tid.entry, wbase := base, lines := [],
                 slots := args.mapIdx (fun i w => (base.toNat / 8 + i, w)) }))
    let who := engineAgent t.tid.vf (clusterOf t.pl.core)
    let (_, s) := s.hubWrite who fimg (List.replicate 64 0#8)
    let (_, s) := s.hubWrite who base (wordBytes args)
    let s := match t.tid.region with
      | some (c, r, _) => s.onRegion c r (fun x => { x with armed := x.armed && x.pending != u })
      | none => s
    (s.traceTask u 1 1 t.tid.entry).checkBreaks u

/-- A member that waited switched out for its kill is killed before its first instruction, 13 R284. -/
def State.killDue (s : State) (u : Nat) : State :=
  match (s.task u).pl.pend with
  | some k => s.kill u k
  | none => s
/-- A task that is OUT takes a context again. -/
def State.resume (s : State) (u ctx : Nat) : State :=
  (s.updTask u (·.onPl (fun p => { p with ctx := ctx, run := .ready, backAt := s.dtime }))).killDue u
/-- Put a queued task into a context, taking its stack slot: none where it has none and none is free (22 R397). An activation
consumes its message at its first dispatch (24 R430). -/
def State.place (s : State) (u ctx : Nat) : Option State :=
  let t := s.task u
  let slot := match t.pl.stack with
    | some k => some k
    | none => s.stackSlot u
  match slot with
  | none => none
  | some k =>
    let s := if t.pl.stack.isSome then s
      else s.onLaunch t.tid.launch (fun l => { l with stackUse := l.stackUse ++ [k] })
    let s := if t.tid.bind.isSome && t.pl.began.isNone then s.activated u else s
    let s := s.updTask u (·.onPl (fun p => { p with life := .resident, ctx := ctx, run := .ready, stack := some k,
                                                    swapped := false, qarea := false, want := none, began := some (p.began.getD s.dtime),
                                                    backAt := s.dtime }))
    some ((s.startTask u).killDue u)

/-- Whether a core may dispatch tasks of a launch: it runs and is not being pre-empted or restored (22 R402, R405), and the
core is not stopped (24 R425). -/
def State.mayDispatch (s : State) (g l : Nat) : Bool := (s.launch l).st == .running && !s.halted g l

/-- Whether queued task p goes before q in a dispatch, 11 R230, R234: the horizon holder first, then by key, lid, creation
word and core of creation. -/
def State.dispatchBefore (s : State) (p q : Nat × Task) : Bool :=
  let hp := s.isHolder p.1
  let hq := s.isHolder q.1
  if hp != hq then hp else taskBefore p.2 q.2
/-- Queued tasks in dispatch order. -/
def State.dispatchInsert (s : State) (p : Nat × Task) : List (Nat × Task) → List (Nat × Task)
  | [] => [p]
  | q :: qs => if s.dispatchBefore p q then p :: q :: qs else q :: s.dispatchInsert p qs
def State.dispatchOrder (s : State) : List (Nat × Task) → List (Nat × Task)
  | [] => []
  | p :: ps => s.dispatchInsert p (s.dispatchOrder ps)
/-- Whether context 0 of a core is EMPTY: nothing runs in it, and it is not kept for a control task that a pre-emption has moved out of a
launch that is still on its cores (07 R152). -/
def State.freeZero (s : State) (g : Nat) : Bool :=
  (s.taskAt g 0).isNone &&
  !s.tasks.any (fun p => p.2.pl.life == .resident && p.2.pl.core == g && p.2.pl.ctx == 0 && p.2.pl.run == .out &&
    (s.launch p.2.tid.launch).core && (s.launch p.2.tid.launch).st == .running)
/-- The context a task would take now: a handler's by 22 R403, 0 for a control task, its own for one that was OUT, the kept one for a continuation, else
the lowest EMPTY helper (11 R230, R257). -/
def State.contextFor (s : State) (g : Nat) (t : Task) : Option Nat :=
  if t.tid.handler then
    if (s.launch t.tid.launch).core then (if (s.taskAt g 0).isNone then some 0 else none)
    else if s.freeZero g then some 0
    else (s.emptyHelpers g).head?
  else if t.tid.kind == 1#4 then (if (s.taskAt g 0).isNone then some 0 else none)
  else if t.pl.run == .out && t.pl.life == .resident && (s.taskAt g t.pl.ctx).isNone then some t.pl.ctx
  else
    match t.pl.want with
    | some c => if (s.taskAt g c).isNone then some c else none
    | none => (s.emptyHelpers g).head?
/-- Tasks that wait for a queue entry of a core enter its queue while there is room. -/
def State.admitTasks (s : State) : List (Nat × Task) → State
  | [] => s
  | p :: ps =>
    match s.toQueue p.1 with
    | some s' => s'.admitTasks ps
    | none => s.admitTasks ps
/-- The tasks of a core that wait for an entry, in dispatch order. -/
def State.takeEntries (s : State) (g : Nat) : State :=
  s.admitTasks (s.dispatchOrder (s.tasks.filter (fun p => p.2.pl.life == .unqueued && p.2.pl.core == g)))
/-- TASK_DISPATCH on a core, 11 R230: a task that is OUT takes a context again before any other; then the first queued task that
a context and a stack slot can take: one that finds none does not hold up those after it. Log entry 87 (DESIGN CHOICE). -/
def State.dispatch (s : State) (g : Nat) : State :=
  let s := (s.swapBack (clusterOf g) 64).takeEntries g
  let mine (t : Task) : Bool := t.pl.core == g && (t.tid.handler || s.mayDispatch g t.tid.launch)
  let outs := s.tasks.filter (fun p => p.2.pl.life == .resident && p.2.pl.run == .out && mine p.2)
  match (s.dispatchOrder outs).findSome? (fun p => (s.contextFor g p.2).map (s.resume p.1)) with
  | some s' => s'
  | none =>
    let ts := s.tasks.filter (fun p => p.2.pl.life == .queued && mine p.2)
    match (s.dispatchOrder ts).findSome? (fun p => (s.contextFor g p.2).bind (fun c => s.place p.1 c)) with
    | some s' => s'
    | none => s

end Sys2Proof.Machine
end

