-- ==== Sys2Proof/Machine/TaskOps.lean ====
section
/-! DEFINITION. Task engine instructions (11 R254-R263). -/
namespace Sys2Proof.Machine

/-! ### Creation -/

def cTCTX : BitVec 8 := 0x20#8
def cKEYORD : BitVec 8 := 0x22#8
def cBOUND : BitVec 8 := 0x23#8
def cRFCELL : BitVec 8 := 0x24#8

/-- What the common part of spawn, start and rfork finds, R255. -/
structure Child where
  entry : Word
  ord : Bool
  key : Word
  bud : Option (BitVec 63)
  args : List Word

/-- The entry operand, R255: imm32 or the literal. -/
def entryOf (e : Src) : Word :=
  match e with
  | .imm v => v.setWidth 64
  | .lit v => v

/-- The common checks of R255. `own` says that c and e name the key and the budget (spawn, start). -/
def State.creating (s : State) (b : BitVec 4) (c e : BitVec 5) (entry : Src) (n : BitVec 3) (ord own : Bool)
    (cont : Child → State → State) : State :=
  let t := s.me
  let ent := (entryOf entry)
  let key := if own && c != 24#5 then s.x c else t.sy.key
  if ent.extractLsb' 0 2 != 0#2 then s.trap cIALIGN ent
  else if ord && !ordOf s.lmode then s.trap cORDOFF 0#64
  else if t.tid.ord && !ord then s.trap cKEYORD 0#64
  else if t.tid.ord && decide (key.toNat < t.sy.key.toNat) then s.trap cKEYORD key
  else
    let bud := if own && e != 24#5 then some ((s.x e).setWidth 63) else none
    let args := (List.range n.toNat).map (fun i => s.x (BitVec.ofNat 5 (b.toNat + i)))
    cont { entry := ent, ord := ord, key := key, bud := bud, args := args } s

/-- The creation word and lid of the acting task's child at a creation count, R232. -/
def State.childIds (s : State) (count : BitVec 32) : Word × Word :=
  let t := s.me
  let cw := childCw (s.launchOf s.cur).seed t.tid.lid (count.setWidth 64)
  (cw, lidOf t.tid.lid cw)
/-- A child task. -/
def State.childTask (s : State) (kind : BitVec 4) (ids : Word × Word) (g : Nat) (c : Child) : Task :=
  let t := s.me
  freshTask { lid := ids.2, cw := ids.1, launch := t.tid.launch, vf := t.tid.vf, kind := kind, ord := c.ord,
              entry := c.entry, creator := s.cur, creatorLid := some t.tid.lid, args := c.args, born := t.pl.core }
    g c.key c.bud
/-- Count a creation. -/
def State.countChild (s : State) (n : Nat) : State :=
  s.onMe (·.onSy (fun y => { y with cre := y.cre + BitVec.ofNat 32 n }))

/-- A spawn once its core is known, R255, R253, while it waits for whose answer a pending kill is taken (08 R170): accepted into the core's queue or, in dmodes 1 and 2, the swap area; else
bounced. -/
def State.spawnOn (s : State) (d : BitVec 5) (g : Nat) (c : Child) (size : Nat) : State :=
  let ids := s.childIds s.me.sy.cre
  let l := s.me.tid.launch
  let t := s.childTask 2#4 ids g c
  let lid := ids.2
  let scope := scopeOf packageOf s.me.pl.core g
  s.atKillPoint (fun s =>
  if s.releaseWaits scope then s.block
  else
    match (s.released true scope).queueSpace g l false with
    | (some area, s) => ((s.addTask (t.onPl (fun p => { p with qarea := area }))).countChild 1).result d lid size
    | (none, s) =>
      if s.det && s.swapRoom l 128 then
        let (k, s) := s.swapOut l (clusterOf g) 128
        ((s.addTask (t.onPl (fun p => { p with swapped := true, left := k }))).countChild 1).result d lid size
      else
        let s := if s.det then s.waive l else s
        (s.countChild 1).result d (0x8000000000000000#64 ||| lid) size)

/-- SPAWN, R255. -/
def execSpawn (d a : BitVec 5) (b : BitVec 4) (c e : BitVec 5) (entry : Src) (n : BitVec 3) (ord : Bool) (s : State) :
    Host.Outcome State Fault Refusal :=
  .next (s.creating b c e entry n ord true (fun ch s =>
    let x := s.x a
    if x == 0xFFFFFFFFFFFFFFFF#64 then
      s.spawnOn d (anyCore (s.launchOf s.cur) (s.childIds s.me.sy.cre).2) ch entry.size
    else if !s.placeOk x then s.trap cTPLACE x
    else s.spawnOn d x.toNat ch entry.size))

/-- START, R256: the child takes an EMPTY helper context if there is one and a stack slot, else a queue entry; where the queue is
full the instruction waits. -/
def execStart (d : BitVec 5) (b : BitVec 4) (c e : BitVec 5) (entry : Src) (n : BitVec 3) (s : State) :
    Host.Outcome State Fault Refusal :=
  .next (s.creating b c e entry n false true (fun ch s =>
    let g := s.me.pl.core
    let ids := s.childIds s.me.sy.cre
    let t := s.childTask 3#4 ids g ch
    if s.me.pl.ctx != 0 then s.trap cTCTX 0#64
    else if s.releaseWaits 0#3 then s.block
    else
      let s := s.released true 0#3
      let u := s.nextUid
      let now := (if s.mayDispatch g t.tid.launch then (s.emptyHelpers g).head? else none).bind
        (fun h => (s.addTask (t.onPl (fun p => { p with life := .unqueued }))).place u h)
      match now with
      | some s => (s.countChild 1).result d ids.2 entry.size
      | none =>
        match (s.addTask (t.onPl (fun p => { p with life := .unqueued }))).toQueue u with
        | some s => (s.countChild 1).result d ids.2 entry.size
        | none => s.block))

/-- Whether a core is idle for rfork: an EMPTY helper and an empty task queue, R257; tasks of a launch that is OUT are saved and in no
queue (R253). -/
def State.idleCore (s : State) (g : Nat) : Bool :=
  !(s.emptyHelpers g).isEmpty &&
  !s.tasks.any (fun p => (p.2.pl.life == .queued || p.2.pl.life == .unqueued) && !p.2.tid.handler &&
    (s.launch p.2.tid.launch).st != .out && p.2.pl.core == g)
/-- Cores in ascending order of a measure. -/
def insertBy (f : Nat → Nat) (x : Nat) : List Nat → List Nat
  | [] => [x]
  | y :: ys => if f x < f y then x :: y :: ys else y :: insertBy f x ys
def sortBy (f : Nat → Nat) : List Nat → List Nat
  | [] => []
  | x :: xs => insertBy f x (sortBy f xs)
/-- The launch's cores on the issuing die in the order of R257. -/
def State.forkCores (s : State) : List Nat :=
  let g0 := s.me.pl.core
  sortBy (fun g => (g + 80 - g0 % 80) % 80) ((s.launchOf s.cur).active.filter (fun g => dieOf g == dieOf g0))

/-- Create the recruits of an rfork, R257; their budget is the parent's tbudinit. Log entries 47 (DEDUCED) and 86 (DESIGN
CHOICE). -/
def State.recruit (s : State) (cl cell trip k : Nat) (c : Child) : List (Nat × Nat) → State
  | [] => s
  | (i, g) :: rest =>
    let ids := s.childIds (s.me.sy.cre + BitVec.ofNat 32 i)
    let args := BitVec.ofNat 64 (i * trip / k) :: BitVec.ofNat 64 ((i + 1) * trip / k) :: c.args
    let t := s.childTask 4#4 ids g { c with args := args, bud := some s.me.sy.budInit }
    let t := { t with tid := { t.tid with cell := some (cl, cell, i) } }
    (s.enqueue t).recruit cl cell trip k c rest

/-- RFORK, R257. -/
def execRfork (d a : BitVec 5) (b : BitVec 4) (c e : BitVec 5) (entry : Src) (n : BitVec 3) (s : State) :
    Host.Outcome State Fault Refusal :=
  .next (s.creating b c e entry n false false (fun ch s =>
    let me := s.me
    let cl := clusterOf me.pl.core
    let trip := (s.x a).toNat % 2 ^ 48
    let grain := max 1 ((s.x a).toNat / 2 ^ 48)
    let cell := (s.x e).toNat
    let cont := s.x c
    let old := Map.get {} (s.cluster cl).cells cell
    if 63 < cell || old.st == .armed then s.trap cRFCELL (s.x e)
    else if cont.extractLsb' 0 2 != 0#2 then s.trap cIALIGN cont
    else if trip == 0 then s.result d 0#64 entry.size
    else if s.releaseWaits 2#3 then s.block
    else
      let s := s.released true 2#3
      let want := min ((trip + grain - 1) / grain) 80
      let all := s.forkCores
      let cores := if dmodeOf s.lmode == 0 then all.filter (fun g => g == me.pl.core || s.idleCore g) else all
      let k := min want cores.length
      let armed : Opal :=
        { seq := old.seq, rec_ := old.rec_, ptr := old.ptr, last := old.last, st := .armed, n := k, q := k, launch := me.tid.launch,
          fork := true, cont := cont, init := s.cur, initId := me.tid, initKey := me.sy.key, initBud := me.sy.budInit,
          initCount := me.sy.cre + BitVec.ofNat 32 k, initCore := me.pl.core, trip := BitVec.ofNat 64 trip }
      let s := s.onCluster cl (fun q => { q with cells := Map.set q.cells cell armed })
      let s := s.recruit cl cell trip k ch ((List.range k).zip cores)
      (s.countChild (k + 1)).result d (BitVec.ofNat 64 k) entry.size))

/-! ### Ending and yielding -/

/-- The end of a task by exit once nothing holds it back, R258, 13 R271, 16 R327; with its control task a core leaves the
core-launch. -/
def State.endTask (s : State) : State :=
  let u := s.cur
  let t := s.me
  let s := (s.leaveAll u false).freeHandles u
  let s := s.unpin u
  let s := if t.pl.ctx == 0 && !t.tid.handler && (s.launch t.tid.launch).core then
      s.onLaunch t.tid.launch (fun x => { x with gone := x.gone ++ [t.pl.core] })
    else s
  if t.tid.ord then s.updTask u (fun t => ((t.onRf (fun f => { f with h := [] })).onIo (fun o => { o with inbound := [] })).onPl (fun p => { p with life := .exited }))
  else
    let s := s.removeTask u
    match t.tid.cell with
    | some (cl, ent, i) => s.forkArrive cl ent i t.pl.core (some t.pl.ctx)
    | none => s

/-- What a control task's exit waits for, R258: EMPTY helpers and no queued task of its launch. -/
def State.coreBusy (s : State) : Bool :=
  let t := s.me
  t.pl.ctx == 0 && !t.tid.handler && (s.launchOf s.cur).core &&
  s.tasks.any (fun p => p.2.pl.core == t.pl.core &&
    ((p.2.pl.life == .resident && p.2.pl.run != .out && p.2.pl.ctx != 0) ||
     (p.1 != s.cur && p.2.pl.life != .exited && p.2.tid.launch == t.tid.launch)))

/-- EXIT, R258. -/
def execExit (s : State) : Host.Outcome State Fault Refusal :=
  .next (s.atKillPoint (fun s =>
    let o := s.me.io
    if !s.loadsDone s.cur || !o.sq.isEmpty || o.copies != 0 || o.tiles != 0 || !o.upds.isEmpty then s.block
    else s.report (fun s => s.reportCopy (fun _ => true) (fun s =>
      if s.coreBusy then s.block else (s.onMe (·.retired s.det s.pc)).endTask))))

/-- Refill the budget, R237. -/
def Sys.refill (y : Sys) : Sys := { y with budLeft := y.budInit, budOn := if y.budInit == 0#63 then y.budOn else true }
/-- YIELD, R258: requeued behind a task of the launch of a key at or below its own, and in the grace of a pre-emption (22 R402 step
2); it waits where the queue has no room (R242). Its own retirement counts in the budget it has refilled. Log entry 34 (DEDUCED). -/
def execYield (s : State) : Host.Outcome State Fault Refusal :=
  .next (s.atKillPoint (fun s =>
    let t := s.me
    let behind := s.tasks.any (fun p => p.2.pl.life == .queued && p.2.pl.core == t.pl.core && p.2.tid.launch == t.tid.launch &&
      decide (p.2.sy.key.toNat ≤ t.sy.key.toNat)) || (s.launchOf s.cur).preempt == 2
    if !s.loadsDone s.cur || (behind && (!t.io.sq.isEmpty || !t.io.upds.isEmpty)) then s.block
    else
      let s' := ((s.onMe (·.onSy Sys.refill)).retire 4).unpin s.cur
      if behind then ((s'.goOut s.cur).toQueue s.cur).getD s.block else s'))

/-- KEYSET, R259. -/
def execKeyset (a : BitVec 5) (s : State) : Host.Outcome State Fault Refusal :=
  .next (if s.me.tid.ord then s.trap cKEYORD 0#64
    else ((s.onMe (·.onSy (fun y => { y with key := s.x a }))).onMe (·.onPl (fun p =>
      { p with passed := decide ((s.x a).toNat ≤ s.dtime.toNat) }))).retire 12)

/-- BUDSET, R259: the instruction itself is counted as it retires. Log entry 34 (DEDUCED). -/
def execBudset (a : BitVec 5) (s : State) : Host.Outcome State Fault Refusal :=
  let v : BitVec 63 := (s.x a).setWidth 63
  .next ((s.onMe (·.onSy (fun y => { y with budInit := v, budLeft := v, budOn := v != 0#63 }))).retire 12)

/-! ### Messages -/

/-- Where a message goes: the channel flag and the number. -/
def Msg.target (m : Msg) : Nat := m.idx + (if m.chan then 32 else 0)
/-- The units of the queue area that a message needs at its target now, R238: a post register that is present, or a full
channel. -/
def State.unitsFor (s : State) (m : Msg) : Nat :=
  let c := s.coreSt m.dst
  if m.chan then (if 16 ≤ (Map.get [] c.chans m.idx).length then 3 else 0)
  else if (Map.get? c.posts m.idx).isSome then 1 else 0
/-- The first sender's lid of a target in the launch's phase, 01 R30. -/
def State.firstSender (s : State) (m : Msg) : Option Word :=
  match Map.get? (s.coreSt m.dst).senders (m.target + 64 * m.launch) with
  | some (ph, l) => if ph == (s.launch m.launch).phase then some l else none
  | none => none
/-- Note the sender of a target in the launch's phase. -/
def State.noteSender (s : State) (m : Msg) : State :=
  s.onCore m.dst (fun c => { c with senders := Map.set c.senders (m.target + 64 * m.launch) ((s.launch m.launch).phase, m.lid) })

/-- Send a message, R260, R245, R253: a provisional task's message to an ordered binding goes at once, any other is held
until its commit; `done` retires the instruction. -/
def State.sendMsg (s : State) (m : Msg) (done : State → State) : State :=
  let above := s.provisional s.cur
  let bound := match Map.get? (s.coreSt m.dst).binds m.target with
    | some b => b.ord
    | none => false
  let held := above && !bound
  let m := { m with prov := above && bound }
  let clash := if s.det then (s.firstSender m).filter (· != m.lid) else none
  match (match m.rel with | some sc => s.releaseWaits sc | none => false), clash with
  | true, _ => s.block
  | false, some l => s.trap cSENDER l
  | false, none =>
    let need := s.unitsFor m
    let (room, s) := if held || need == 0 then (true, s) else s.areaSpace (clusterOf m.dst) m.launch need (s.isHolder s.cur)
    if !room then s.block
    else
      let s := match m.rel with | some sc => s.released true sc | none => s
      let s := if s.det then s.noteSender m else s
      let s := if held then s.onMe (·.onIo (fun o => { o with held := o.held ++ [m] })) else { s with msgs := s.msgs ++ [m] }
      done s

/-- A message of the acting task. -/
def State.message (s : State) (chan : Bool) (idx g : Nat) (val : BitVec 1024) (tag : Tag) (rel : Bool) (scope : BitVec 3) :
    Msg :=
  let t := s.me
  { chan := chan, idx := idx, dst := g, val := val, tag := tag, sender := s.cur, lid := t.tid.lid, src := t.pl.core,
    launch := t.tid.launch, pair := if t.tid.ord then some t.pair else none, sent := s.dtime,
    rel := if rel then some scope else none }

/-- PSEND, R260. -/
def execPsend (rel : Bool) (scope : BitVec 3) (p a b : BitVec 5) (s : State) : Host.Outcome State Fault Refusal :=
  .next (if !s.placeOk (s.x a) then s.trap cTPLACE (s.x a)
    else s.sendMsg (s.message false p.toNat (s.x a).toNat ((s.x b).setWidth 1024) .n64 rel scope) (fun s => s.retire 12))

/-- CSEND, R260. -/
def execCsend (t : Tag) (rel : Bool) (scope : BitVec 3) (a b : BitVec 5) (q : BitVec 2) (s : State) :
    Host.Outcome State Fault Refusal :=
  .next (if !s.placeOk (s.x a) then s.trap cTPLACE (s.x a)
    else
      match s.vcheck [⟨2, b, fun x => x == t⟩] with
      | .wait => s.block
      | .trap i => s.fault i
      | .ok vs =>
        let v := (vs.head?.map (·.1)).getD 0#1024
        s.sendMsg (s.message true q.toNat (s.x a).toNat v t rel scope) (fun s => (s.popNamed [b]).retire 12))

/-- BIND, R261: an ordered binding has no key of its own: log entry 33 (DEDUCED). Its checks for ORDOFF and KEYORD come before the removal
by an entry of 0 and before BOUND: log entry 113 (DESIGN CHOICE). -/
def execBind (c e : BitVec 5) (entry : Src) (tgt : BindTarget) (ord : Bool) (s : State) :
    Host.Outcome State Fault Refusal :=
  let t := s.me
  let g := t.pl.core
  let ent := (entryOf entry)
  let idx := match tgt with
    | .post p => p.toNat
    | .chan q => 32 + q.toNat
  let num := match tgt with
    | .post p => p.toNat
    | .chan q => q.toNat
  .next (if ent.extractLsb' 0 2 != 0#2 then s.trap cIALIGN ent
    else if ord && !ordOf s.lmode then s.trap cORDOFF 0#64
    else if t.tid.ord && !ord then s.trap cKEYORD 0#64
    else if ent == 0#64 then (s.onCore g (fun k => { k with binds := Map.del k.binds idx })).retire entry.size
    else if (Map.get? (s.coreSt g).binds idx).isSome then s.trap cBOUND (BitVec.ofNat 64 num)
    else
      let b : Binding :=
        { entry := ent, key := if ord then none else some (if c == 24#5 then t.sy.key else s.x c), ord := ord,
          bud := if e == 24#5 then none else some (s.x e), launch := t.tid.launch, vf := t.tid.vf, binder := s.cur,
          binderLid := t.tid.lid }
      (s.onCore g (fun k => { k with binds := Map.set k.binds idx b })).retire entry.size)

/-- PWAIT, R262: a value that this wait has been given comes first (R241). -/
def execPwait (d p : BitVec 5) (s : State) : Host.Outcome State Fault Refusal :=
  .next (s.atKillPoint (fun s =>
    let g := s.me.pl.core
    let take (m : Msg) (s : State) : State :=
      ((s.consumed g s.me.tid.launch m.src m.sent m.arrived).onMe (·.count 2 3 1)).result d (m.val.setWidth 64) 4
    match s.me.pl.got.filter (·.idx == p.toNat), Map.get? (s.coreSt g).posts p.toNat with
    | some m, _ => take m (s.onMe (·.onPl (fun q => { q with got := none })))
    | none, some m => take m (s.clearPost g p.toNat)
    | none, none => (s.onMe (·.onPl (fun q => { q with waitPost := some p.toNat }))).block))

/-- HORZ, R263: the value delivered to the core, which never exceeds the true one (R246). -/
def execHorz (d : BitVec 5) (s : State) : Host.Outcome State Fault Refusal :=
  .next (if s.timeClosed then s.trap cTIME 0#64
    else
      match (if ordOf s.lmode then s.horizon s.me.tid.vf else none) with
      | none => s.result d 0xFFFFFFFFFFFFFFFF#64 4
      | some h =>
        let got := (s.coreSt s.me.pl.core).horizon
        s.result d (if got.toNat < h.key.toNat then got else h.key) 4)

/-- GETLID, R263. -/
def execGetlid (d : BitVec 5) (s : State) : Host.Outcome State Fault Refusal :=
  .next (s.result d (s.me.tid.lid.setWidth 48 |>.setWidth 64) 4)

end Sys2Proof.Machine
end

