-- ==== Sys2Proof/Machine/SyncOps.lean ====
section
/-! DEFINITION. Sync engine instructions (13 R288-R290). Every one of an ordered task above the horizon waits (R286). -/
namespace Sys2Proof.Machine

/-- Causes of R287. -/
def cGSTATE : BitVec 8 := 0x28#8
def cGRECT : BitVec 8 := 0x29#8
def cGMEMBER : BitVec 8 := 0x2A#8
def cQSTATE : BitVec 8 := 0x2B#8
def cQDESC : BitVec 8 := 0x2C#8
def cQFMT : BitVec 8 := 0x2D#8
def cQREC : BitVec 8 := 0x2E#8
def cGREF : BitVec 8 := 0x2F#8

/-! ### References -/

/-- The cluster and entry that an identifier names for an issuer in a cluster, R268. -/
def Part.syncRef (p : Part) (me : Nat) (x : Word) (cell own : Bool) : Option (Nat × Nat) :=
  let ent := (x.extractLsb' 0 8).toNat
  if x.extractLsb' 26 38 != 0#38 || x.extractLsb' 8 8 != 0#8 || (cell && decide (64 ≤ ent)) then none
  else
    match p.clusterAt (x.extractLsb' 16 10).toNat with
    | some c => if p.mayReach me c && (!own || c == me) then some (c, ent) else none
    | none => none
/-- A sync instruction: it waits above the horizon, and resolves its identifier or takes GREF. Log entry 46 (DEDUCED). -/
def State.sync (s : State) (a : BitVec 5) (cell own : Bool) (cont : Nat → Nat → State → State) : State :=
  if s.provisional s.cur then s.block
  else
    match (s.part s.me.tid.vf).syncRef (clusterOf s.me.pl.core) (s.x a) cell own with
    | none => s.trap cGREF (s.x a)
    | some (c, e) => cont c e s

def State.group (s : State) (cl ent : Nat) : Group := Map.get {} (s.cluster cl).groups ent
def State.setGroup (s : State) (cl ent : Nat) (g : Group) : State :=
  s.onCluster cl (fun k => { k with groups := Map.set k.groups ent g })
def State.cell (s : State) (cl ent : Nat) : Opal := Map.get {} (s.cluster cl).cells ent
def State.setCell (s : State) (cl ent : Nat) (c : Opal) : State :=
  s.onCluster cl (fun k => { k with cells := Map.set k.cells ent c })
/-- The member that a task is. -/
def Group.member (g : Group) (u : Nat) : Option Member := g.members.find? (fun m => m.uid == u)
/-- Change a member. -/
def Group.upd (g : Group) (u : Nat) (f : Member → Member) : Group :=
  { g with members := g.members.map (fun m => if m.uid == u then f m else m) }
/-- Whether a group entry is out of a task's reach: FREE, or of another launch (R269). -/
def State.foreign (s : State) (g : Group) : Bool := g.st == .free || g.launch != s.me.tid.launch

/-! ### Groups -/

/-- Whether a core lies in a group's rectangle on the die of its home cluster, R272. -/
def Group.covers (g : Group) (cl core : Nat) : Bool :=
  let row := core % 80 / 8
  let col := core % 8
  dieOf core == cl / 10 && decide (g.row0 ≤ row) && decide (row < g.row0 + g.rows) && decide (g.col0 ≤ col) &&
  decide (col < g.col0 + g.cols)
/-- How many BARRIER groups, and QUORUM groups, a task is a member of. -/
def State.memberships (s : State) (u : Nat) (st : GroupSt) : Nat :=
  ((s.groupsOf u).filter (fun p => (s.group p.1 p.2).st == st)).length
/-- Members stay in ascending index order. -/
def insertMember (m : Member) : List Member → List Member
  | [] => [m]
  | n :: ns => if m.idx < n.idx then m :: n :: ns else n :: insertMember m ns

/-- Join a BARRIER group, R269, R271, R272. Log entries 88 (DESIGN CHOICE), 102 (DESIGN CHOICE). -/
def State.joinBarrier (s : State) (cl ent : Nat) (a : BitVec 5) : State :=
  let g := s.group cl ent
  let u := s.cur
  if (g.member u).isSome || decide (8 ≤ s.memberships u .barrier) || decide (1024 ≤ g.members.length) then
    s.trap cGMEMBER (s.x a)
  else if !g.covers cl s.me.pl.core then s.trap cGRECT (s.x a)
  else (s.setGroup cl ent { g with members := g.members ++ [{ uid := u }] }).retire 12
/-- Join a QUORUM group with a member index, R271, R289. -/
def State.joinQuorum (s : State) (cl ent : Nat) (a b : BitVec 5) : State :=
  let g := s.group cl ent
  let c := s.cell cl g.cell
  let u := s.cur
  let i := (s.x b).toNat
  if decide (1 ≤ s.memberships u .quorum) || decide (c.n ≤ i) || g.members.any (fun m => m.idx == i) ||
      c.departed.contains i then s.trap cGMEMBER (s.x a)
  else (s.setGroup cl ent { g with members := insertMember { uid := u, idx := i } g.members }).retire 12

/-- GJOIN, R289. -/
def execGjoin (a b : BitVec 5) (s : State) : Host.Outcome State Fault Refusal :=
  .next (s.atKillPoint (fun s => s.sync a false false (fun cl ent s =>
    let g := s.group cl ent
    if s.foreign g then s.trap cGSTATE (s.x a)
    else if g.st == .barrier then
      if b != 24#5 then s.trap cILL (firstWordOf (.gjoin a b)) else s.joinBarrier cl ent a
    else s.joinQuorum cl ent a b)))

/-- GLEAVE, R271. Log entry 99 (DESIGN CHOICE). -/
def execGleave (a : BitVec 5) (s : State) : Host.Outcome State Fault Refusal :=
  .next (s.atKillPoint (fun s => s.sync a false false (fun cl ent s =>
    let g := s.group cl ent
    if s.foreign g then s.trap cGSTATE (s.x a)
    else if g.st == .quorum || (g.member s.cur).isNone then s.trap cGMEMBER (s.x a)
    else (s.leaveGroup s.cur false cl ent).retire 12)))

/-- BARINIT, R289. Log entries 89 (DESIGN CHOICE), 102 (DESIGN CHOICE). -/
def execBarinit (a b : BitVec 5) (s : State) : Host.Outcome State Fault Refusal :=
  .next (s.atKillPoint (fun s => s.sync a false true (fun cl ent s =>
    let g := s.group cl ent
    let x := (s.x b).toNat
    let row0 := x % 16
    let rows := x / 16 % 16
    let col0 := x / 256 % 16
    let cols := x / 4096 % 16
    if g.st != .free && g.launch != s.me.tid.launch then s.trap cGSTATE (s.x a)
    else if x == 0 then
      if g.st == .quorum || !g.members.isEmpty then s.trap cGSTATE (s.x a) else (s.setGroup cl ent {}).retire 12
    else if g.st != .free then s.trap cGSTATE (s.x a)
    else if x / 65536 != 0 || rows == 0 || cols == 0 || decide (10 < row0 + rows) || decide (8 < col0 + cols) then
      s.trap cGRECT (s.x a)
    else
      (s.setGroup cl ent { st := .barrier, launch := s.me.tid.launch, row0 := row0, rows := rows, col0 := col0,
                           cols := cols }).retire 12)))

/-- A barrier instruction of a member, R287. -/
def State.barrier (s : State) (a : BitVec 5) (cont : Nat → Nat → Group → Member → State → State) : State :=
  s.sync a false false (fun cl ent s =>
    let g := s.group cl ent
    if s.foreign g || g.st != .barrier then s.trap cGSTATE (s.x a)
    else
      match g.member s.cur with
      | none => s.trap cGMEMBER (s.x a)
      | some m => cont cl ent g m s)
/-- Whether an arrival on its way may be performed, R275: it is a release at die scope of what came before it, while what the
task does after it is ordered by neither. A stopped member does not arrive (R286). -/
def State.arrivalReady (s : State) (m : Member) : Bool :=
  match m.due with
  | none => false
  | some (n, ser) =>
    let t := s.task m.uid
    let older := t.io.sq.filter (fun e => decide (e.issued < n))
    !t.pl.stopped && older.all (fun e => e.ser != 0 && e.cells.isEmpty) && t.io.lq.all (fun e => e.write.isEmpty) &&
    !s.ms.l1.any (fun p => coreSees t.pl.core p.unit && (decide (p.ser ≤ ser) || older.any (fun e => e.ser == p.ser))) &&
    !(s.coreSt t.pl.core).tileq.any (fun o => o.owner == m.uid)
/-- Perform a member's arrival in the pending phase, R273. -/
def State.arriveAt (s : State) (cl ent u : Nat) : State :=
  let s := s.releasePins u 2#3
  let g := s.group cl ent
  (s.setGroup cl ent (g.upd u (fun m => { m with arrived := true, phase := g.phase, due := none }))).settleBarrier cl ent
/-- Members of a group whose arrival may be performed. -/
def State.arrivals (s : State) (g : Group) : List Nat := (g.members.filter s.arrivalReady).map (·.uid)
/-- Perform the arrivals of a barrier group that are ready. -/
def State.dueArrivals (s : State) (cl ent : Nat) : State :=
  (s.arrivals (s.group cl ent)).foldl (fun s u => s.arriveAt cl ent u) s
/-- Arrive in the pending phase: the arrival goes to the home. -/
def State.barArrive (s : State) (cl ent : Nat) (g : Group) : State :=
  (s.setGroup cl ent (g.upd s.cur (fun m => { m with due := some (s.me.pl.retired, s.ms.vseq) }))).dueArrivals cl ent

/-- BARARR, R273. -/
def execBararr (a : BitVec 5) (s : State) : Host.Outcome State Fault Refusal :=
  .next (s.barrier a (fun cl ent g m s =>
    if m.arrived || m.due.isSome then s.trap cGMEMBER (s.x a) else (s.barArrive cl ent g).retire 12))

/-- BARWAIT, R273, R274: it returns once the sweep network has delivered the release of the phase it arrived in. -/
def execBarwait (a : BitVec 5) (s : State) : Host.Outcome State Fault Refusal :=
  .next (s.atKillPoint (fun s => s.barrier a (fun cl ent g m s =>
    if m.due.isSome then s.block
    else if !m.arrived then (s.barArrive cl ent g).block
    else if g.phase == m.phase || g.out != g.phase then s.block
    else (s.setGroup cl ent (g.upd s.cur (fun m => { m with arrived := false }))).retire 12)))

/-! ### Descriptors -/

/-- The descriptor of qinit, R277. -/
structure QDesc where
  tag : BitVec 4
  fill : BitVec 2
  dl : Bool
  q : Nat
  n : Nat
  group : Word
  deadline : Word
  cont : Word
  wts : Word
  fillv : Word
  rec_ : Word
  stage : Word
deriving DecidableEq, Repr
/-- The descriptor's fields and whether it is well formed apart from its weights, R277. -/
def qdesc (ws : List Nat) : QDesc × Bool :=
  let w (i : Nat) : Word := BitVec.ofNat 64 ((ws[i]?).getD 0)
  let w0 := w 0
  let d : QDesc :=
    { tag := w0.extractLsb' 44 4, fill := w0.extractLsb' 42 2, dl := w0.getLsbD 41, q := (w0.extractLsb' 16 11).toNat,
      n := (w0.extractLsb' 0 11).toNat, group := w 1, deadline := w 2, cont := w 3, wts := w 4, fillv := w 5, rec_ := w 6,
      stage := w 7 }
  let ok := w0.extractLsb' 48 16 == 0#16 && w0.extractLsb' 27 14 == 0#14 && w0.extractLsb' 11 5 == 0#5 &&
    (d.tag == 0#4 || d.tag == 3#4 || d.tag == 4#4 || d.tag == 0xA#4) && decide (1 ≤ d.n) && decide (d.n ≤ 1024) &&
    decide (1 ≤ d.q) && decide (d.q ≤ d.n) && d.fill != 3#2 && !(d.fill == 1#2 && (d.tag == 3#4 || d.tag == 4#4)) &&
    aligned d.wts (contBytes d.tag) && aligned d.rec_ 8 && aligned d.stage 128 && aligned d.cont 4 &&
    (d.stage != 0#64 || d.tag == 0#4)
  (d, ok)
/-- Whether a weight is refused, R277: an f32 weight below -0.0, infinite or NaN. -/
def badWeight (tag : BitVec 4) (w : Nat) : Bool :=
  tag == 0xA#4 && (match fpDecode .f32 w with
    | .nan _ | .inf _ => true
    | .fin neg m _ => neg && m != 0)

/-- A read by the sync engine for the issuing task with precise faults, R290: untracked, of performed values. Log entry 44 (DEDUCED). -/
def State.syncRead (s : State) (va : Word) (n : Nat) : Out (List Byte) × State :=
  match s.xlate (s.agentOf s.cur) { rd := true } va n with
  | (.error e, s) => (.trap (e.trap 1#4 0#8), s)
  | (.ok gs, s) =>
    let locs := segLocs gs
    if s.pinnedAway s.me.pl.core locs || s.hostBusy locs then (.wait, s)
    else
      let s := s.recallLocs s.me.tid.vf locs
      match s.poisonAt locs with
      | some unit => (.trap { code := cMCHK, tval := s.me.tid.lid, kind := 1#4, detail := BitVec.ofNat 8 unit }, s)
      | none =>
        let s := s.toRead s.cur locs
        (.ok (locs.map (fun l => (s.homeByte s.cur l).1)), s)
/-- A check of the engine's own addresses, R277: the kind is 2 where w is refused, else 1. -/
def State.syncCheck (s : State) (nd : Need) (va : Word) (n : Nat) : Out Unit × State :=
  match s.xlate (s.agentOf s.cur) nd va n with
  | (.ok _, s) => (.ok (), s)
  | (.error e, s) =>
    let kind : BitVec 4 := if nd.w && e.code == cPERM && e.detail == 0#8 then 2#4 else 1#4
    (.trap (e.trap kind 0#8), s)
/-- The weights of a descriptor. -/
def State.readWeights (s : State) (d : QDesc) : Out (List Nat) × State :=
  if d.tag == 0#4 || d.wts == 0#64 then
    (.ok (List.replicate d.n (if d.tag == 0xA#4 then 0x3F800000 else 1)), s)
  else
    match s.syncRead d.wts (d.n * contBytes d.tag) with
    | (.ok bs, s) => (.ok (groupBytes (contBytes d.tag) d.n bs), s)
    | (.trap i, s) => (.trap i, s)
    | (.wait, s) => (.wait, s)

/-- The indices of the ones of a mask in words of 64 bits. -/
def maskIndices (ws : List Nat) : List Nat :=
  (ws.zipIdx).flatMap (fun p => ((List.range 64).filter (fun j => p.1.testBit j)).map (fun j => 64 * p.2 + j))
/-- The recorded set of an entry, R285; none for QREC. Log entry 101 (DESIGN CHOICE). -/
def recordedSet (id : Word) (n : Nat) (bs : List Byte) : Option (List Nat) :=
  let ws := groupBytes 8 (2 + (n + 63) / 64) bs
  let w0 := ws.headD 0
  let is := maskIndices (ws.drop 2)
  if (ws[1]?).getD 0 != id.toNat || w0 / 2 ^ 21 % 2 ^ 11 != n || w0 / 2 ^ 32 % 2 ^ 11 != is.length then none
  else some (is.filter (fun i => decide (i < n)))

/-- The checks of the record entry at the pointer, R277, R285: the recorded set in dmode 2. -/
def State.checkRecord (s : State) (cl ent : Nat) (d : QDesc) (ptr : Word) : Out (Option (List Nat)) × State :=
  let dm := dmodeOf s.lmode
  if dm == 2 && d.rec_ == 0#64 then (.trap { code := cQREC, tval := ptr }, s)
  else if dm == 0 || d.rec_ == 0#64 then (.ok none, s)
  else if dm == 1 then
    match s.syncCheck { w := true } ptr (recordBytes d.n) with
    | (.ok (), s) => (.ok none, s)
    | (.trap i, s) => (.trap i, s)
    | (.wait, s) => (.wait, s)
  else
    match s.syncRead ptr (recordBytes d.n) with
    | (.ok bs, s) =>
      match recordedSet (s.cellId s.me.tid.vf cl ent) d.n bs with
      | some r => (.ok (some r), s)
      | none => (.trap { code := cQREC, tval := ptr }, s)
    | (.trap i, s) => (.trap i, s)
    | (.wait, s) => (.wait, s)

/-- Arm a cell and its group, R290. -/
def State.armCell (s : State) (d : BitVec 5) (cl ent : Nat) (q : QDesc) (ws : List Nat) (ptr : Word) (r : Option (List Nat)) :
    State :=
  let old := s.cell cl ent
  let t := s.me
  let g := (q.group.extractLsb' 0 8).toNat
  let c : Opal :=
    { st := .armed, seq := old.seq, last := old.last, n := q.n, q := q.q, launch := t.tid.launch, tag := q.tag, fill := q.fill,
      dl := q.dl, deadline := q.deadline, group := g, cont := q.cont, wts := ws.map (BitVec.ofNat 64), fillv := q.fillv,
      stage := q.stage, recset := r, rec_ := q.rec_, ptr := ptr, init := s.cur, initId := t.tid, initKey := t.sy.key,
      initBud := t.sy.budInit, initCount := t.sy.cre, initCore := t.pl.core }
  let ids := s.childIds t.sy.cre
  let s := (s.setCell cl ent c).setGroup cl g { st := .quorum, launch := t.tid.launch, cell := ent, n := q.n }
  let s := (s.countChild 1).setX d (ids.2.setWidth 48 |>.setWidth 64)
  if r == some [] then s.releaseCell cl ent 4#4 t.pl.core none else s.dueCells

/-- QINIT, R290. The weights are read before the group's checks, to which the rule gives no place. Log entry 116 (DESIGN CHOICE). -/
def execQinit (d a b : BitVec 5) (s : State) : Host.Outcome State Fault Refusal :=
  .next (s.atKillPoint (fun s => s.sync a true true (fun cl ent s =>
    let at_ := s.x b
    if (s.cell cl ent).st == .armed then s.trap cQSTATE (s.x a)
    else if !aligned at_ 64 then s.trap cALIGN at_
    else
      Out.bind (s.syncRead at_ 64) (fun bs s =>
        let q := qdesc (groupBytes 8 8 bs)
        if !q.2 then s.trap cQDESC at_
        else
          Out.bind (s.readWeights q.1) (fun ws s =>
            let q := q.1
            if ws.any (badWeight q.tag) then s.trap cQDESC at_
            else
              match (s.part s.me.tid.vf).syncRef cl q.group false true with
              | none => s.trap cGREF q.group
              | some (_, g) =>
                if (s.group cl g).st != .free then s.trap cGSTATE q.group
                else
                  let old := s.cell cl ent
                  let ptr := if q.rec_ == old.rec_ then old.ptr else q.rec_
                  Out.bind (if q.stage == 0#64 then (.ok (), s)
                      else s.syncCheck { rd := true, w := true } q.stage (128 * (q.n + 1))) (fun _ s =>
                    Out.bind (s.checkRecord cl ent q ptr) (fun r s =>
                      (s.armCell d cl ent q ws ptr r).retire 12)))))))

/-! ### Arrivals -/

/-- The arrival of member i at an ARMED cell, R280, R281: its term is formed and written to its slot. -/
def State.quorumArrive (s : State) (cl ent : Nat) (i : Nat) (v : BitVec 1024) : State :=
  let c := s.cell cl ent
  let u := s.cur
  let w := ((c.wts[i]?).getD 0#64).toNat
  let s :=
    if c.tag == 0#4 then s
    else
      let xs := (List.range (contElems c.tag)).map (fun j => vget v (8 * contBytes c.tag) j)
      let (t, f) := zipFlags (fun x _ => termElem c.tag w x) xs xs
      let s := s.setCell cl ent { c with flags := c.flags ||| f }
      match s.hubWrite (engineAgent c.initId.vf cl) (c.stage + BitVec.ofNat 64 (128 * (i + 1))) (t.flatMap (leBytes (contBytes c.tag))) with
      | (true, s) => s
      | (false, s) => s.waive c.launch
  let c := s.cell cl ent
  let s := s.setCell cl ent { c with arrived := c.arrived ++ [i] }
  let s := s.setGroup cl c.group ((s.group cl c.group).upd u (fun m => { m with arrived := true }))
  let c := s.cell cl ent
  if c.full then s.releaseCell cl ent c.howFull s.me.pl.core none else s

/-- QARR, R280, R290. A cell that rfork has armed takes QSTATE while it is ARMED (R276); once it is RELEASED it has no member, and takes
GMEMBER. Log entry 115 (DESIGN CHOICE). -/
def execQarr (a : BitVec 5) (con : Contribution) (s : State) : Host.Outcome State Fault Refusal :=
  .next (s.atKillPoint (fun s => s.sync a true false (fun cl ent s =>
    let c := s.cell cl ent
    if c.st == .armed && c.fork then s.trap cQSTATE (s.x a)
    else
      let g := s.group cl c.group
      match (if g.st == .quorum && g.cell == ent && c.st == .armed then g.member s.cur else none) with
      | none => s.trap cGMEMBER (s.x a)
      | some m =>
        if m.arrived then s.trap cGMEMBER (s.x a)
        else if con.aux != (if c.tag == 0#4 then 0#4 else 1#4) || con.stag != c.tag then s.trap cQFMT (s.x a)
        else
          match (match con with
            | .none => (.ok [] : Out (List (BitVec 1024 × Tag)))
            | .vec t b => s.vcheck [⟨2, b, fun x => x == t⟩]) with
          | .wait => s.block
          | .trap i => s.fault i
          | .ok vs =>
            if s.releaseWaits 4#3 then s.block
            else
              let s := s.released true 4#3
              if (match c.recset with | some r => !r.contains m.idx | none => false) then
                (s.setCell cl ent { c with held := if c.held.contains m.idx then c.held else m.idx :: c.held }).block
              else
                let s := s.quorumArrive cl ent m.idx ((vs.head?.map (·.1)).getD 0#1024)
                let s := match con with | .none => s | .vec _ b => s.popNamed [b]
                s.retire 12)))

/-! ### Reading a cell -/

/-- QWAIT, R290: one that waits returns at the next release, with the state word of that release. Log entry 45 (DEDUCED). -/
def execQwait (d a : BitVec 5) (s : State) : Host.Outcome State Fault Refusal :=
  .next (s.atKillPoint (fun s => s.sync a true false (fun cl ent s =>
    let c := s.cell cl ent
    let done (s : State) : State := (s.onMe (·.onPl (fun p => { p with waitSeq := none }))).result d c.last 12
    match s.me.pl.waitSeq with
    | some n => if n == c.seq then s.block else done s
    | none =>
      if c.st == .released then done s
      else (s.onMe (·.onPl (fun p => { p with waitSeq := some c.seq }))).block)))

/-- QSTAT, R290: a status read. -/
def execQstat (d a : BitVec 5) (s : State) : Host.Outcome State Fault Refusal :=
  .next (s.sync a true false (fun cl ent s =>
    if s.timeClosed then s.trap cTIME 0#64 else s.result d (s.cell cl ent).word 12))

/-- QREC, R290. -/
def execQrec (d a : BitVec 5) (s : State) : Host.Outcome State Fault Refusal :=
  .next (s.sync a true false (fun cl ent s => s.result d (s.cell cl ent).ptr 12))

end Sys2Proof.Machine
end

