-- ==== Sys2Proof/Machine/GarnetOps.lean ====
section
/-! DEFINITION. Propensity instructions (20 R370-R383). -/
namespace Sys2Proof.Machine

def cEVPAST : BitVec 8 := 0x3C#8

/-! ### Admission -/

/-- Resolve a region id of the acting task; a malformed id or a cluster that is not permitted is EVREF, precise in every
entry (R372). -/
def State.regionOf (s : State) (a : BitVec 5) (cont : Nat → Nat → State → State) : State :=
  match s.updRegion s.cur (s.x a) with
  | none => s.trap cEVREF (s.x a)
  | some (c, r) => cont c r s

/-- Admit an answered command at a region, R373, R384: `hold` makes every ordered task wait for the horizon, else one
waits at a PLAIN region only. -/
def State.admitAt (s : State) (a : BitVec 5) (hold : Bool) (x : Region) (cont : State → State) : State :=
  let above := s.provisional s.cur
  if x.ordered && !s.me.tid.ord then s.trap cEVDISC (s.x a)
  else if above && (hold || !x.ordered) then s.block
  else
    match s.regionLid s.cur x with
    | some o => s.trap cEVLID o
    | none => cont s
/-- The acting task's updates come before its answered command (R359): they are performed now. -/
def State.afterUpds (s : State) : State := s.flushUpds s.cur (State.updRefused s.cur) s.me.io.upds.length
/-- An answered command to a configured region: a kill point (R371). It is sent and performed in one step, and its answer is then on its
way (`State.awaitAnswer`). Log entry 90 (DEDUCED). -/
def State.answered (s : State) (a : BitVec 5) (hold : Bool) (cont : Nat → Nat → Region → State → State) : State :=
  s.atKillPoint (fun s => s.afterUpds.regionOf a (fun cl r s =>
    match s.region cl r with
    | none => s.trap cEVREF (s.x a)
    | some x => s.admitAt a hold x (fun s => cont cl r x s)))
/-- The engine has performed an answered command, and its answer is on its way: the task waits, and a kill that comes during the wait
is taken, so that the result is lost; a task that is switched out has it in its image (R375). -/
def State.awaitAnswer (s : State) : State := s.onMe (·.onPl (fun p => { p with run := .wait, answer := true }))
/-- An answered command completes at the engine. -/
def State.evAnswer (s : State) (cl r : Nat) (d : BitVec 5) (v : Word) : State :=
  ((s.noteLid s.cur cl r).result d v 12).awaitAnswer

/-- Whether the log has an entry for the acting task, R364: the reserved one is the horizon holder's. -/
def State.logRoom (s : State) (cl r : Nat) (x : Region) : Bool :=
  !s.provisional s.cur || decide (1 + s.updsTo cl r < x.logFree)

/-! ### Updates -/

/-- The value of an update, R377. -/
def State.updValue (s : State) (add : Bool) (v : LeafSrc) : Word :=
  match v with
  | .reg c => s.x c
  | .imm i => if add then i.signExtend 64 else i.setWidth 64
  | .lit w => w
/-- EVSET and EVADD, R371, R377. -/
def State.sendUpd (s : State) (add : Bool) (a b : BitVec 5) (v : LeafSrc) : State :=
  s.regionOf a (fun cl r s =>
    let ready := match s.region cl r with
      | some x => if x.ordered then s.logRoom cl r x else !s.provisional s.cur
      | none => !s.provisional s.cur
    if !ready then s.block
    else
      let up : LeafUpd := { add := add, pc := s.pc, region := s.x a, leaf := s.x b, val := s.updValue add v,
                            issued := s.me.pl.retired }
      (s.onMe (·.onIo (fun o => { o with upds := o.upds ++ [up] }))).retire v.size)

/-- EVSET, R377. -/
def execEvset (a b : BitVec 5) (v : LeafSrc) (s : State) : Host.Outcome State Fault Refusal := .next (s.sendUpd false a b v)

/-- EVADD, R377. -/
def execEvadd (a b : BitVec 5) (v : LeafSrc) (s : State) : Host.Outcome State Fault Refusal := .next (s.sendUpd true a b v)

/-! ### Configuration -/

/-- A power of two. -/
def isPow2 (n : Nat) : Bool := n != 0 && n == 2 ^ n.log2
/-- Whether a region table image is malformed, R354. -/
def imageBad (ws : List Nat) : Bool :=
  let w0 := ws.headD 0
  let e := asSigned 8 (w0 / 2 ^ 32 % 256)
  let n := w0 % 2 ^ 32
  w0 / 2 ^ 40 != 0 || (ws[1]?).getD 0 != 0 || !isPow2 n || decide (262144 < n) || decide (e < -64) || decide (63 < e) ||
  (ws.drop 2).any (fun h => h % 4 != 0)
/-- Whether a range of leaves lies in the engine's tree and overlaps no other region there, R376. -/
def State.rangeOk (s : State) (cl base n : Nat) : Bool :=
  base % n == 0 && (decide (32768 < n) || decide (base + n ≤ 32768)) &&
  !(s.leafRanges cl).any (fun r => decide (r.1 < base + n) && decide (base < r.1 + r.2))
/-- Whether a wide region may be configured, R353, R376: its engines hold no other region. -/
def State.wideOk (s : State) (p : Part) (cl reg base n : Nat) : Bool :=
  let w := n / 32768
  let row := cl % 10
  decide (n ≤ 32768) || (base == 0 && reg == 0 && row % w == 0 && decide (w ≤ 8) && decide (row + w ≤ 10) &&
    (List.range w).all (fun k => p.clusters.contains (cl + k) && (s.leafRanges (cl + k)).isEmpty))
/-- Whether a draw-table word is in order, R376. -/
def drawWordOk (x : Nat) : Bool :=
  x % 2 ^ 21 % 16 == 0 && x / 2 ^ 21 % 2 ^ 11 == 0 && x / 2 ^ 53 == 0 &&
  decide (x % 2 ^ 21 + 16 * (x / 2 ^ 32 % 2 ^ 21) ≤ 2 ^ 21)
/-- The leaf words of a range become 0. -/
def State.clearLeaves (s : State) (cl base n : Nat) : State :=
  (List.range (max 1 (n / 32768))).foldl (fun s k => s.onCluster (cl + k) (fun c =>
    { c with leaves := c.leaves.filter (fun p => !(decide (base ≤ p.1) && decide (p.1 < base + n))) })) s

/-- EVCFG in its form that removes a region, R376. -/
def State.evRemove (s : State) (a : BitVec 5) (cl r : Nat) : State :=
  match s.region cl r with
  | none => s.trap cEVREF (s.x a)
  | some x =>
    if !x.log.isEmpty || !x.queue.isEmpty || x.armed then s.trap cEVSTATE (s.x a)
    else ((s.onCluster cl (fun c => { c with regions := Map.del c.regions r })).retire 12).awaitAnswer
/-- The region that EVCFG configures. -/
def State.newRegion (s : State) (ord : Bool) (ws : List Nat) (base : Nat) (tab : Option Word) : Region :=
  let w0 := ws.headD 0
  let n := w0 % 2 ^ 32
  let x := (tab.getD 0#64).toNat
  { base := base, leaves := n, wide := max 1 (n / 32768), e := asSigned 8 (w0 / 2 ^ 32 % 256), ordered := ord,
    handlers := (ws.drop 2).map (BitVec.ofNat 64), draws := drawsOf s.lmode, table := x % 2 ^ 21,
    tlen := x / 2 ^ 32 % 2 ^ 21, launch := s.me.tid.launch }
/-- Read the region table as an agent of the cluster, R368: untracked. -/
def State.readTable (s : State) (cl : Nat) (va : Word) (n : Nat) : Out (List Byte) × State :=
  let who := engineAgent s.me.tid.vf cl
  match s.xlate who { rd := true } va n with
  | (.error e, s) => (.trap (e.trap 1#4 0#8), s)
  | (.ok gs, s) =>
    let locs := segLocs gs
    let s := s.atHome who.vf locs
    match s.poisonAt locs with
    | some unit => (.trap { code := cMCHK, tval := s.me.tid.lid, kind := 1#4, detail := BitVec.ofNat 8 unit }, s)
    | none =>
      let s := s.tookReplica who.vf (cl / 10) locs
      (.ok (locs.map (s.engineViewed cl)), s)
/-- EVCFG in its form that configures a region, R376. -/
def State.evConfigure (s : State) (ord wait : Bool) (pre : State → State) (a b c e : BitVec 5) (cl r : Nat) : State :=
  if !aligned (s.x b) 8 then s.trap cALIGN (s.x b)
  else if wait then s.block
  else
    Out.bind (s.readTable cl (s.x b) 144) (fun bs s =>
      let ws := groupBytes 8 18 bs
      let n := ws.headD 0 % 2 ^ 32
      let base := (s.x c).toNat
      let tab := if e == 24#5 || drawsOf s.lmode == 0#2 then none else some (s.x e)
      if (s.region cl r).isSome || imageBad ws || !s.rangeOk cl base n then s.trap cEVSTATE (s.x a)
      else if ord && !ordOf s.lmode then s.trap cORDOFF 0#64
      else if !s.wideOk (s.part s.me.tid.vf) cl r base n then s.trap cEVSTATE (s.x a)
      else if (match tab with | some x => !drawWordOk x.toNat | none => false) then s.trap cEVSTATE (s.x a)
      else (((((pre s).clearLeaves cl base n).setRegion cl r (s.newRegion ord ws base tab)).noteLid s.cur cl r).retire 12).awaitAnswer)

/-- EVCFG, R376. A configured ORDERED region refuses an unordered task; every ordered task waits for the horizon. -/
def execEvcfg (ord acq rel : Bool) (scope : BitVec 3) (a b c e : BitVec 5) (s : State) : Host.Outcome State Fault Refusal :=
  .next (s.atKillPoint (fun s =>
    s.afterUpds.regionOf a (fun cl r s =>
      let go (s : State) : State :=
        if b == 24#5 then s.evRemove a cl r
        else s.evConfigure ord ((acq || rel) && s.releaseWaits (engineScope acq scope)) (·.released rel scope) a b c e cl r
      if cl != clusterOf s.me.pl.core then s.trap cEVREF (s.x a)
      else
        match s.region cl r with
        | some x => s.admitAt a true x go
        | none => if s.provisional s.cur then s.block else go s)))

/-! ### Reads -/

/-- A region as of a pair, R374: what the entries above it replaced. -/
structure AsOf where
  clock : Word
  count : Word
  old : Map Word
deriving DecidableEq, Repr
/-- Undo in thought the entries above a pair: the oldest of them gives each value. -/
def Region.asOf (x : Region) (p : Pair) : AsOf :=
  let step (e : LogEnt) (v : AsOf) : AsOf :=
    match e.what with
    | .event c n _ _ => if n.toNat < v.count.toNat then { v with clock := c, count := n } else v
    | .leaf i w => { v with old := Map.set v.old i w }
    | _ => v
  (x.log.filter (fun e => p.lt e.pair)).foldr step { clock := x.clock, count := x.count, old := [] }
/-- A read of a region, R374, R378: an ordered task above the horizon takes a READ entry. -/
def State.evRead (s : State) (a : BitVec 5) (cont : Nat → Nat → Region → AsOf → State → State) : State :=
  s.answered a false (fun cl r x s =>
    if !x.ordered then cont cl r x { clock := x.clock, count := x.count, old := [] } s
    else if !s.logRoom cl r x then s.block
    else
      let v := x.asOf s.me.pair
      let s := if s.provisional s.cur then s.setRegion cl r (x.addLog { pair := s.me.pair, owner := s.cur, what := .read }) else s
      cont cl r x v s)
/-- The leaf word that a reader sees. -/
def State.leafAsOf (s : State) (cl : Nat) (x : Region) (v : AsOf) (i : Nat) : Word :=
  match Map.get? v.old i with
  | some w => w
  | none => s.leaf cl x i

/-- EVGET, R378. -/
def execEvget (d a b : BitVec 5) (s : State) : Host.Outcome State Fault Refusal :=
  let i := (s.x b).toNat
  .next (s.answered a false (fun _ _ x s =>
    if x.leaves ≤ i then s.trap cEVSTATE (s.x a)
    else s.evRead a (fun cl r x v s => s.evAnswer cl r d (s.leafAsOf cl x v i))))

/-- EVSUM, R378. -/
def execEvsum (d a : BitVec 5) (s : State) : Host.Outcome State Fault Refusal :=
  .next (s.evRead a (fun cl r x v s => s.evAnswer cl r d (BitVec.ofNat 64 (sumRange (s.leafList cl x v.old) 0 x.leaves))))

/-- EVCLK, R381: in dmodes 1 and 2 an ORDERED region's clock is read by handlers of its events alone. -/
def State.evclk (s : State) (d a : BitVec 5) (f : AsOf → Word) : State :=
  s.answered a false (fun cl r x s =>
    let own := match s.me.tid.region with
      | some (c, q, _) => c == cl && q == r
      | none => false
    if x.ordered && s.timeClosed && !own then s.trap cTIME 0#64
    else s.evRead a (fun cl r _ v s => s.evAnswer cl r d (f v)))

/-- EVCLK_CLOCK, R381. -/
def execEvclkClock (d a : BitVec 5) (s : State) : Host.Outcome State Fault Refusal := .next (s.evclk d a (·.clock))

/-- EVCLK_COUNT, R381. -/
def execEvclkCount (d a : BitVec 5) (s : State) : Host.Outcome State Fault Refusal := .next (s.evclk d a (·.count))

/-- EVHOR, R382: a status read; an ordered task waits for the horizon (R373). -/
def State.evhor (s : State) (d a : BitVec 5) (f : Region → State → Word) : State :=
  s.answered a true (fun cl r x s => if s.timeClosed then s.trap cTIME 0#64 else s.evAnswer cl r d (f x s))

/-- EVHOR_BOUND, R382. -/
def execEvhorBound (d a : BitVec 5) (s : State) : Host.Outcome State Fault Refusal :=
  .next (s.evhor d a (fun x s =>
    if x.ordered then (s.regionBound s.me.tid.vf x).getD 0x7FF0000000000000#64 else 0x7FF0000000000000#64))

/-- EVHOR_COMMIT, R382. -/
def execEvhorCommit (d a : BitVec 5) (s : State) : Host.Outcome State Fault Refusal :=
  .next (s.evhor d a (fun x _ => if x.ordered then x.committed else x.clock))

/-- The status word of a region, R382. -/
def Region.status (x : Region) : Word :=
  BitVec.ofNat 64 ((if x.ordered then x.logFree * 2 ^ 32 + 8 else 0) + x.queue.length * 2 ^ 16 +
    (if x.held.isSome then 4 else 0) + (if x.armed then 2 else 0) + (if x.conservative then 1 else 0))
/-- EVHOR_STATUS, R382. -/
def execEvhorStatus (d a : BitVec 5) (s : State) : Host.Outcome State Fault Refusal :=
  .next (s.evhor d a (fun x _ => x.status))

/-! ### Events -/

/-- The three results of EVNEXT, R379: written to d, then c, then e. -/
def State.nextResult (s : State) (d c e : BitVec 5) (r t p : Word) : State := (((s.setX d r).setX c t).result e p 12).awaitAnswer
/-- The leaf result of an event taken. -/
def leafResult (leaf : Nat) (bound : Bool) : Word := BitVec.ofNat 64 leaf ||| (if bound then 0x8000000000000000#64 else 0#64)
/-- No event was taken. -/
def noEvent : Word := 0x4000000000000000#64
/-- The region was already ARMED. -/
def wasArmed : Word := 0x2000000000000000#64

/-- A PLAIN region takes an event, R359; `spawn` creates its handler (R358). -/
def State.takePlain (s : State) (cl r : Nat) (x : Region) (spawn : Bool) (time : Word) (leaf : Nat) (b : Option Bound) : State :=
  let n := x.count
  let entry := (x.handlers[leafType (s.leaf cl x leaf)]?).getD 0#64
  let s := if spawn && entry != 0#64 then s.addHandler cl r x n time leaf b entry else s
  s.setRegion cl r { x with clock := time, count := n + 1#64, queue := if b.isSome then x.queue.tail else x.queue }
/-- EVNEXT at a PLAIN region, R379. -/
def State.nextPlain (s : State) (pre : State → State) (d c e : BitVec 5) (cl r : Nat) (x : Region) (spawn : Bool) : State :=
  let s' := (pre s).noteLid s.cur cl r
  let x := (s'.region cl r).getD x
  match s.nextEvent cl r x with
  | .refuse k tv => s.trap k tv
  | .nothing => s'.nextResult d c e noEvent x.clock 0#64
  | .bound b => ((s'.takePlain cl r x spawn b.time b.leaf (some b)).onMe (·.count 2 1 1)).nextResult d c e (leafResult b.leaf true) b.time b.payload
  | .stoch tc leaf => ((s'.takePlain cl r x spawn tc leaf none).onMe (·.count 2 1 1)).nextResult d c e (leafResult leaf false) tc 0#64

/-- The event that an ORDERED region has just taken: its newest event entry, when the count moved. -/
def State.armResult (s : State) (d c e : BitVec 5) (cl r : Nat) (x0 : Region) (ev : NextEvent) : State :=
  match s.region cl r with
  | none => s
  | some x =>
    if x.count == x0.count then s.nextResult d c e noEvent x.clock 0#64
    else
      match ev with
      | .bound b => (s.onMe (·.count 2 1 1)).nextResult d c e (leafResult b.leaf true) b.time b.payload
      | .stoch tc leaf => (s.onMe (·.count 2 1 1)).nextResult d c e (leafResult leaf false) tc 0#64
      | _ => s.nextResult d c e noEvent x.clock 0#64
/-- EVNEXT at an ORDERED region, R360, R379: a command below a logged entry is a straggler first (R362); the cause that an
engine re-arm met is taken now (R366). -/
def State.nextOrdered (s0 : State) (pre : State → State) (d c e : BitVec 5) (cl r : Nat) : State :=
  let (s, touched) := (pre s0).straggle cl r s0.me.pair
  match s.region cl r with
  | none => s
  | some x =>
    let fin (s : State) : State := s.rearmAll (touched.filter (· != (cl, r)))
    if x.armed then (fin s).nextResult d c e wasArmed x.clock 0#64
    else if !s.logRoom cl r x || x.logFree == 0 then s0.block
    else
      match x.rearm, s.nextEvent cl r x with
      | some (k, tv), _ =>
        if s0.provisional s0.cur then s0.block else (s0.onRegion cl r (fun x => { x with rearm := none })).trap k tv
      | none, .refuse k tv => s0.trap k tv
      | none, ev => ((fin (s.arm cl r (s.isHolder s.cur)))).armResult d c e cl r x ev

/-- The core that the handler of a region's next event goes to; none where the event makes none (R358). -/
def State.handlerAt (s : State) (cl r : Nat) (x : Region) : Option Nat :=
  let leaf := match s.nextEvent cl r x with
    | .bound b => some b.leaf
    | .stoch _ l => some l
    | _ => none
  leaf.bind (fun l =>
    if x.armed || (x.handlers[leafType (s.leaf cl x l)]?).getD 0#64 == 0#64 then none
    else some (anyCore (s.launch x.launch) (s.handlerLid cl r x x.count)))
/-- The scope at which the creation of the handler that evnext makes is a release, R368: the smallest that holds both parties (11 R244);
none where no handler results. -/
def State.handlerScope (s : State) (cl r : Nat) (spawn : Bool) : Option (BitVec 3) :=
  let s := match s.region cl r with
    | some x => if x.ordered then (s.straggle cl r s.me.pair).1 else s
    | none => s
  if !spawn then none
  else ((s.region cl r).bind (s.handlerAt cl r)).map (scopeOf packageOf s.me.pl.core)
/-- The loads of the acting task are performed: those that have returned bytes of the agenda are waited for (06 R127). -/
def State.performLoads (s : State) : State := s.onMe (·.onIo (fun o => { o with lq := o.lq.map (fun e => { e with parts := [] }) }))
/-- EVNEXT, R379: the handler's creation is a release (R358, R368). -/
def execEvnext (spawn acq rel : Bool) (scope : BitVec 3) (d a c e : BitVec 5) (s : State) :
    Host.Outcome State Fault Refusal :=
  .next (s.atKillPoint (fun s =>
    s.afterUpds.regionOf a (fun cl r s =>
      match s.region cl r with
      | none => s.trap cEVREF (s.x a)
      | some x =>
        if spawn && !ordOf s.lmode then s.trap cORDOFF 0#64
        else s.admitAt a false x (fun s =>
          if x.ordered && !spawn then s.trap cEVDISC (s.x a)
          else
            let made := s.handlerScope cl r spawn
            let waits := match made with
              | some sc => s.releaseWaits sc || s.owes s.cur
              | none => false
            if ((acq || rel) && s.releaseWaits (engineScope acq scope)) || waits then s.block
            else
            let pre (s : State) : State := match made with
              | some sc => ((s.released rel scope).released true sc).performLoads
              | none => s.released rel scope
            if x.ordered then s.nextOrdered pre d c e cl r else s.nextPlain pre d c e cl r x spawn))))

/-- Whether time bits are refused, R380, R383: negative but for -0.0, or not finite. -/
def badTime (x : Word) : Bool := !finite64 x || (x.getLsbD 63 && x != 0x8000000000000000#64)
/-- Time bits with -0.0 read as +0.0. -/
def posTime (x : Word) : Word := if x == 0x8000000000000000#64 then 0#64 else x
/-- FP64 order of times that are not negative, with a key that may be any bits: whether t < y. -/
def timeBefore (t y : Word) : Bool :=
  match fpDecode .f64 y.toNat with
  | .nan _ => false
  | .inf n => !n
  | .fin n m _ => !(n && m != 0) && decide (t.toNat < (posTime y).toNat)

/-- The stamp of a sender region, R380: its global number, count and clock; none for EVREF. -/
def State.senderStamp (s : State) (d : BitVec 5) : Option (Nat × Word × Option (Region)) :=
  if d == 24#5 then some (0xFFFFFFFF, 0#64, none)
  else
    match s.updRegion s.cur (s.x d) with
    | none => none
    | some (c, r) => (s.region c r).map (fun y => (s.globalRegion s.me.tid.vf c r, y.count, some y))
/-- Insert a boundary event, R357, R361, R362: one below a logged entry is a straggler. -/
def State.schedule (s : State) (cl r : Nat) (b : Bound) : State :=
  let (s, touched) := match s.region cl r with
    | some x => if x.ordered then s.straggle cl r (boundPair b) else (s, [])
    | none => (s, [])
  let s := s.onRegion cl r (fun x =>
    let x := { x with queue := queueInsert b x.queue }
    if x.ordered && s.provisional s.cur then x.addLog { pair := s.me.pair, owner := s.cur, what := .sched b } else x)
  s.rearmAll touched

/-- EVSCHED, R380. -/
def execEvsched (d a b c e : BitVec 5) (s : State) : Host.Outcome State Fault Refusal :=
  .next (s.answered a false (fun cl r x s =>
    match s.senderStamp d with
    | none => s.trap cEVREF (s.x d)
    | some (gr, n, y) =>
      let t := posTime (s.x c)
      let i := (s.x b).toNat
      if badTime (s.x c) then s.trap cEVTIME (s.x c)
      else if x.leaves ≤ i then s.trap cEVSTATE (s.x a)
      else
        let from_ := y.filter (fun (q : Region) => q.ordered)
        let past := match from_ with
          | some q => timeBefore t s.me.sy.key ||
              timeBefore t (BitVec.ofNat 64 (fpAdd 0#2 .f64 q.clock.toNat x.look.toNat).1)
          | none => false
        if x.ordered && from_.isNone then s.trap cEVSTATE (s.x a)
        else if x.ordered && past then s.trap cEVPAST (s.x c)
        else if (if s.isHolder s.cur then 64 else 63) ≤ x.queue.length || (x.ordered && !s.logRoom cl r x) then s.block
        else
          let ev : Bound := { time := t, pair := s.me.pair, sender := s.cur, sgr := gr, scount := n, leaf := i,
                              payload := s.x e }
          (((s.noteLid s.cur cl r).schedule cl r ev).retire 12).awaitAnswer))

/-- EVLOOK, R383. -/
def execEvlook (a b c : BitVec 5) (slot : BitVec 3) (s : State) : Host.Outcome State Fault Refusal :=
  .next (s.answered a true (fun cl r x s =>
    let vf := s.me.tid.vf
    let neigh : Except (BitVec 8) Nat :=
      if c == 24#5 then .ok (2 ^ 32)
      else
        match s.updRegion s.cur (s.x c) with
        | none => .error cEVREF
        | some (c', r') =>
          match s.region c' r' with
          | none => .error cEVREF
          | some y => if y.ordered then .ok (s.globalRegion vf c' r') else .error cEVSTATE
    if !x.ordered then s.trap cEVSTATE (s.x a)
    else if badTime (s.x b) then s.trap cEVTIME (s.x b)
    else
      match neigh with
      | .error k => s.trap k (s.x c)
      | .ok g =>
        let ns := (x.neigh ++ List.replicate (8 - x.neigh.length) (2 ^ 32)).set slot.toNat g
        (((s.setRegion cl r { x with look := posTime (s.x b), neigh := ns }).retryHeld).retire 12).awaitAnswer))

end Sys2Proof.Machine
end

