-- ==== Sys2Proof/Machine/Fetch.lean ====
section
/-! DEFINITION. What precedes an instruction at its boundary: aborts, stops, kills, restored images, budgets and the
64-instruction bound; then its fetch (03 R58-R62) and decoding. -/
namespace Sys2Proof.Machine

/-! ### The instruction cache, 03 R62 -/

/-- The words of runs, each a run of its own. -/
def wordSegs (gs : List Seg) : List Seg :=
  gs.flatMap (fun g => (List.range (g.len / 4)).map (fun i =>
    { g with va := g.va + BitVec.ofNat 64 (4 * i), at_ := { g.at_ with loc := g.at_.loc + 4 * i }, len := 4 }))
/-- The word that a load of the acting task would find at a location (08 R195), and whether it is what memory holds for every
task: no version, store of its queue or buffered AMO is in it. -/
def State.wordAt (s : State) (loc : Nat) : BitVec 32 × Bool :=
  let bs := (locRange loc 4).map (s.homeByte s.cur)
  let mine := (locRange loc 4).map (s.loadByte s.cur)
  (BitVec.ofNat 32 (leNat mine), bs.all (fun b => b.2 == some none) && mine == bs.map (·.1))
/-- One word as the acting task's core fetches it: its cached copy or memory's word; where they differ the device chooses. A copy may
have been fetched long before (`State.prefetch`): until an icinv a word may come with its old contents (R62). Log entry 21 (DESIGN
CHOICE). -/
def State.fetchWord (s : State) (loc : Nat) : BitVec 32 × State :=
  let g := s.me.pl.core
  let (new, plain) := s.wordAt loc
  let cache := Map.get [] s.ms.icache g
  let keep (s : State) : State :=
    if plain then s.onMs (fun m => { m with icache := Map.set m.icache g (Map.set cache loc new) }) else s
  match Map.get? cache loc with
  | none => (new, keep s)
  | some old =>
    if old = new then (new, s)
    else
      let (k, s) := s.takeFree
      if Config.freeChoice k then (old, s) else (new, keep s)
/-- Words at locations. -/
def State.fetchLocs (s : State) : List Nat → List (BitVec 32) × State
  | [] => ([], s)
  | l :: ls =>
    let (w, s) := s.fetchWord l
    let (ws, s) := s.fetchLocs ls
    (w :: ws, s)
/-- A core's instruction cache loses a word, with its poison. -/
def State.dropCached (s : State) (g loc : Nat) : State :=
  s.onMs (fun m => { m with icache := Map.set m.icache g (Map.del (Map.get [] m.icache g) loc),
                            ibad := m.ibad.filter (fun p => p != (g, loc)) })
/-- n words from an address for the acting task, or the fetch fault of R60. The words that the core holds no copy of are read as
loads of the task would (08 R195): it waits for the host agent between a read and its write (06 R140) and above the horizon for
host memory (11 R245), and for what a load would wait for: a RED of its own that is queued and a tile store that it has accepted (06
R128); pins are lifted, copies recalled, and the access is tracked (06 R148). A poisoned word of the instruction cache is consumed by
the fetch, and leaves it (25 R440). -/
def State.fetchWords (s : State) (va : Word) (n : Nat) : Out (List (BitVec 32)) × State :=
  match s.xlate (s.agentOf s.cur) { x := true } va (4 * n) with
  | (.error e, s) => (.trap (e.trap 3#4 0#8), s)
  | (.ok gs, s) =>
    let locs := segLocs gs
    let t := s.me
    let cache := Map.get [] s.ms.icache t.pl.core
    let new := (wordSegs gs).filter (fun g => (Map.get? cache g.at_.loc).isNone)
    let mchk (unit : Nat) : TrapInfo := { code := cMCHK, tval := t.tid.lid, kind := 3#4, detail := BitVec.ofNat 8 unit }
    match s.ms.ibad.find? (fun p => p.1 == t.pl.core && locs.contains p.2 && (Map.get? cache p.2).isSome), s.poisonFor s.cur (segLocs new) with
    | some p, _ => if s.provisional s.cur then (.wait, s) else (.trap (mchk 6), s.dropCached p.1 p.2)
    | none, some unit => (.trap (mchk unit), s)
    | none, none =>
      if s.hostBusy (segLocs new) || (s.provisional s.cur && (segLocs new).any isHost) || s.tileBlocks (segLocs new) ||
          s.me.io.sq.any (fun e => e.blocks s.det false (segLocs new)) then (.wait, s)
      else
      match s.track 3#4 .read new with
      | (.ok (), s) =>
        let s := ((s.atHome t.tid.vf locs).toRead s.cur locs).noteReads (segLocs new)
        let (ws, s) := s.fetchLocs ((wordSegs gs).map (·.at_.loc))
        (.ok ws, s)
      | (.trap i, s) => (.trap i, s)
      | (.wait, s) => (.wait, s)

/-- The word at an address for the instruction cache of a task's core, before an instruction of it is fetched there (R62). What the core
holds stays; what a task alone sees, what waits and what is tracked is not fetched so. Log entry 21 (DESIGN CHOICE). -/
def State.prefetch (s : State) (u : Nat) (va : Word) : State :=
  let t := s.task u
  if t.tid.ord || t.pl.life != .resident || t.pl.saved then s
  else
    match s.xlate (s.agentOf u) { x := true } va 4 with
    | (.error _, s) => s
    | (.ok gs, s) =>
      let locs := segLocs gs
      let loc := locs.headD 0
      let cache := Map.get [] s.ms.icache t.pl.core
      if (Map.get? cache loc).isSome || s.hostBusy locs || (s.poisonAt locs).isSome || !(trackedLocs gs).isEmpty then s
      else
        let s := (({ s with cur := u }).atHome t.tid.vf locs).toRead u locs
        let (w, plain) := s.wordAt loc
        if plain then s.onMs (fun m => { m with icache := Map.set m.icache t.pl.core (Map.set cache loc w) }) else s
/-- Fetch and decode the instruction at P: its first word, then the words that its length asks for (R58, R60, R77). -/
def State.fetchDecode (s : State) : Out Instr × State :=
  let p := s.pc
  match s.fetchWords p 1 with
  | (.ok ws, s) =>
    let w0 := ws.headD 0#32
    let ill : TrapInfo := { code := cILL, tval := w0.setWidth 64 }
    if !headOk w0 then (.trap ill, s)
    else
      let more := lenBytes (w0.extractLsb' 0 2) / 4 - 1
      let (r, s) := if more == 0 then (.ok [], s) else s.fetchWords (p + 4#64) more
      match r with
      | .ok ws =>
        match decodeWords w0 ws with
        | some i => (.ok i, s)
        | none => (.trap ill, s)
      | .trap t => (.trap t, s)
      | .wait => (.wait, s)
  | (.trap t, s) => (.trap t, s)
  | (.wait, s) => (.wait, s)

/-! ### The boundary before an instruction -/

/-- Whether something issued at a retired count has reached its 64-instruction bound, 07 R164. -/
def pastBound (issued retired : Nat) : Bool := decide (issued + 65 ≤ retired)
/-- Whether an earlier store or leaf update of a task must be resolved before its next instruction. -/
def Task.boundWaits (t : Task) : Bool :=
  t.io.sq.any (fun e => pastBound e.issued t.pl.retired) || t.io.upds.any (fun u => pastBound u.issued t.pl.retired)
/-- Whether a store-fault record is at its bound and has not been reported there. -/
def FaultRec.due (r : FaultRec) (retired : Nat) : Bool := !r.told && pastBound r.issued retired
/-- Whether the bound of R164 holds the acting task now. -/
def Task.boundDue (t : Task) : Bool := t.boundWaits || t.io.sfq.any (·.due t.pl.retired)
/-- The bound: the context waits until the store is resolved, then the queue is reported. Log entry 68 (DEDUCED). -/
def State.bound64 (s : State) : State :=
  let t := s.me
  if t.boundWaits then s.block
  else if s.provisional s.cur then s.block
  else
    let s := s.onMe (·.onIo (fun o => { o with sfq := o.sfq.map (fun r => { r with told := r.told || r.due t.pl.retired }) }))
    s.report id

/-- Whether a task's budget has run out, 11 R237. -/
def Task.broke (t : Task) : Bool := t.sy.budOn && t.sy.budLeft == 0#63
/-- The end of a pre-emption handler without a kill record, 22 R403. -/
def State.endHandler (s : State) (u : Nat) : State :=
  let s := ({ s with cur := u }).freeHandles u
  (((s.writeBack (·.owner == u)).finishHost u).updTask u (·.onIo (fun o => { o with sq := [], lq := [] }))).removeTask u
/-- BUDGET before the next instruction, 11 R237: counting stops. A task above the horizon waits. -/
def State.budgetTrap (s : State) : State :=
  if s.provisional s.cur then s.block
  else if s.me.tid.handler then s.endHandler s.cur
  else (s.onMe (·.onSy (fun y => { y with budOn := false }))).takeTrap { code := cBUDGET } s.pc

/-- Note the first issue of a launch, 22 R394. Log entry 51 (DEDUCED). -/
def State.noteStart (s : State) : State :=
  (s.onMe (·.onPl (fun p => { p with waitPost := none, answer := false }))).onLaunch s.me.tid.launch
    (fun x => if x.tstart == 0#64 then { x with tstart := s.dtime } else x)

/-- What the acting task does at its next turn: the instruction it issues with the state before it, or the state after
an event that comes first. -/
def State.nextIssue (s : State) : Except State (Instr × State) :=
  let t := s.me
  if t.pl.doomed then .error (s.abort s.cur)
  else if t.pl.stopped then .error s
  else
    match (if t.pl.run == .wait then t.pl.pend else none), t.pl.saved with
    | some k, _ => .error (s.kill s.cur k)
    | none, true =>
      match s.restoreImage with
      | (.ok (), s) => .error s
      | (.trap i, s) => .error (s.noteStart.fault i)
      | (.wait, s) => .error s.block
    | none, false =>
      if t.broke then .error s.budgetTrap
      else if t.boundDue then .error s.bound64
      else
        match s.firstFill with
        | (.ok (), s) =>
          match s.fetchDecode with
          | (.ok i, s) => .ok (i, s.noteStart)
          | (.trap i, s) => .error (s.noteStart.fault i)
          | (.wait, s) => .error s.block
        | (.trap i, s) => .error (s.noteStart.fault i)
        | (.wait, s) => .error s.block

end Sys2Proof.Machine
end

