-- ==== Sys2Proof/Machine/TaskEvents.lean ====
section
/-! DEFINITION. Steps of the task engine that no instruction names: dispatch, arrivals, budgets, the horizon, commits,
aborts, kills and deadlines (11 R230-R253, 07 R165). A step whose condition does not hold changes nothing. -/
namespace Sys2Proof.Machine

/-- TASK_DISPATCH, R230. -/
def execTaskDispatch (g : Nat) (s : State) : Host.Outcome State Fault Refusal := .next (s.dispatch g)

/-! ### Arrivals -/

/-- The message at a place on the way, if no earlier one goes from the same sender to the same target (R239, R240). -/
def nextMessage (ms : List Msg) (k : Nat) : Option Msg :=
  match ms[k]? with
  | none => none
  | some m =>
    if (ms.take k).any (fun (e : Msg) => e.sender == m.sender && e.lid == m.lid && e.dst == m.dst && e.target == m.target) then none
    else some m
/-- POST_MESSAGE_ARRIVAL, R239: a message reaches its core. A channel entry enters the input buffer (R240); one that must wait
behind a present value needs a unit of the queue area, and one behind a message that is held stays behind it. -/
def execPostMessageArrival (k : Nat) (s : State) : Host.Outcome State Fault Refusal :=
  .next (match nextMessage s.msgs k with
    | none => s
    | some m0 =>
      let m := { m0 with arrived := s.dtime, ser := s.ms.vseq }
      let arrive (s : State) : State := { s with msgs := s.msgs.eraseIdx k, ms := { s.ms with vseq := s.ms.vseq + 1 } }
      if m.chan || (s.coreSt m.dst).inbuf.any (fun x => !x.chan && x.idx == m.idx && (!m.kill || x.kill)) then (arrive s).onCore m.dst (fun c => { c with inbuf := c.inbuf ++ [m] })
      else
        let need := s.unitsFor m
        let (room, s') := if need == 0 then (true, s) else s.areaSpace (clusterOf m.dst) m.launch need false
        if room then (arrive s').deliverPost m.dst m else s)

/-- The first entry of the highest-priority channel in an input buffer that may move now, R240. -/
def State.nextEntry (s : State) (g : Nat) : Option Msg :=
  let es := (s.coreSt g).inbuf.filter (fun m => m.chan && !s.halted g m.launch)
  (List.range 4).findSome? (fun q => es.find? (fun m => m.idx == q))
/-- CHANNEL_ENTRY_ARRIVAL, R240: an entry moves, or, where none does, a post message that found no room. -/
def execChannelEntryArrival (g : Nat) (s : State) : Host.Outcome State Fault Refusal :=
  .next (match s.nextEntry g with
    | none => s.drainPost g
    | some m =>
      let need := s.unitsFor m
      let (room, s') := if need == 0 then (true, s) else s.areaSpace (clusterOf g) m.launch need false
      if room then (s'.onCore g (fun c => { c with inbuf := c.inbuf.erase m })).deliverChan g m else s.drainPost g)

/-! ### Budgets and deadlines -/

/-- Whether a task can act now: resident, not frozen, not stopped. -/
def Task.live (t : Task) : Bool := t.pl.life == .resident && t.pl.run != .out && !t.pl.stopped && !t.pl.doomed

/-- BUDGET_EXHAUSTED, R237. -/
def execBudgetExhausted (u : Nat) (s : State) : Host.Outcome State Fault Refusal :=
  let t := s.task u
  .next (if t.live && t.pl.run == .ready && t.broke && !t.tid.handler then ({ s with cur := u }).budgetTrap else s)

/-- DEADLINE_PASS, R233. -/
def execDeadlinePass (u : Nat) (s : State) : Host.Outcome State Fault Refusal :=
  .next (match Map.get? s.tasks u with
    | none => s
    | some t =>
      if !t.tid.ord && !t.pl.passed && decide (t.sy.key.toNat ≤ s.dtime.toNat) then
        (s.traceTask u 2 3 t.sy.key).updTask u (·.onPl (fun p => { p with passed := true }))
      else s)

/-! ### The horizon -/

/-- The task of a list that goes last. -/
def lastTask : List (Nat × Task) → Option (Nat × Task)
  | [] => none
  | p :: ps =>
    match lastTask ps with
    | none => some p
    | some q => some (if taskBefore q.2 p.2 then p else q)
/-- HORIZON_HOLDER_SWITCH_OUT, R234, R31: an ordered task aborts and is queued again, another is saved and queued. -/
def execHorizonHolderSwitchOut (g : Nat) (s : State) : Host.Outcome State Fault Refusal :=
  let waits := s.tasks.any (fun p => p.2.pl.life == .queued && p.2.pl.core == g && s.mayDispatch g p.2.tid.launch && s.isHolder p.1)
  let helpers := s.tasks.filter (fun p => p.2.pl.life == .resident && p.2.pl.run != .out && p.2.pl.core == g &&
    p.2.pl.ctx != 0 && !p.2.pl.stopped && !p.2.tid.handler)
  .next (if !waits || !(s.emptyHelpers g).isEmpty then s
    else
      match lastTask helpers with
      | none => s
      | some (u, t) =>
        if t.tid.ord then s.abort u
        else if !s.loadsDone u || !t.io.sq.isEmpty || !t.io.upds.isEmpty then s
        else
          let s := ((s.unpin u).goOut u).updTask u (·.onPl (fun p => { p with life := .unqueued }))
          (s.toQueue u).getD s)

/-- The partition that owns a core's cluster. -/
def State.ownerOf (s : State) (cl : Nat) : Option Nat :=
  (s.vfs.find? (fun v => (match v.2.part with | some p => p.clusters.contains cl | none => false))).map (·.1)
/-- HORIZON_UPDATE, R246: the value delivered is the key of the true horizon; all ones where nothing ordered is live. -/
def execHorizonUpdate (g : Nat) (s : State) : Host.Outcome State Fault Refusal :=
  .next (match s.ownerOf (clusterOf g) with
    | none => s
    | some v => s.onCore g (fun c => { c with horizon := ((s.horizon v).map (·.key)).getD 0xFFFFFFFFFFFFFFFF#64 }))

/-! ### Commit, R249, R442 -/

/-- A conflict found at a commit: the launch is marked and the word traced (R442). -/
def State.commitConflict (s : State) (u : Nat) (va : Nat) : State :=
  (s.waive (s.task u).tid.launch).traceTask u 4 9 (BitVec.ofNat 64 va)
/-- Whether an access makes a write-write pair that RESOLVE settles by lid. -/
def State.wwPair (s : State) (t : Task) (w : Nat) (acc : TrackAcc) : Bool :=
  match (s.trackOf t.tid.launch (w / 32)).conflict { lid := t.tid.lid, ord := true } t.tid.creatorLid acc (w % 32) with
  | some (ww, _) => ww
  | none => false
/-- What the tracking of a commit leaves: the words whose data is discarded, and those of which the committing task's data stands
though another task wrote them since. -/
structure Settled where
  lost : List Nat := []
  won : List Nat := []
/-- The accesses of a committing task enter tracking one word at a time, those that meet a conflict too (R442). Log entry 53
(DEDUCED). -/
def State.commitTrack (s : State) (u : Nat) : List (Nat × TrackAcc × Nat) → Settled × State
  | [] => ({}, s)
  | (w, acc, va) :: rest =>
    let t := s.task u
    let ww := s.wwPair t w acc
    match s.trackAccess t.tid.launch { lid := t.tid.lid, ord := true } t.tid.creatorLid acc [4 * w] with
    | .error _ =>
      let tr := (s.trackOf t.tid.launch (w / 32)).enter { lid := t.tid.lid, ord := true } acc (w % 32)
      ((s.setTrack tr).commitConflict u va).commitTrack u rest
    | .ok (s, lost) =>
      let (more, s) := (if ww then s.commitConflict u va else s).commitTrack u rest
      ({ lost := lost ++ more.lost, won := if ww && lost.isEmpty then w :: more.won else more.won }, s)
/-- Under RESOLVE the higher lid's data stands on common words: what a committing task wrote as the horizon holder is written again
over a lower lid's (R442). -/
def State.reinstate (s : State) (u : Nat) (won : List Nat) : State :=
  let t := s.task u
  let cells := t.io.stood.filter (fun c => won.contains (c.1 / 4))
  if cells.isEmpty then s
  else (s.atHome t.tid.vf (cells.map (·.1))).writeCells t.tid.vf (dieOf t.pl.core) u (some t.pair) cells

/-- The versions of a committing task become ordinary, without the bytes of discarded words; those under a quorum keep that
condition alone (01 R23). -/
def State.commitVersions (s : State) (u : Nat) (lost : List Nat) : State :=
  let mine := s.ms.versions.filter (fun v => v.owner == u)
  let cut (v : Version) : Version := { v with cells := v.cells.filter (fun c => !lost.contains (c.1 / 4)) }
  let s := s.onMs (fun m => { m with versions := m.versions.filterMap (fun v =>
    if v.owner != u then some v
    else if v.quorum.isSome then some ({ cut v with spec := false } : Version)
    else none) })
  s.settleVersions (s.task u).tid.vf true ((mine.filter (fun v => v.quorum.isNone)).map cut)

/-- Provisional messages of a committing task become firm. -/
def State.firmMessages (s : State) (u : Nat) : State :=
  let firm (m : Msg) : Msg := if m.sender == u then { m with prov := false } else m
  { s with msgs := s.msgs.map firm,
           cores := s.cores.map (fun c => (c.1, { c.2 with
             posts := c.2.posts.map (fun p => (p.1, firm p.2)), pendPosts := c.2.pendPosts.map firm,
             chans := c.2.chans.map (fun p => (p.1, p.2.map firm)), inbuf := c.2.inbuf.map firm })) }

/-- Log entries that no live task owns and that the horizon has passed are committed; held arms are tried again (19 R360,
R364). Log entry 50 (DEDUCED). -/
def State.sweepGarnet (s : State) : State :=
  let passed (s : State) (vf : Nat) (e : LogEnt) : Bool :=
    match s.horizon vf with
    | some h => e.pair.lt h
    | none => true
  let step (s : State) (p : Nat × Nat) : State :=
    match s.region p.1 p.2 with
    | none => s
    | some x =>
      let vf := (s.launch x.launch).vf
      let gone := x.log.filter (fun e => (e.owner == 0 || (Map.get? s.tasks e.owner).isNone) && passed s vf e)
      if gone.isEmpty then s
      else
        let evs := gone.filterMap (fun e => if e.isEvent then some e.pair.key else none)
        let committed := evs.foldl (fun c k => if c.toNat < k.toNat then k else c) x.committed
        s.setRegion p.1 p.2 ({ x with log := x.log.filter (fun e => !gone.contains e), committed := committed }).remode
  (s.allRegions.foldl step s).retryHeld

/-- The EXITED ordered task that may commit now: the horizon holder. -/
def State.committer (s : State) : Option Nat := (s.tasks.find? (fun p => p.2.pl.life == .exited && !p.2.pl.doomed && s.isHolder p.1)).map (·.1)
/-- COMMIT of a task: its writes are performed at domain scope (06 R145) before its messages go. -/
def State.commitTask (s : State) (u : Nat) : State :=
  let (r, s) := s.commitTrack u (s.task u).io.unord
  let s := ((((s.reinstate u r.won).commitVersions u r.lost).settleAtomics u).drain).firmMessages u
  let s := { s with msgs := s.msgs ++ (s.task u).io.held.map (fun (m : Msg) => { m with sent := s.dtime }) }
  (s.commitGarnet (fun (e : LogEnt) => e.owner == u)).removeTask u
/-- COMMIT, R249. -/
def execCommit (s : State) : Host.Outcome State Fault Refusal :=
  .next (match s.committer with
    | some u => (s.commitTask u).sweepGarnet
    | none => s.sweepGarnet)

/-! ### Aborts and kills -/

/-- ORDERED_ABORT, R248: a task that a case of R247 has marked aborts at its instruction boundary. -/
def execOrderedAbort (u : Nat) (s : State) : Host.Outcome State Fault Refusal :=
  .next (if (s.task u).pl.doomed then s.abort u else s)
/-- KILL, 07 R165, 13 R284: a pending kill is taken by a task that waits. -/
def execKill (u : Nat) (s : State) : Host.Outcome State Fault Refusal :=
  let t := s.task u
  .next (match t.pl.pend with
    | some k => if t.live && t.pl.run == .wait then s.kill u k else s
    | none => s)
/-- DEBUGGER_KILL, R165: reason 2, with code and level 0. -/
def execDebuggerKill (u : Nat) (s : State) : Host.Outcome State Fault Refusal :=
  .next (if s.hub.attached then s.kill u { reason := 2#2 } else s)

end Sys2Proof.Machine
end

