-- ==== Sys2Proof/Machine/MemEvents.lean ====
section
/-! DEFINITION. Steps of the memory system and of the engines that no instruction names: stores performed, copies
evicted, replicas, pins, the 64-instruction bound, beats, completions, landings, releases and Garnet updates (spec/06, 07
R164, 13, 15, 16, 20). -/
namespace Sys2Proof.Machine

/-! ### Memory -/

/-- STORE_PERFORMED, 06 R131. -/
def execStorePerformed (u k : Nat) (s : State) : Host.Outcome State Fault Refusal := .next (s.performStore u k)

/-- What LOAD_RETURN may return: an entry of the task's loads and one of its elements; of a scalar load the first that is left,
with those after it (06 R125). -/
def State.loadSlots (s : State) (u : Nat) : List (Nat × Nat) :=
  ((s.task u).io.lq.zipIdx).flatMap (fun p => match p.1.dst with
    | .x _ _ => [(p.2, 0)]
    | .v _ _ => (List.range (max 1 p.1.parts.length)).map (fun j => (p.2, j)))
/-- What LOAD_RETURN may return in the whole device: task, entry and element. -/
def State.loadPlaces (s : State) : List (Nat × Nat × Nat) := s.tasks.flatMap (fun p => (s.loadSlots p.1).map (fun x => (p.1, x)))
/-- Those that may take what was read ahead. -/
def State.earlyPlaces (s : State) : List (Nat × Nat × Nat) :=
  s.loadPlaces.filter (fun p => match ((s.task p.1).io.lq[p.2.1]?).bind (fun e => e.parts[p.2.2]?) with
    | some q => !q.early.isEmpty
    | none => false)
/-- A load entry after it has returned an element: gone when none is left. -/
def State.putLoad (s : State) (u i : Nat) (e : LoadEnt) : State :=
  s.updTask u (·.onIo (fun o => { o with lq := if e.parts.isEmpty then o.lq.eraseIdx i else o.lq.set i e }))
/-- A loaded value goes to the register that the load named, wherever the window stands now (07 R154). -/
def Task.putLoaded (t : Task) (slot : Option Nat) (d : BitVec 5) (v : Word) : Task :=
  match slot with
  | some k => t.onRf (fun f => { f with slots := Map.set f.slots k v, lines := dirtyLine f.lines (k / 16) })
  | none => t.setX d v
/-- Element j of entry i takes bytes as its value. -/
def State.takeLoad (s : State) (u i j : Nat) (e : LoadEnt) (p : LoadPart) (bs : List Byte) : State :=
  let parts := match e.dst with | .x _ _ => e.parts.drop 1 | .v _ _ => e.parts.eraseIdx j
  match e.dst with
  | .x d tg =>
    let all := e.bytes.take p.idx ++ bs ++ e.bytes.drop (p.idx + bs.length)
    (s.putLoad u i { e with parts := parts, bytes := all }).updTask u (·.putLoaded e.slot d (extendTag tg (leNat all)))
  | .v d w =>
    let old := (List.range (1024 / max 1 w)).map (vget ((s.task u).vreg d) w)
    (s.putLoad u i { e with parts := parts }).updTask u (fun t => t.setV d (vpack w (old.set p.idx (leNat bs))) (t.vtag d))
/-- A load returns, 03 R75: element j of entry i is performed now, unless it was performed before (06 R129). A pinned line
(R132) or the host agent between a read and its write (R140) makes it wait. An ordered task records what it reads (11 R247). Log
entry 16 (DEDUCED). -/
def State.returnLoad (s : State) (u i j : Nat) : State :=
  let t := s.task u
  let g := t.pl.core
  match t.io.lq[i]? with
  | none => s
  | some e =>
    match e.parts[j]? with
    | none =>
      let s := if e.write.isEmpty then s
        else s.writeCells t.tid.vf (dieOf g) u (if t.tid.ord then some t.pair else none) e.write
      s.putLoad u i e
    | some p =>
      let locs := match e.dst with
        | .x _ _ => e.parts.flatMap (·.locs)
        | .v _ _ => p.locs
      if s.pinnedAway g locs || s.hostBusy locs then s
      else
        let s := if e.wide then s.flushL1 (coreSees g) locs else s
        let s := (((s.recallLocs t.tid.vf locs).underKeys t.tid.vf e.keys locs).toRead u locs).noteReadsOf u locs
        if (s.poisonFor u locs).isSome then
          s.putLoad u i { e with parts := match e.dst with | .x _ _ => e.parts.drop 1 | .v _ _ => e.parts.eraseIdx j }
        else s.takeLoad u i j e p (locs.map (s.loadByte u))
/-- A load takes what the task has read ahead: it was performed then, or is still to be, but for an acquire and what a release fence
orders (06 R127, R129). -/
def State.returnEarly (s : State) (u i j : Nat) : State :=
  let t := s.task u
  match t.io.lq[i]? with
  | none => s
  | some e =>
    match e.parts[j]? with
    | none => s
    | some p =>
      if p.due && (e.acq || e.fenced) then s
      else
      let owed : Owed := { owner := u, core := t.pl.core, vf := t.tid.vf, locs := p.locs, bytes := p.early, keys := e.keys }
      (if p.due then s.onMs (fun m => { m with owed := m.owed ++ [owed] }) else s).takeLoad u i j e p p.early
/-- Keep a word read ahead: earlier loads of the task at its place are performed, and its acquires (06 R127, R128). -/
def State.keepEarly (s : State) (u : Nat) (e : EarlyWord) : State :=
  let locs := locRange (8 * e.word) 8
  let done (e : LoadEnt) : LoadEnt := if e.acq then { e with parts := [] } else e.close locs
  s.updTask u (·.onIo (fun o => { o with lq := o.lq.map done, early := e :: o.early.filter (fun x => x.word != e.word) }))
/-- Whether a task may read an aligned 8-byte word ahead of the load that takes it: it acts, its reads are not recorded at the home, no
store of its own to the word is queued, and no tile load that acquires, nor one of the word, is incomplete (06 R128, R142). -/
def State.mayReadAhead (s : State) (u w : Nat) : Bool :=
  let t := s.task u
  let locs := locRange (8 * w) 8
  t.live && !t.pl.saved && !t.tid.ord && !s.pinnedAway t.pl.core locs && !s.hostBusy locs && (s.poisonFor u locs).isNone &&
  !t.io.sq.any (fun e => e.cells.any (fun c => locs.contains c.1)) && !s.owesAt u locs &&
  !(s.coreSt t.pl.core).tileq.any (fun o => o.before u locs)
/-- A task reads an aligned 8-byte word ahead of the load that may take it: no dependency orders loads (06 R129). It is read under the
key by which its sector is held, and a load takes it under that key alone (05 R118). Log entry 16 (DEDUCED). -/
def State.readAhead (s : State) (u w : Nat) : State :=
  let vf := (s.task u).tid.vf
  let locs := locRange (8 * w) 8
  if !s.mayReadAhead u w then s
  else
    let s := (s.recallLocs vf locs).toRead u locs
    s.keepEarly u { word := w, bytes := locs.map (s.loadByte u), held := s.heldKey vf (w / 16) }
/-- The agenda gives the bytes of a word whose load is performed after later accesses: no dependency orders a load before a later
store (06 R129). Log entry 122 (DEDUCED). -/
def State.guess (s : State) (u w : Nat) (bytes : List Byte) : State :=
  if s.mayReadAhead u w && !s.versioned u && bytes.length == 8 then s.keepEarly u { word := w, bytes := bytes, due := true } else s
/-- The k-th load that has returned bytes of the agenda is performed; answers false where it finds others. What waits is not
performed yet. -/
def State.redeem (s : State) (k : Nat) : Bool × State :=
  match s.ms.owed[k]? with
  | none => (true, s)
  | some o =>
    if s.pinnedAway o.core o.locs || s.hostBusy o.locs || (s.poisonAt o.locs).isSome then (true, s)
    else
      let s := ((s.recallLocs o.vf o.locs).underKeys o.vf o.keys o.locs).tookReplica o.vf (dieOf o.core) o.locs
      (o.locs.map (s.viewed o.core) == o.bytes, s.onMs (fun m => { m with owed := m.owed.eraseIdx k }))
/-- LOAD_RETURN, 03 R75: a load returns, or takes what was read ahead, or, where k names none, a task reads a word ahead. -/
def execLoadReturn (k : Nat) (s : State) : Host.Outcome State Fault Refusal :=
  let n := s.loadPlaces.length
  let m := n + s.earlyPlaces.length
  .next (match s.loadPlaces[k]?, s.earlyPlaces[k - n]? with
    | some (u, i, j), _ => s.returnLoad u i j
    | none, some (u, i, j) => s.returnEarly u i j
    | none, none =>
      match s.tasks[(k - m) % max 1 s.tasks.length]? with
      | some (u, _) => s.readAhead u ((k - m) / max 1 s.tasks.length)
      | none => s)

/-- The partition whose link map reaches a location of device DRAM. -/
def State.vfOfLoc (s : State) (loc : Nat) : Nat :=
  ((s.vfs.find? (fun v => match v.2.part with
    | some p => p.links.any (fun x => x.1 * 64 + x.2 == loc / 2 ^ 39)
    | none => false)).map (·.1)).getD 0
/-- UPDATE_COPY_EVICTION, 06 R147: a core's copy of a line is combined alone. -/
def execUpdateCopyEviction (k : Nat) (s : State) : Host.Outcome State Fault Refusal :=
  .next (match s.ms.reds[k]? with
    | none => s
    | some c => s.returnCopy (s.vfOfLoc c.loc) c.core (c.loc / 512))

/-- REPLICA_APPLY, 06 R136: the k-th write on its way to a die is applied there, in causal order. Log entry 18 (DEDUCED). -/
def execReplicaApply (die k : Nat) (s : State) : Host.Outcome State Fault Refusal :=
  .next (match (s.flightsTo die)[k]? with
    | none => s
    | some (i, f) =>
      if ((s.flightsTo die).take k).any (fun e => flightFirst e.2 f) then s else s.applyFlight i f)

/-- PIN_LIFT, 06 R132: the line's writes are performed at its home. -/
def execPinLift (k : Nat) (s : State) : Host.Outcome State Fault Refusal :=
  .next (match s.ms.pins[k]? with
    | none => s
    | some p => s.liftPins [p.line])

/-- SFQ_64_BOUND, 07 R164. -/
def execSfq64Bound (u : Nat) (s : State) : Host.Outcome State Fault Refusal :=
  let t := s.task u
  .next (if t.live && !t.pl.saved && t.boundDue then ({ s with cur := u }).bound64 else s)

/-! ### Copy and matrix engines -/

/-- COPY_BEAT, 15 R295. -/
def execCopyBeat (cl : Nat) (s : State) : Host.Outcome State Fault Refusal := .next (s.copyBeat cl)
/-- TILE_COMPLETE, 16 R325. -/
def execTileComplete (g k : Nat) (s : State) : Host.Outcome State Fault Refusal := .next (s.completeTile g k)
/-- The transfers between clusters that wait to land: cluster, place in its queue, command. -/
def State.carriedCopies (s : State) : List (Nat × Nat × CopyCmd) :=
  s.clusters.flatMap (fun c => ((c.2.copyq.zipIdx).filter (fun p => p.1.carried)).map (fun p => (c.1, p.2, p.1)))
/-- HSEND_LANDED, 16 R321. -/
def execHsendLanded (k : Nat) (s : State) : Host.Outcome State Fault Refusal :=
  .next (match s.carriedCopies[k]? with
    | none => s
    | some (cl, i, q) => s.landCopy cl i q)

/-- PROMISE_EXPIRY, 15 R311: a sleepu that waits issues again and finds its promise passed. -/
def execPromiseExpiry (u : Nat) (s : State) : Host.Outcome State Fault Refusal :=
  let t := s.task u
  if t.live && t.pl.run == .wait && !t.pl.answer && !t.pl.saved then
    match ({ s with cur := u }).fetchDecode with
    | (.ok (.sleepu a slack), s') => execSleepu a slack s'
    | _ => .next s
  else .next s

/-! ### Sync engine and Garnet -/

/-- BARRIER_RELEASE, 13 R274: arrivals on their way reach the home, then the sweep network delivers the start of the pending
phase. -/
def execBarrierRelease (cl ent : Nat) (s : State) : Host.Outcome State Fault Refusal :=
  let g := s.group cl ent
  .next (if g.st != .barrier then s
    else if !(s.arrivals g).isEmpty then s.dueArrivals cl ent
    else s.setGroup cl ent { g with out := g.phase })
/-- QUORUM_DEADLINE, 13 R282. -/
def execQuorumDeadline (cl cell : Nat) (s : State) : Host.Outcome State Fault Refusal :=
  let c := s.cell cl cell
  .next (if s.cellDue c then s.releaseCell cl cell 2#4 c.initCore none else s)
/-- GARNET_UPDATE, 19 R359, 20 R377. -/
def execGarnetUpdate (u : Nat) (s : State) : Host.Outcome State Fault Refusal := .next (s.stepUpd u (State.updRefused u))

end Sys2Proof.Machine
end

