-- ==== Sys2Proof/Machine/LaunchCore.lean ====
section
/-! DEFINITION. Launches behind their events: records and placement blocks (22 R390-R393), numbers (01 R27), the order of
service (22 R398), room on cores (R399), tasks of a launch (R395-R397), the end of a launch (R394), and what a pre-emption
saves and restores (R402-R405). -/
namespace Sys2Proof.Machine

/-! ### The launch window -/

/-- Overwrite bytes of a held block at an offset; what was never written is 0. -/
def putBytes (old : List Byte) (off : Nat) (new : List Byte) : List Byte :=
  padTo off (old.take off) ++ new ++ old.drop (off + new.length)
/-- The launch whose status a slot shows. -/
def State.slotLaunch (s : State) (v k : Nat) : Option Nat := Map.get? (s.vf v).slotLaunch k
/-- Whether a launch is live: QUEUED, RESERVED, RUNNING or OUT (23 R414). -/
def LaunchSt.live (x : LaunchSt) : Bool := x == .queued || x == .reserved || x == .running || x == .out
/-- Whether writes into a slot are refused, R390. -/
def State.slotBusy (s : State) (v k : Nat) : Bool :=
  match s.slotLaunch v k with
  | some l => (s.launch l).st.live
  | none => false
/-- The live launches of a VF. -/
def State.liveLaunches (s : State) (v : Nat) : List Nat :=
  (s.launches.filter (fun l => l.2.vf == v && l.2.st.live)).map (·.1)

/-- A 64-bit field of a record. -/
def field64 (bs : List Byte) (off : Nat) : Word := BitVec.ofNat 64 (leNat ((bs.drop off).take 8))
/-- Bits [hi:lo] of a word as a number. -/
def bits (w : Word) (hi lo : Nat) : Nat := w.toNat / 2 ^ lo % 2 ^ (hi + 1 - lo)

/-- A reserved value of a mode word, 01 R28. -/
def modeReserved (m : BitVec 32) : Bool := m.extractLsb' 9 23 != 0#23 || drawsOf m == 3#2 || dmodeOf m == 3

/-- Whether an address may be reached by the host agent: selector 0x00-0xEF (23 R410). -/
def hostMay (va : Word) : Bool := decide (va.toNat / 2 ^ 48 ≤ 0xEF)

/-- The cores that a placement block names: partition core indices first to first + ncores - 1, or all (R392, R395); none
where one lies outside the partition. -/
def Part.coreSet (p : Part) (first ncores : Nat) : Option (List Nat) :=
  let total := 8 * p.clusters.length
  let n := if ncores == 0 then total else ncores
  if total < first + n || (ncores == 0 && first != 0) then none
  else some ((List.range n).map (fun i => ((p.clusters[(first + i) / 8]?).getD 0) * 8 + (first + i) % 8))

/-- The fields of a placement block, R392. -/
structure Block where
  cores : List Nat
  ext : Word
  launch : Launch
deriving DecidableEq, Repr

/-- Read a record and its placement block into a launch; none for a field that breaks R391 or R392 or a check of R393.3. -/
def buildLaunch (p : Part) (l : Launch) (rec_ blk : List Byte) : Option Launch :=
  let w (o : Nat) : Word := field64 blk o
  let c := field64 rec_ 0x38
  let entry := field64 rec_ 0
  let n := bits (field64 rec_ 0x30) 63 32 + 1
  let mode : BitVec 32 := (field64 rec_ 0x30).extractLsb' 0 32
  let w0 := w 0x00
  let w1 := w 0x08
  let ncores := bits w0 28 16
  let all0 := bits w1 62 0 == 0
  let ex := if all0 then n else bits w1 20 0
  let ey := if all0 then 1 else bits w1 41 21
  let ez := if all0 then 1 else bits w1 62 42
  let ext : Word := BitVec.ofNat 64 (ex % 2 ^ 21 + ey * 2 ^ 21 + ez * 2 ^ 42)
  let scount := bits (w 0x18) 63 32
  let ssize := bits (w 0x18) 31 0
  let npkg := bits (w 0x48) 35 32
  let gang := bits (w 0x48) 31 0
  let core := c.getLsbD 2
  let full := pkindOf mode
  match p.coreSet (bits w0 12 0) ncores with
  | none => none
  | some cores =>
    let bad :=
      bits entry 1 0 != 0 || bits entry 63 56 != 0 || bits c 6 3 != 0 ||
      bits w0 63 30 != 0 || bits w0 15 13 != 0 || 5120 < ncores || bits w1 63 63 != 0 ||
      bits (w 0x10) 6 0 != 0 || scount == 0 || ssize % 128 != 0 || ssize < 0x2400 ||
      bits (w 0x20) 5 0 != 0 || bits (w 0x28) 63 48 != 0 || bits (w 0x28) 5 0 != 0 ||
      bits (w 0x30) 1 0 != 0 || bits (w 0x38) 63 32 != 0 || bits (w 0x40) 11 0 != 0 || bits (w 0x48) 63 36 != 0 ||
      (List.range 6).any (fun i => w (0x50 + 8 * i) != 0#64) ||
      (!core && ex * ey * ez != n) || (core && n != cores.length) || (ordOf mode && scount == 1) ||
      (w 0x40 == 0#64 && (full || dmodeOf mode != 0)) || (npkg != 0 && gang == 0)
    if bad then none
    else some { l with
      entry := entry, args := (List.range 4).map (fun i => field64 rec_ (8 + 8 * i)), seed := field64 rec_ 0x28, n := n,
      mode := mode, qw := (if bits c 63 56 == 0 then 1 else bits c 63 56), core := core, prio := bits c 1 0,
      eff := bits c 1 0, gen := w0.getLsbD 29, cores := cores, ext := ext, ex := ex, spool := w 0x10, scount := scount,
      ssize := ssize, swap := w 0x20, swsize := bits (w 0x28) 47 0, pent := w 0x30, pbud := bits (w 0x38) 31 0,
      sarea := w 0x40, npkg := npkg, gang := gang }

/-- The first number from n on that no live launch of the partition has, 01 R27; after 65,535 comes 1. -/
def freeNumber (used : List Nat) : Nat → Nat → Nat
  | 0, n => n
  | f + 1, n =>
    let n := if n == 0 || 65535 < n then 1 else n
    if used.contains n then freeNumber used f (n + 1) else n
/-- The next launch number of a VF. -/
def State.nextNumber (s : State) (v : Nat) : Nat :=
  let used := (s.liveLaunches v).map (fun l => (s.launch l).num.toNat)
  freeNumber used (used.length + 1) (s.vf v).nextNum

/-- The key of a new launch. -/
def State.newLaunch (s : State) : Nat := s.launches.length + 1
/-- Show a new launch in its slot. -/
def State.showLaunch (s : State) (v k : Nat) (x : Launch) : State :=
  let l := s.newLaunch
  (s.setLaunch l x).onVf v (fun f => { f with slotLaunch := Map.set f.slotLaunch k l, relaxed := f.relaxed.filter (· != k) })

/-! ### Tasks of a launch, R395, R396 -/

/-- lcoord of task i, R396. -/
def Launch.coordOf (x : Launch) (i : Nat) : Word :=
  let ex := max 1 x.ex
  let ey := max 1 (bits x.ext 41 21)
  BitVec.ofNat 64 (i % ex % 2 ^ 21 + i / ex % ey * 2 ^ 21 + i / (ex * ey) % 2 ^ 21 * 2 ^ 42)
/-- The core of task i, R395. -/
def Launch.coreFor (x : Launch) (lid : Word) (i : Nat) : Nat :=
  if x.core then (x.cores[i]?).getD 0
  else if x.gen then anyCore x lid
  else (x.cores[i * x.cores.length / max 1 x.n]?).getD 0
/-- Task i of a launch. -/
def Launch.task (x : Launch) (l i : Nat) : Task :=
  let low (n : Nat) : Word := BitVec.ofNat 64 (x.num.toNat * 2 ^ 32 + n)
  let g := x.coreFor (low i) i
  let lid := if x.core then low g else low i
  let t := freshTask
    { lid := lid, cw := BitVec.ofNat 64 (if x.core then g else i), launch := l, vf := x.vf,
      kind := if x.core then 1#4 else 0#4, entry := x.entry, args := x.args, born := g } g 0#64 none
  if x.core then t else t.onSy (fun y => { y with lcoord := x.coordOf i })
/-- Queue the tasks of a launch, ascending. -/
def State.launchTasks (s : State) (l : Nat) : List Nat → State
  | [] => s
  | i :: is => (s.enqueue ((s.launch l).task l i)).launchTasks l is
/-- The register cache halves of cores change roles, 22 R404. -/
def State.swapHalves (s : State) (gs : List Nat) : State :=
  gs.dedup.foldl (fun s g => s.onCore g (fun c => { c with half := !c.half, swapDue := false })) s
/-- A placed launch runs: its tasks are queued; where it takes the cores of one that has gone out, its images have filled the other
half (22 R404). -/
def State.startLaunch (s : State) (l : Nat) : State :=
  let s := s.onLaunch l (fun x => { x with st := .running, placedAt := s.dtime })
  let s := s.swapHalves ((s.launch l).cores.filter (fun g => (s.coreSt g).swapDue))
  s.launchTasks l (List.range (s.launch l).n)

/-! ### Room, R399 -/

/-- Launches that hold cores: RUNNING, or RESERVED for a gang. A core whose control task has ended has left its core-launch (11
R258). -/
def Launch.resident (x : Launch) : Bool := x.st == .running || x.st == .reserved
def State.residents (s : State) : List (Nat × Launch) := s.launches.filter (fun p => p.2.resident)
/-- Whether two launches differ in fl1 and share a cluster. -/
def fl1Clash (x y : Launch) : Bool :=
  fl1Of x.mode != fl1Of y.mode && x.active.any (fun g => y.active.any (fun h => clusterOf g == clusterOf h))
/-- Whether a core has no room for a launch beside the residents. -/
def coreFull (rs : List (Nat × Launch)) (x : Launch) (g : Nat) : Bool :=
  let here := rs.filter (fun p => p.2.active.contains g)
  4 ≤ here.length || (x.core && here.any (fun p => p.2.core))
/-- Whether the engines of a saved region hold no other that it overlaps; a wide one has its engines to itself (19 R353). -/
def State.regionFree (s : State) (cl : Nat) (x : Region) : Bool :=
  if x.leaves ≤ 32768 then
    (s.leafRanges cl).all (fun q => decide (q.1 + q.2 ≤ x.base) || decide (x.base + x.leaves ≤ q.1))
  else (List.range x.wide).all (fun k => (s.leafRanges (cl + k)).isEmpty)
/-- Whether a core can take the channels and bindings that a launch's save holds (11 R238, R241). -/
def coreTakes (c p : CoreSt) : Bool :=
  p.binds.all (fun b => (Map.get? c.binds b.1).isNone) &&
  p.chans.all (fun q => q.2.isEmpty || decide ((Map.get [] c.chans q.1).length + q.2.length ≤ 16) || (Map.get [] c.chans q.1).isEmpty)
/-- Whether what a launch's save holds of clusters and cores is free for it again. -/
def State.savedFree (s : State) (x : Launch) : Bool :=
  x.savedCores.all (fun c => coreTakes (s.coreSt c.1) c.2) &&
  x.saved.all (fun c =>
    let k := s.cluster c.1
    c.2.slots.all (fun p => (Map.get? k.slots p.1).isNone) && c.2.lineage.all (fun p => (Map.get? k.lineage p.1).isNone) &&
    c.2.regions.all (fun p => (Map.get? k.regions p.1).isNone && s.regionFree c.1 p.2))
/-- Whether a launch can be placed, R399. -/
def State.hasRoom (s : State) (l : Nat) : Bool :=
  let x := s.launch l
  let rs := s.residents.filter (fun p => p.1 != l)
  x.active.all (fun g => !coreFull rs x g) && rs.all (fun p => !fl1Clash x p.2) && s.savedFree x
/-- Whether a resident launch blocks a held one. -/
def State.blocksLaunch (s : State) (v h : Nat) : Bool :=
  let x := s.launch h
  let y := s.launch v
  let rs := s.residents.filter (fun p => p.1 != h)
  y.resident && y.vf == x.vf &&
  (fl1Clash x y || x.active.any (fun g => y.active.contains g && coreFull rs x g && (y.core || !x.core ||
    4 ≤ (rs.filter (fun p => p.2.active.contains g)).length)))
/-- Whether a launch waits for a place: QUEUED, or OUT and queued again. -/
def Launch.waiting (x : Launch) : Bool := x.st == .queued || x.st == .out
/-- Whether a launch is held: it waits and has no room. -/
def State.heldLaunch (s : State) (l : Nat) : Bool := (s.launch l).waiting && !s.hasRoom l

/-! ### Service, R398 -/

/-- The launches with room, of the least effective priority. -/
def State.serviceable (s : State) : List (Nat × Launch) :=
  let ok := s.launches.filter (fun p => p.2.waiting && s.hasRoom p.1)
  let best := (ok.map (fun p => p.2.eff)).min?.getD 0
  ok.filter (fun p => p.2.eff == best)
/-- The next launch: VFs in ascending order, each up to its weight in a round, and commit order within a VF. The state notes
the round. Log entry 59 (DEDUCED). -/
def State.nextLaunch (s : State) : Option Nat × State :=
  let ls := s.serviceable
  match ls with
  | [] => (none, s)
  | p :: _ =>
    let key (v : Nat) : Nat := 64 * p.2.eff + v
    let left (v : Nat) : Bool := decide (Map.get 0 s.hub.rr (key v) < (s.part v).wv)
    let vs := ls.map (fun q => q.2.vf)
    let open_ := vs.filter left
    let s := if open_.isEmpty then s.onHub (fun h => { h with rr := h.rr.filter (fun r => r.1 / 64 != p.2.eff) }) else s
    let v := ((if open_.isEmpty then vs else open_).min?).getD 0
    let first := ((ls.filter (fun q => q.2.vf == v)).map (fun q => q.2.order)).min?.getD 0
    let s := s.onHub (fun h => { h with rr := Map.set h.rr (key v) (Map.get 0 h.rr (key v) + 1) })
    ((ls.find? (fun q => q.2.vf == v && q.2.order == first)).map (·.1), s)
/-- The place at the head of a queue. -/
def State.headOrder (s : State) : Nat := ((s.launches.map (fun p => p.2.order)).min?.getD (2 ^ 40)) - 1

/-! ### The end of a launch, R394 -/

/-- Take what a launch held out of a cluster: groups and cells (13 R270), slots and lineage (16 R316), regions with their
leaves (19 R351). -/
def ClusterSt.without (c : ClusterSt) (l : Nat) : ClusterSt :=
  let mine := c.regions.filter (fun r => r.2.launch == l)
  { c with
    groups := c.groups.filter (fun g => g.2.launch != l),
    cells := c.cells.map (fun k => (k.1, if k.2.launch == l then { seq := k.2.seq } else k.2)),
    slots := c.slots.filter (fun p => p.2 != l),
    refs := c.refs.filter (fun p => Map.get? c.slots p.1 != some l),
    releasing := c.releasing.filter (fun x => Map.get? c.slots x != some l),
    lineage := c.lineage.filter (fun e => e.2.launch != l),
    regions := c.regions.filter (fun r => r.2.launch != l),
    leaves := c.leaves.filter (fun p => !mine.any (fun r => decide (r.2.base ≤ p.1) && decide (p.1 < r.2.base + min r.2.leaves 32768))) }
/-- The further engines of a launch's wide regions in a cluster: the whole of each tree is the region's (19 R353). -/
def State.wideEngines (s : State) (l cl : Nat) : List Nat :=
  ((s.cluster cl).regions.filter (fun r => r.2.launch == l)).flatMap (fun r => (List.range (r.2.wide - 1)).map (fun k => cl + k + 1))
/-- Empty the trees of engines. -/
def State.clearTrees (s : State) (cls : List Nat) : State :=
  cls.foldl (fun s c => s.onCluster c (fun k => { k with leaves := [] })) s
/-- Take what a launch left on a core out of it, 11 R243. -/
def CoreSt.without (c : CoreSt) (l : Nat) : CoreSt :=
  let keep (ms : List Msg) : List Msg := ms.filter (fun m => m.launch != l)
  { c with
    posts := c.posts.filter (fun p => p.2.launch != l), pendPosts := keep c.pendPosts,
    chans := c.chans.map (fun q => (q.1, keep q.2)), inbuf := keep c.inbuf,
    binds := c.binds.filter (fun b => b.2.launch != l), killq := Map.del c.killq l, delay := Map.del c.delay l,
    senders := c.senders.filter (fun p => p.1 / 64 != l), tileq := c.tileq.filter (fun o => o.launch != l) }
/-- Post registers that hold a message of a launch. -/
def CoreSt.postsOf (c : CoreSt) (l : Nat) : List Nat := (c.posts.filter (fun p => p.2.launch == l)).map (·.1)
/-- One core forgets a launch; a message that waited behind a discarded value is delivered. -/
def State.forgetOn (s : State) (l g : Nat) : State :=
  let gone := (s.coreSt g).postsOf l
  gone.foldl (fun s i => s.nextPost g i) (s.onCore g (fun c => c.without l))
/-- Everything of a launch but its status goes. -/
def State.forgetLaunch (s : State) (l : Nat) : State :=
  let s := s.clearTrees ((s.clusters.map (·.1)).flatMap (s.wideEngines l))
  let s : State := { s with clusters := s.clusters.map (fun c => (c.1, c.2.without l)),
                            msgs := s.msgs.filter (fun m => m.launch != l) }
  let s := s.onMs (fun m => { m with track := m.track.filter (fun t => t.launch != l) })
  s.cores.foldl (fun s c => s.forgetOn l c.1) s
/-- A launch ends in a state, R394. -/
def State.endLaunch (s : State) (l : Nat) (st : LaunchSt) : State :=
  (s.forgetLaunch l).onLaunch l (fun x => { x with
    st := st, tend := s.dtime, handlers := [], saved := [], savedCores := [], stackUse := [], preempt := 0 })
/-- Whether an engine still works for a launch. -/
def State.launchBusy (s : State) (l : Nat) : Bool :=
  s.tasks.any (fun p => p.2.tid.launch == l) || s.clusters.any (fun c => c.2.copyq.any (fun q => q.launch == l)) ||
  s.cores.any (fun c => c.2.tileq.any (fun o => o.launch == l))
/-- Remove every task of a launch without a kill record (22 R406); each is traced as it goes (24 R429). -/
def State.dropTasks (s : State) (l : Nat) : State :=
  let us := (s.tasks.filter (fun p => p.2.tid.launch == l)).map (·.1)
  let s := us.foldl (fun s u => s.traceTask u 1 2 (s.task u).tid.entry) s
  let gone (u : Nat) : Bool := us.contains u
  let s : State := { s with tasks := s.tasks.filter (fun p => p.2.tid.launch != l),
                            clusters := s.clusters.map (fun c => (c.1, { c.2 with copyq := c.2.copyq.filter (fun q => q.launch != l) })) }
  s.onMs (fun m => { m with versions := m.versions.filter (fun v => !gone v.owner),
                            atomics := m.atomics.filter (fun a => !gone a.owner), pins := m.pins.filter (fun p => !gone p.owner),
                            l1 := m.l1.filter (fun p => !gone p.owner) })
/-- A launch ends as FLR-ABORT, R405, R406. -/
def State.abortLaunch (s : State) (l : Nat) : State := (s.dropTasks l).endLaunch l .flrAbort

/-! ### What a pre-emption saves, R403-R405 -/

/-- The clusters of a launch, ascending. -/
def Launch.clusterList (x : Launch) : List Nat := (x.cores.map clusterOf).dedup
/-- Whether the device saves the launch's clusters, R403, R405: FULL, or COOP in dmodes 1 and 2. -/
def Launch.savesClusters (x : Launch) : Bool := pkindOf x.mode || dmodeOf x.mode != 0
/-- The valid word of a save area. -/
def validWord : Word := 0x000000005AFE0001#64
/-- What a launch owns in a cluster: slots, references, lineage, regions and their leaves. -/
def ClusterSt.ownPart (c : ClusterSt) (l : Nat) : ClusterSt :=
  let mine := c.regions.filter (fun r => r.2.launch == l)
  let slots := c.slots.filter (fun p => p.2 == l)
  { slots := slots, refs := c.refs.filter (fun p => Map.get? c.slots p.1 == some l),
    lineage := c.lineage.filter (fun e => e.2.launch == l), regions := mine,
    leaves := c.leaves.filter (fun p => mine.any (fun r => decide (r.2.base ≤ p.1) && decide (p.1 < r.2.base + min r.2.leaves 32768))) }
/-- A cluster without that part; groups and cells stay at their homes (13 R286). -/
def ClusterSt.lessPart (c : ClusterSt) (l : Nat) : ClusterSt :=
  { c.without l with groups := c.groups, cells := c.cells }
/-- A cluster with that part again. -/
def ClusterSt.withPart (c p : ClusterSt) : ClusterSt :=
  { c with slots := p.slots ++ c.slots, refs := p.refs ++ c.refs, lineage := p.lineage ++ c.lineage,
           regions := p.regions ++ c.regions, leaves := p.leaves ++ c.leaves }
/-- Operand memory of a launch's slots becomes 0. -/
def State.zeroSlots (s : State) (cl : Nat) : List Nat → State
  | [] => s
  | k :: ks => (s.clearRun (opmBase cl k) 8192).zeroSlots cl ks

/-- Write one cluster's 8 MiB: CLM, operand memory and engine state, whose form the spec leaves open. Log entry 27 (DESIGN CHOICE). -/
def State.saveCluster (s : State) (who : Agent) (at_ : Word) (cl : Nat) : Bool × State :=
  let (rest, s) := s.freeBytes (2 ^ 21)
  let bs := memRun s.mem (clmBase cl) (2 ^ 21) ++ memRun s.mem (opmBase cl 0) (2 ^ 22) ++ rest
  s.hubWrite who at_ bs
def State.saveClusters (s : State) (who : Agent) (base : Word) : List (Nat × Nat) → Bool × State
  | [] => (true, s)
  | (k, cl) :: rest =>
    let (ok, s) := s.saveCluster who (base + BitVec.ofNat 64 (64 + k * 2 ^ 23)) cl
    let (oks, s) := s.saveClusters who base rest
    (ok && oks, s)
/-- The save of R405: the valid word goes to 0 first and is written last, when everything else is performed. -/
def State.saveArea (s : State) (l : Nat) : State :=
  let x := s.launch l
  let cls := x.clusterList
  let who := engineAgent x.vf (cls.headD 0)
  let (z, s) := s.hubWrite who x.sarea (wordBytes [0#64])
  let (h, s) := s.hubWrite who (x.sarea + 8#64) (wordBytes [x.num.setWidth 64, BitVec.ofNat 64 cls.length, s.dtime])
  let (b, s) := s.saveClusters who x.sarea ((List.range cls.length).zip cls)
  if z && h && b then (s.hubWrite who x.sarea (wordBytes [validWord])).2 else s

/-- The launch's part of its clusters goes into the launch. -/
def State.takeParts (s : State) (l : Nat) : State :=
  let cls := (s.launch l).clusterList
  let more := cls.flatMap (s.wideEngines l)
  let parts := cls.map (fun cl => (cl, (s.cluster cl).ownPart l)) ++
    more.map (fun cl => (cl, ({ leaves := (s.cluster cl).leaves } : ClusterSt)))
  let s := cls.foldl (fun s cl => s.onCluster cl (fun c => c.lessPart l)) (s.clearTrees more)
  s.onLaunch l (fun x => { x with saved := parts })
/-- The LIVE handles that the tasks of a launch hold on a cluster. -/
def State.launchHandles (s : State) (l cl : Nat) : List Word :=
  (s.tasks.filter (fun p => p.2.tid.launch == l && clusterOf p.2.pl.core == cl)).flatMap (fun p =>
    (p.2.rf.h.map (·.2)).filter (fun h => hSt h == hLIVE))
/-- What COOP in dmode 0 gives back of a cluster, 16 R328: the slots of the restored handles, a Shared tile with one reference for
each handle; no lineage entry and no Garnet state (19 R367). Log entry 91 (DEDUCED). -/
def ClusterSt.reclaimed (c : ClusterSt) (hs : List Word) : ClusterSt :=
  let shared := hs.filter (fun h => !hOnyx h && !hLk h)
  let count (b : Nat) : Nat := (shared.filter (fun h => hBase h == b)).length
  { slots := c.slots.filter (fun p => hs.any (fun h => (hSlots h).contains p.1)),
    refs := (((shared.map hBase).dedup).filter (fun b => decide (2 ≤ count b))).map (fun b => (b, count b)) }
/-- COOP in dmode 0 loses operand memory, lineage and Garnet state (16 R328, 19 R367). -/
def State.clearParts (s : State) (l : Nat) : State :=
  let s := s.takeParts l
  let s := (s.launch l).saved.foldl (fun s p => s.zeroSlots p.1 (p.2.slots.map (·.1))) s
  s.onLaunch l (fun x => { x with saved := x.saved.map (fun p => (p.1, p.2.reclaimed (s.launchHandles l p.1))) })

/-- What the task engine of a core holds of a launch, 11 R253: posts, channels, bindings and the input buffer. -/
def CoreSt.ownPart (c : CoreSt) (l : Nat) : CoreSt :=
  let mine (ms : List Msg) : List Msg := ms.filter (fun m => m.launch == l)
  { posts := c.posts.filter (fun p => p.2.launch == l), pendPosts := mine c.pendPosts,
    chans := (c.chans.map (fun q => (q.1, mine q.2))).filter (fun q => !q.2.isEmpty), inbuf := mine c.inbuf,
    binds := c.binds.filter (fun b => b.2.launch == l) }
/-- A core without that part. -/
def CoreSt.lessPart (c : CoreSt) (l : Nat) : CoreSt :=
  let keep (ms : List Msg) : List Msg := ms.filter (fun m => m.launch != l)
  { c with posts := c.posts.filter (fun p => p.2.launch != l), pendPosts := keep c.pendPosts,
           chans := c.chans.map (fun q => (q.1, keep q.2)), inbuf := keep c.inbuf,
           binds := c.binds.filter (fun b => b.2.launch != l) }
/-- A core with that part again: a value whose register another launch's value fills goes before the messages that wait for it. -/
def CoreSt.withPart (c p : CoreSt) : CoreSt :=
  let free (q : Nat × Msg) : Bool := (Map.get? c.posts q.1).isNone
  { c with posts := (p.posts.filter free).foldl (fun m q => Map.set m q.1 q.2) c.posts,
           pendPosts := ((p.posts.filter (fun q => !free q)).map (fun q => { q.2 with stored := 1 })) ++ p.pendPosts ++ c.pendPosts,
           chans := p.chans.foldl (fun m q => Map.set m q.1 (q.2 ++ Map.get [] m q.1)) c.chans,
           inbuf := p.inbuf ++ c.inbuf, binds := p.binds.foldl (fun m b => Map.set m b.1 b.2) c.binds }
/-- The launch's part of its cores goes into the launch; messages that waited behind its values are delivered. -/
def State.takeCores (s : State) (l : Nat) : State :=
  (s.launch l).cores.foldl (fun s g =>
    let c := s.coreSt g
    let s := (s.onCore g (fun c => c.lessPart l)).onLaunch l (fun x => { x with savedCores := x.savedCores ++ [(g, c.ownPart l)] })
    (c.postsOf l).foldl (fun s i => s.nextPost g i) s) (s.onLaunch l (fun x => { x with savedCores := [] }))
/-- Give a launch its part of its cores again; what no longer fits into the queue areas is moved (11 R242). -/
def State.returnCores (s : State) (l : Nat) : State :=
  let s := ((s.launch l).savedCores.foldl (fun s p => s.onCore p.1 (fun c => c.withPart p.2)) s).onLaunch l
    (fun x => { x with savedCores := [] })
  (s.launch l).clusterList.foldl (fun s cl => s.fitArea cl l (s.unitsUsed cl none)) s

/-- Read one cluster's CLM and the launch's operand slots back. -/
def State.loadCluster (s : State) (who : Agent) (at_ : Word) (p : Nat × ClusterSt) : State :=
  let s := match s.hubRead who at_ (2 ^ 21) with
    | (some bs, s) => { s with mem := memSplice s.mem (clmBase p.1) bs }
    | (none, s) => s
  (p.2.slots.map (·.1)).foldl (fun s k =>
    match s.hubRead who (at_ + BitVec.ofNat 64 (2 ^ 21 + 8192 * k)) 8192 with
    | (some bs, s) => { s with mem := memSplice s.mem (opmBase p.1 k) bs }
    | (none, s) => s) s
def State.loadClusters (s : State) (who : Agent) (base : Word) : List (Nat × Nat × ClusterSt) → State
  | [] => s
  | (k, p) :: rest => (s.loadCluster who (base + BitVec.ofNat 64 (64 + k * 2 ^ 23)) p).loadClusters who base rest
/-- Give a launch its part of its clusters again; reclaimed slots that no save holds are 0 (16 R328). -/
def State.returnParts (s : State) (l : Nat) : State :=
  let kept := (s.launch l).savesClusters
  let s := (s.launch l).saved.foldl (fun s p =>
    (if kept then s else s.zeroSlots p.1 (p.2.slots.map (·.1))).onCluster p.1 (fun c => c.withPart p.2)) s
  s.onLaunch l (fun x => { x with saved := [] })

/-- The handler of a core, R403. Log entry 56 (DEDUCED). -/
def Launch.handlerTask (x : Launch) (p : Part) (l g : Nat) (restore : Bool) : Task :=
  let idx := 8 * p.indexOf (clusterOf g) + g % 8
  let lid : Word := BitVec.ofNat 64 (x.num.toNat * 2 ^ 32 + g)
  freshTask
    { lid := lid, cw := BitVec.ofNat 64 g, launch := l, vf := x.vf, kind := 1#4, entry := x.pent, born := g, handler := true,
      args := [if restore then 1#64 else 0#64, x.sarea, BitVec.ofNat 64 idx] } g 0#64 (some (BitVec.ofNat 63 x.pbud))
/-- Create the handlers of a launch on its cores. -/
def State.addHandlers (s : State) (l : Nat) (restore : Bool) : List Nat → State
  | [] => s
  | g :: gs =>
    let u := s.nextUid
    let x := s.launch l
    ((s.addTask (x.handlerTask (s.part x.vf) l g restore)).onLaunch l (fun x => { x with handlers := x.handlers ++ [u] })).addHandlers l restore gs
/-- Whether a launch has handlers, R402 step 4. -/
def Launch.hasHandler (x : Launch) : Bool := !pkindOf x.mode && x.pent != 0#64

/-- Whether the engines of a launch's clusters let it be saved: no copy command runs in them or brings a tile to it, and none
of its tile instructions is incomplete (15 R314, 16 R327). -/
def State.enginesIdle (s : State) (l : Nat) : Bool :=
  let cls := (s.launch l).clusterList
  cls.all (fun cl => (s.cluster cl).copyq.isEmpty) &&
  !s.clusters.any (fun c => c.2.copyq.any (fun q => match q.what with
    | .hsend _ _ cl _ _ => cls.contains cl
    | _ => false)) &&
  !s.cores.any (fun c => c.2.tileq.any (fun o => o.launch == l))

end Sys2Proof.Machine
end

