-- ==== Sys2Proof/Machine/LaunchEvents.lean ====
section
/-! DEFINITION. Launches: commit, placement, ageing, slices, pre-emption, restore, end, gangs and the function-level reset
(22 R390-R406). A step whose condition does not hold changes nothing. -/
namespace Sys2Proof.Machine

/-! ### Commit, R390, R393 -/

/-- Offset of a slot's record in BAR0. -/
def slotOffset (k : Nat) : Nat := 0x1000 + 64 * k
/-- The checks of R393 on a record: the launch as it then stands. -/
def State.checkLaunch (s : State) (v : Nat) (rec_ : List Byte) (relaxed : Bool) : Launch × State :=
  let base : Launch := { vf := v, queuedAt := s.dtime, tend := s.dtime, order := 2 ^ 40 + s.newLaunch }
  let c := field64 rec_ 0x38
  let pblk : Word := BitVec.ofNat 64 (bits c 55 7 * 128)
  if relaxed then ({ base with st := .orderReject }, s)
  else if modeReserved ((field64 rec_ 0x30).extractLsb' 0 32) then ({ base with st := .modeReject }, s)
  else
    match (if hostMay pblk && (s.vf v).part.isSome then s.hubRead (hostAgent v) pblk 128 else (none, s)) with
    | (none, s) => ({ base with st := .placeReject }, s)
    | (some blk, s) =>
      match buildLaunch (s.part v) base rec_ blk with
      | none => ({ base with st := .placeReject }, s)
      | some x => ({ x with st := .queued, tend := 0#64, num := BitVec.ofNat 16 (s.nextNumber v) }, s)
/-- Whether a VF exists, 23 R407. -/
def State.isVf (s : State) (v : Nat) : Bool := s.hub.sriov && !s.hub.halted && decide (1 ≤ v) && decide (v ≤ 63)
/-- A write into a slot with the relaxed-ordering attribute, discarded or not, is remembered until the slot's next commit (R393). -/
def State.noteRelaxed (s : State) (v k : Nat) (relaxed : Bool) : State :=
  if relaxed then s.onVf v (fun f => { f with relaxed := k :: f.relaxed.filter (· != k) }) else s
/-- A reservation that ends: the gang is queued again at its head, R401. -/
def State.releaseGang (s : State) (l : Nat) : State :=
  s.onLaunch l (fun x => { x with st := .queued, queuedAt := s.dtime, order := s.headOrder, gangC := 0#64, gangT := 0#64, gangGo := false })
/-- A launch that commits before C takes the cores that a gang of higher priority number has reserved, R401. -/
def State.takeFromGangs (s : State) (l : Nat) : State :=
  let e := (s.launch l).eff
  let victims := s.launches.filter (fun p => p.2.st == .reserved && decide (e < p.2.eff) && s.blocksLaunch p.1 l &&
    (p.2.gangC == 0#64 || decide (s.dtime.toNat < p.2.gangC.toNat)))
  victims.foldl (fun s p => s.releaseGang p.1) s
/-- LAUNCH_COMMIT, R390, R393: the write of bytes 0x38-0x3F of a slot that is not busy. -/
def execLaunchCommit (v slot : Nat) (word : BitVec 64) (relaxed : Bool) (s : State) : Host.Outcome State Fault Refusal :=
  .next (if !s.isVf v || 8 ≤ slot then s
    else if s.slotBusy v slot then (s.noteRelaxed v slot relaxed).logged v (slotOffset slot + 0x38)
    else
      let held := Map.get [] (s.vf v).slots slot
      let rec_ := putBytes (padTo 64 held) 0x38 (leBytes 8 word.toNat)
      let late := relaxed || (s.vf v).relaxed.contains slot
      let s := s.onVf v (fun f => { f with slots := Map.set f.slots slot rec_ })
      let (x, s) := s.checkLaunch v rec_ late
      let s := s.showLaunch v slot { x with slot := slot }
      let s := if x.st == .orderReject then s.logged v (slotOffset slot + 0x38) else s
      if x.st == .queued then (s.onVf v (fun f => { f with nextNum := x.num.toNat + 1 })).takeFromGangs (s.launches.length) else s)

/-! ### The distributor, R398, R399 -/

/-- A pre-empted launch comes back onto its cores, R404, R405: a save area without its valid word ends it. -/
def State.restoreLaunch (s : State) (l : Nat) : State :=
  let x := s.launch l
  let who := engineAgent x.vf (x.clusterList.headD 0)
  let (ok, s) :=
    if x.savesClusters then
      match s.hubRead who x.sarea 8 with
      | (some bs, s) => (field64 bs 0 == validWord, s)
      | (none, s) => (false, s)
    else (true, s)
  if !ok then s.abortLaunch l
  else
    let s := if x.savesClusters then
        s.loadClusters who x.sarea ((List.range x.clusterList.length).zip (x.saved.take x.clusterList.length))
      else s
    ((s.returnParts l).onLaunch l (fun y => { y with st := .running, placedAt := s.dtime, preempt := 6 })).returnCores l

/-- LAUNCH_PLACE, R399: the next launch that has room is placed, or restored if it is OUT; a gang's cores are reserved (R400). -/
def execLaunchPlace (s : State) : Host.Outcome State Fault Refusal :=
  .next (match s.nextLaunch with
    | (none, s) => s
    | (some l, s) =>
      let x := s.launch l
      if x.st == .out then s.restoreLaunch l
      else if x.npkg != 0 then s.setLaunch l { x with st := .reserved, waited := x.waited + (s.dtime - x.queuedAt) }
      else s.startLaunch l)
/-- LAUNCH_RESTORE, R405: in the order in which the distributor serves (R398). -/
def execLaunchRestore (l : Nat) (s : State) : Host.Outcome State Fault Refusal :=
  .next (match s.nextLaunch with
    | (some k, s') => if k == l && (s.launch l).st == .out then s'.restoreLaunch l else s
    | (none, _) => s)

/-- ns that a launch has been QUEUED, R398: the time RESERVED does not count. -/
def State.queuedFor (s : State) (x : Launch) : Nat := (x.waited + (s.dtime - x.queuedAt)).toNat

/-- PRIORITY_AGING, R398. -/
def execPriorityAging (l : Nat) (s : State) : Host.Outcome State Fault Refusal :=
  let x := s.launch l
  .next (if x.st == .queued && 1000000 * (x.aged + 1) ≤ s.queuedFor x then
      s.setLaunch l { x with aged := x.aged + 1, eff := x.eff - 1 }
    else s)

/-- Step 1 of R402: the launch stops dispatching and activating, and its grace runs. -/
def State.beginPreempt (s : State) (l : Nat) : State := s.onLaunch l (fun x => { x with preempt := 2, preAt := s.dtime })
/-- Whether a launch can be pre-empted now. -/
def Launch.mayPreempt (x : Launch) : Bool := x.st == .running && x.preempt == 0
/-- PREEMPTION, R399, R402: a held launch of its partition with a lower effective priority number is blocked by it. -/
def execPreemption (l : Nat) (s : State) : Host.Outcome State Fault Refusal :=
  let x := s.launch l
  .next (if x.mayPreempt && s.launches.any (fun h => s.heldLaunch h.1 && decide (h.2.eff < x.eff) && s.blocksLaunch l h.1) then
      s.beginPreempt l
    else s)
/-- The running launch of equal effective priority that blocks a held one and has been resident longest, also where it is already
being pre-empted. -/
def State.sliceVictim (s : State) (l : Nat) : Option (Nat × Launch) :=
  let x := s.launch l
  let vs := s.launches.filter (fun p => p.2.st == .running && p.2.eff == x.eff && s.blocksLaunch p.1 l)
  vs.find? (fun p => vs.all (fun q => decide (p.2.placedAt.toNat ≤ q.2.placedAt.toNat)))
/-- SLICE_EXPIRY, R399: the slice is counted from the victim's placement. -/
def execSliceExpiry (l : Nat) (s : State) : Host.Outcome State Fault Refusal :=
  .next (if !s.heldLaunch l then s
    else
      match s.sliceVictim l with
      | none => s
      | some (v, x) =>
        if x.mayPreempt && 1000 * (s.part x.vf).slice ≤ (s.dtime - x.placedAt).toNat then s.beginPreempt v else s)

/-! ### Pre-emption, R402-R404 -/

/-- The tasks of a launch that step 3 of R402 takes, its handlers apart: those in a context, and of the ordered ones that are not the
horizon holder those that have EXITED or yielded and not committed (R31). -/
def State.toFreeze (s : State) (l : Nat) : List (Nat × Task) :=
  s.tasks.filter (fun p => p.2.tid.launch == l && !p.2.tid.handler &&
    ((p.2.pl.life == .resident && p.2.pl.run != .out) ||
     ((p.2.pl.life == .exited || (p.2.pl.life == .queued && p.2.pl.saved)) && s.provisional p.1)))
/-- Freeze a task, R402 step 3, R31: an ordered task that is not the horizon holder aborts; another becomes OUT and keeps its
context (11 R230). -/
def State.freeze (s : State) (u : Nat) : State :=
  if s.provisional u then s.abort u
  else if (s.task u).pl.life != .resident then s
  else ((s.unpin u).goOut u).updTask u (·.onPl (fun p => { p with run := .out }))
/-- GRACE_EXPIRY, R402 step 3: it waits for the loads, stores and updates of the tasks it freezes (07 R153). Log entry 58 (DEDUCED). -/
def execGraceExpiry (l : Nat) (s : State) : Host.Outcome State Fault Refusal :=
  let x := s.launch l
  let ts := s.toFreeze l
  let quiet := ts.all (fun p => s.provisional p.1 || (s.loadsDone p.1 && p.2.io.sq.isEmpty && p.2.io.upds.isEmpty))
  .next (if x.preempt == 2 && 1000 * (s.part x.vf).grace ≤ (s.dtime - x.preAt).toNat && quiet then
      let s := ts.foldl (fun s p => s.freeze p.1) s
      if x.hasHandler then (s.onLaunch l (fun x => { x with preempt := 4 })).addHandlers l false x.active
      else s.onLaunch l (fun x => { x with preempt := 5 })
    else s)
/-- COOP_HANDLER_BUDGET_END, R403. -/
def execCoopHandlerBudgetEnd (u : Nat) (s : State) : Host.Outcome State Fault Refusal :=
  let t := s.task u
  .next (if t.tid.handler && t.live && t.broke then s.endHandler u else s)

/-- The end of a pre-emption, R402 step 5, R403: clusters are saved or cleared, what the task engines hold is saved with the cores
(11 R253), and the launch is OUT, queued at the head of its priority. -/
def State.finishPreempt (s : State) (l : Nat) : State :=
  let s := if (s.launch l).savesClusters then (s.saveArea l).takeParts l else s.clearParts l
  let n := s.headOrder
  let s := (s.takeCores l).onLaunch l (fun x => { x with st := .out, preempt := 0, order := n })
  (s.launch l).cores.foldl (fun s g => s.onCore g (fun c => { c with swapDue := true })) s
/-- The end of a restore's transfers, R404: the halves of its cores change roles; the handlers run first, or the launch goes on. -/
def State.finishRestore (s : State) (l : Nat) : State :=
  let x := s.launch l
  let s := s.swapHalves x.cores
  if x.hasHandler then (s.onLaunch l (fun x => { x with preempt := 7 })).addHandlers l true x.active
  else x.cores.foldl (fun s g => s.unhalt g) (s.onLaunch l (fun x => { x with preempt := 0 }))
/-- REGISTER_CACHE_SWAP, R404: the transfers of the outgoing, or of the incoming, launch of a core have finished. The halves change
roles with the later of the two, the incoming one's. Log entry 58 (DEDUCED). -/
def execRegisterCacheSwap (g : Nat) (s : State) : Host.Outcome State Fault Refusal :=
  let on (n : Nat) : Option Nat := (s.launches.find? (fun p => p.2.preempt == n && p.2.cores.contains g)).map (·.1)
  .next (match on 5, on 6 with
    | some l, _ => if s.enginesIdle l then s.finishPreempt l else s
    | none, some l => s.finishRestore l
    | none, none => s)

/-! ### The end, R394, R406 -/

/-- LAUNCH_END, R394. -/
def execLaunchEnd (l : Nat) (s : State) : Host.Outcome State Fault Refusal :=
  let st := (s.launch l).st
  .next (if (st == .running || st == .out) && !s.launchBusy l then s.endLaunch l .done else s)

/-- Scrub a cluster: its engines, its cores, its CLM and its operand memory (22 R406, 23 R414). -/
def State.scrubCluster (s : State) (cl : Nat) : State :=
  let s := ((s.clearRun (clmBase cl) (2 ^ 21)).clearRun (opmBase cl 0) (2 ^ 22)).setCluster cl {}
  let keep (c : CoreSt) : CoreSt := { breaks := c.breaks, stopped := c.stopped }
  let s : State := { s with cores := s.cores.map (fun c => if clusterOf c.1 == cl then (c.1, keep c.2) else c) }
  s.onMs (fun m => { m with
    icache := m.icache.filter (fun c => clusterOf c.1 != cl), l1 := m.l1.filter (fun p => !(p.unit == 5120 + cl || (decide (p.unit < 5120) && clusterOf p.unit == cl))),
    reds := m.reds.filter (fun r => clusterOf r.core != cl),
    pins := m.pins.filter (fun p => clusterOf p.core != cl) })
/-- The registers of a VF after a function-level reset: mailbox, slots, trace and MSI-X; statuses and keys stay. -/
def Vf.flr (f : Vf) : Vf :=
  { f with slots := [], relaxed := [], mreq := [], mrsp := [], reply := [], mctl := 0#64, mres := 0#64, passed := false, trace := {}, msix := [] }
/-- What the slices and links of a VF hold for its lines beside memory itself is scrubbed. -/
def State.scrubSlices (s : State) (v : Nat) : State :=
  let p := s.part v
  let mine (loc : Nat) : Bool := p.links.any (fun x => x.1 * 64 + x.2 == loc / 2 ^ 39)
  s.onMs (fun m => { m with
    replicas := m.replicas.filter (fun r => !mine (512 * r.2)),
    flights := m.flights.filter (fun f => !f.cells.any (fun c => mine c.1)),
    lagging := m.lagging.map (fun d => (d.1, d.2.filter (fun c => !mine c.1))) })
/-- The reset of a VF, R406: its launches end as FLR-ABORT and its on-chip state is scrubbed; the PF is told (23 R423). Log entry 29 (DEDUCED). -/
def State.resetVf (s : State) (v : Nat) : State :=
  let ls := s.liveLaunches v
  let nums := ls.map (fun l => (s.launch l).num.setWidth 64)
  let s := ls.foldl (fun s l => s.abortLaunch l) s
  let s := (s.part v).clusters.foldl (fun s c => s.scrubCluster c) s
  let s := ((s.scrubSlices v).dropTlb v none).onVf v Vf.flr
  s.pfEvent 1 v (nums.headD 0#64) ((nums[1]?).getD 0#64)
/-- FUNCTION_LEVEL_RESET, R406. -/
def execFunctionLevelReset (v : Nat) (s : State) : Host.Outcome State Fault Refusal := .next (s.resetVf v)

/-! ### Gangs, R400, R401 -/

/-- The tick T of a gang whose last reservation is known at A, and its cancel bound C. -/
def gangTick (a : Nat) : Nat := (a + 20000 + 999) / 1000 * 1000
def gangBound (a : Nat) : Nat := gangTick a - 4000
/-- GANG_RESERVATION, R400 step 2: the leader has learnt of the last reservation at `last`, and T and C reach this member. Log entry 60 (DESIGN CHOICE). -/
def execGangReservation (l : Nat) (last : BitVec 64) (s : State) : Host.Outcome State Fault Refusal :=
  let x := s.launch l
  .next (if x.st == .reserved && x.gangC == 0#64 && decide (last.toNat ≤ s.dtime.toNat) then
      s.setLaunch l { x with gangT := BitVec.ofNat 64 (gangTick last.toNat),
                             gangC := BitVec.ofNat 64 (gangBound last.toNat), gangGo := false }
    else s)
/-- GANG_GO, R400 step 3: at C + 500 ns. -/
def execGangGo (l : Nat) (s : State) : Host.Outcome State Fault Refusal :=
  let x := s.launch l
  .next (if x.st == .reserved && x.gangC.toNat + 500 ≤ s.dtime.toNat && x.gangC != 0#64 then s.setLaunch l { x with gangGo := true } else s)
/-- GANG_START, R400 step 4: at T, for a member that has received go. -/
def execGangStart (l : Nat) (s : State) : Host.Outcome State Fault Refusal :=
  let x := s.launch l
  .next (if x.st == .reserved && x.gangGo && x.gangT.toNat ≤ s.dtime.toNat then s.startLaunch l else s)
/-- GANG_CANCEL, R401: a cancel stamped before C releases the reservation and the gang is queued at its head again. A member that a
reset has ended at or after C ends this one as FLR-ABORT (R406). -/
def execGangCancel (l : Nat) (stamp : BitVec 64) (s : State) : Host.Outcome State Fault Refusal :=
  let x := s.launch l
  .next (if x.st == .reserved && !x.gangGo && (x.gangC == 0#64 || decide (stamp.toNat < x.gangC.toNat)) then
      s.releaseGang l
    else if x.st.live && x.gangC != 0#64 && decide (x.gangC.toNat ≤ stamp.toNat) && decide (stamp.toNat ≤ s.dtime.toNat) then
      s.abortLaunch l
    else s)

end Sys2Proof.Machine
end

