-- ==== Sys2Proof/Machine/HostCore.lean ====
section
/-! DEFINITION. The hub behind the host's requests: BAR0 as the host reads it (23 R408-R411, 22 R394, 24 R428), the mailbox
(23 R411, R412), partition records (R413-R417), sessions and key slots (R419-R421), trace registers (24 R428). -/
namespace Sys2Proof.Machine

/-! ### BAR0 as it reads -/

/-- The code of a launch state, 22 R394. -/
def LaunchSt.code : LaunchSt → Nat
  | .free => 0 | .queued => 1 | .reserved => 2 | .running => 3 | .out => 4 | .done => 5 | .modeReject => 6
  | .orderReject => 7 | .placeReject => 8 | .flrAbort => 9
/-- Word i of a launch's status, 22 R394. -/
def Launch.status (x : Launch) (i : Nat) : Word :=
  match i with
  | 0 => BitVec.ofNat 64 (x.num.toNat * 2 ^ 48 + x.kills * 2 ^ 32 + (if x.waived then 2 ^ 8 else 0) + x.st.code)
  | 1 => x.krec.q0
  | 2 => x.krec.q1
  | 3 => x.krec.q2
  | 4 => x.krec.q3
  | 5 => x.tstart
  | 6 => x.tend
  | _ => 0#64
/-- The status word of a trace register, 24 R428. -/
def Trace.reg (t : Trace) (off : Nat) : Word :=
  if off == 0x00 then t.tbase
  else if off == 0x08 then t.tsize.setWidth 64
  else if off == 0x10 then t.twidx.setWidth 64
  else if off == 0x18 then t.tridx.setWidth 64
  else if off == 0x20 then BitVec.ofNat 64 (t.drop.toNat * 2 ^ 32 + t.cls.toNat * 2 + (if t.en then 1 else 0))
  else 0#64
/-- The identity registers of a VF, 23 R409; the silicon stepping is an implementation's. -/
def State.identity (s : State) (v off : Nat) : Word :=
  let f := s.vf v
  let p := s.part v
  if off == 0x00 then BitVec.ofNat 64 (0x00007A64 * 2 ^ 32 + Config.stepping.toNat * 2 ^ 16 + v)
  else if off == 0x08 then
    BitVec.ofNat 64 (p.clusters.length * 2 ^ 32 + p.slices.length * 2 ^ 16 + p.links.length % 256 * 2 ^ 8 + s.hub.pkg % 16)
  else if off == 0x10 then s.dtime
  else if off == 0x18 then
    BitVec.ofNat 64 ((f.keys.map (fun k => 2 ^ (k.1 % 16))).sum + (if f.sessions.isEmpty then 0 else 1))
  else 0#64
/-- The 64-bit register of a VF's BAR0 at an offset that is a multiple of 8, 23 R408: offsets without a register read 0. -/
def State.bar0Read (s : State) (v off : Nat) : Word :=
  let f := s.vf v
  if off < 0x40 then s.identity v off
  else if 0x1000 ≤ off ∧ off < 0x1200 then field64 (padTo 64 (Map.get [] f.slots ((off - 0x1000) / 64))) (off % 64)
  else if 0x1200 ≤ off ∧ off < 0x1400 then
    match s.slotLaunch v ((off - 0x1200) / 64) with
    | some l => (s.launch l).status (off % 64 / 8)
    | none => 0#64
  else if 0x2000 ≤ off ∧ off < 0x2100 then f.trace.reg (off - 0x2000)
  else if 0x3000 ≤ off ∧ off < 0x3100 then field64 (padTo 256 f.mreq) (off - 0x3000)
  else if 0x3100 ≤ off ∧ off < 0x3200 then field64 (padTo 256 f.mrsp) (off - 0x3100)
  else if off == 0x3200 then f.mctl
  else if off == 0x3208 then f.mres
  else if 0x4000 ≤ off ∧ off < 0x6000 then
    BitVec.ofNat 64 (leNat ((List.range 8).map (fun i => Map.get 0#8 f.msix (off - 0x4000 + i))))
  else 0#64

/-! ### Host accesses -/

/-- Translate for the host agent through BAR2, 23 R410: selectors above 0xEF are not reached. -/
def State.hostXlate (s : State) (v : Nat) (need : Need) (va : Word) (n : Nat) : Except XFault (List Seg) × State :=
  if hostMay va && hostMay (va + BitVec.ofNat 64 (n - 1)) then s.xlate (hostAgent v) need va n
  else (.error { va := va, code := cADDR }, s)
/-- The lid of the host in tracking, 23 R410. -/
def hostLid : Word := 0x0000FFFFFFFFFFFF#64
/-- Give a completion to the host. -/
def State.hostGets (s : State) (c : HostCpl) : State := { s with hostOut := c :: s.hostOut }
/-- A host access enters the tracking of every running launch in dmode 1 or 2 (23 R410): none where a conflict refuses it, with
that launch marked (06 R151). Log entry 61 (DEDUCED). -/
def State.hostTrack (s : State) (acc : TrackAcc) (locs : List Nat) : List Nat → Bool × State
  | [] => (true, s)
  | l :: ls =>
    match s.trackAccess l { lid := hostLid } none acc locs with
    | .ok (s, _) => s.hostTrack acc locs ls
    | .error _ => (false, s.waive l)
/-- The launches of a partition in dmode 1 or 2 whose phase goes on: running ones, and those that are OUT (01 R31). -/
def State.trackingLaunches (s : State) (v : Nat) : List Nat :=
  (s.launches.filter (fun p => p.2.vf == v && (p.2.st == .running || p.2.st == .out) && dmodeOf p.2.mode != 0)).map (·.1)
/-- Whether an offset lies in a VF's BAR2. -/
def State.inBar2 (s : State) (v : Nat) (addr : Word) (n : Nat) : Bool :=
  (s.vf v).part.isSome && decide (addr.toNat + n ≤ 2 ^ (s.part v).b2)

/-! ### The mailbox, R411, R412 -/

def mbState (f : Vf) : Nat := bits f.mctl 1 0
def mbOp (f : Vf) : Nat := bits f.mctl 31 16
def mbLen (f : Vf) : Nat := bits f.mctl 47 32
/-- Whether a request of an op is in hand. -/
def State.asked (s : State) (v op : Nat) : Bool := mbState (s.vf v) == 1 && mbOp (s.vf v) == op
/-- Answer a request: mrsp and mres are written, the state is DONE and vector 0 fires. -/
def State.answer (s : State) (v : Nat) (status : Nat) (bs : List Byte) : State :=
  s.onVf v (fun f => { f with
    mrsp := padTo 256 bs,
    mres := BitVec.ofNat 64 (bits f.mctl 63 48 * 2 ^ 48 + min 256 bs.length * 2 ^ 32 + status),
    mctl := (f.mctl &&& ~~~3#64) ||| 2#64, passed := false, reply := [], raised := 0 :: f.raised })
def mbREFUSED : Nat := 1
def mbBADOP : Nat := 2
def mbBADLEN : Nat := 3
/-- The PF is told of a request, 23 R423 code 2. -/
def State.tellPf (s : State) (v : Nat) : State :=
  s.pfEvent 2 v (BitVec.ofNat 64 (mbOp (s.vf v))) (BitVec.ofNat 64 (mbLen (s.vf v)))
/-- A map of bits as bytes. -/
def bitBytes (n : Nat) (ks : List Nat) : List Byte := leBytes n ((ks.map (2 ^ ·)).sum)
/-- The partition record of R413 with xroot read as 0. -/
def Part.record (p : Part) : List Byte :=
  wordBytes [BitVec.ofNat 64 (p.qunits * 2 ^ 32 + p.wv * 2 ^ 8), BitVec.ofNat 64 (p.grace * 2 ^ 32 + p.slice), 0#64,
    BitVec.ofNat 64 p.b2] ++ bitBytes 80 p.clusters ++ bitBytes 128 p.slices ++ wordBytes [p.permAt, p.lmapAt]
/-- The permission table as the clusters hold it: a cluster's own bit reads as 1 (R415). -/
def Part.permBytes (p : Part) : List Byte := p.perm.zipIdx.flatMap (fun r => leBytes 80 (r.1 ||| 2 ^ r.2))
/-- The link map as APPLY read it: entries that name no link are 0 (R417). -/
def Part.linkBytes (p : Part) : List Byte :=
  wordBytes (p.links.map (fun x => if x.1 == 16 then 0#64 else BitVec.ofNat 64 (2 ^ 63 + x.2 * 2 ^ 8 + x.1)))
/-- A measurement block of a partition, R420: SHA-384 over the firmware, the partition's record and tables, or the fenced-die map. -/
def State.measurement (s : State) (v i : Nat) : List Byte :=
  sha384 (match i with
    | 3 => (s.part v).record ++ (s.part v).permBytes ++ (s.part v).linkBytes
    | 4 => leBytes 8 s.hub.record.dies.toNat
    | _ => Config.firmware i)
/-- The start of the answer to a GET_MEASUREMENTS that the mailbox holds: the number of blocks, or the block that it names. Log entry 107
(PRESUMED). -/
def State.measureHead (s : State) (v : Nat) : List Byte :=
  let i := (((s.vf v).mreq[3]?).getD 0#8).toNat
  if i == 0 then [0x13#8, 0x60#8, 4#8, 0#8, 0#8, 0#8, 0#8, 0#8]
  else if i ≤ 4 then
    [0x13#8, 0x60#8, 0#8, 0#8, 1#8, 55#8, 0#8, 0#8, BitVec.ofNat 8 i, 1#8, 51#8, 0#8, if i ≤ 2 then 1#8 else 3#8, 48#8, 0#8] ++ s.measurement v i
  else []
/-- An SPDM response: but for its first bytes, length and content are the security processor's (R419). Log entry 24 (DESIGN CHOICE). -/
def State.spdmAnswer (s : State) (v : Nat) (head : List Byte := []) : State :=
  if !s.asked v 0x10 then s
  else
    let (k, s) := s.takeFree
    let (bs, s) := s.freeBytes ((Config.freeWord k).toNat % (257 - head.length))
    s.answer v 0 (head ++ bs)

/-- An SPDM request: over the mailbox its length is checked (R412); over MCTP the mailbox has no part in it (R419). -/
def State.spdmWith (s : State) (v : Nat) (head : List Byte) (cont : State → State) : State :=
  if s.asked v 0x10 && (mbLen (s.vf v) == 0 || 248 < mbLen (s.vf v)) then s.answer v mbBADLEN [] else (cont s).spdmAnswer v head
/-- A request whose answer has no byte that the spec gives. -/
def State.spdm (s : State) (v : Nat) (cont : State → State) : State := s.spdmWith v [] cont
/-- The SPDM error Busy (R419). Log entry 107 (PRESUMED). -/
def spdmBusy : List Byte := [0x13#8, 0x7F#8, 3#8, 0#8]
/-- A request that is answered Busy. -/
def State.spdmBusy (s : State) (v : Nat) : State :=
  if !s.asked v 0x10 then s
  else s.answer v (if mbLen (s.vf v) == 0 || 248 < mbLen (s.vf v) then mbBADLEN else 0)
    (if mbLen (s.vf v) == 0 || 248 < mbLen (s.vf v) then [] else Machine.spdmBusy)

/-! ### Partitions, R413-R417 -/

/-- A link map entry: package and link; one that is not valid, or sets a bit that must be 0, names package 16. -/
def linkEntry (w : Word) : Nat × Nat :=
  if w.getLsbD 63 && bits w 62 14 == 0 && bits w 7 4 == 0 then (bits w 3 0, bits w 13 8) else (16, 0)
/-- Drop invalid entries at the end of a link map. -/
def trimLinks (ls : List (Nat × Nat)) : List (Nat × Nat) := (ls.reverse.dropWhile (fun x => x.1 == 16)).reverse
/-- Numbers of the bits set in bytes. -/
def bitsSet (n : Nat) (bs : List Byte) : List Nat :=
  let x := leNat bs
  (List.range n).filter (fun i => x.testBit i)

/-- What a configuration window asks for. The link map is read at APPLY with its address naming links of this package. -/
def State.askedPart (s : State) : Part :=
  let w := padTo 256 s.hub.window
  let at_ (o : Nat) : Word := field64 w o
  let entries := (List.range 64).map (fun i => s.phys64 (({ links := (List.range 64).map (fun k => (s.hub.pkg, k)) } : Part).locOf
    ((at_ 0xF8).toNat + 8 * i)))
  let links := trimLinks (entries.map linkEntry)
  let clusters := bitsSet 640 ((w.drop 0x20).take 80)
  let p : Part :=
    { qunits := bits (at_ 0) 45 32, wv := bits (at_ 0) 15 8, grace := bits (at_ 8) 63 32, slice := bits (at_ 8) 31 0,
      xroot := at_ 0x10, b2 := bits (at_ 0x18) 5 0, clusters := clusters, slices := bitsSet 1024 ((w.drop 0x70).take 128),
      links := links, permAt := at_ 0xF0, lmapAt := at_ 0xF8 }
  { p with perm := (List.range clusters.length).map (fun i =>
      leNat (s.phys (p.locOf ((at_ 0xF0).toNat + 80 * i)) 80)) }
/-- The fields of R413 within their limits; xroot is a multiple of 1 MiB (05 R119). -/
def State.windowOk (s : State) : Bool :=
  let w := padTo 256 s.hub.window
  let at_ (o : Nat) : Word := field64 w o
  let p := s.askedPart
  bits (at_ 0) 63 46 == 0 && bits (at_ 0) 31 16 == 0 && bits (at_ 0) 7 0 == 0 && p.qunits ≤ 8192 && 1 ≤ p.wv &&
  1 ≤ p.grace && p.grace ≤ 100 && 100 ≤ p.slice && p.slice ≤ 100000 && bits (at_ 0x18) 63 6 == 0 && 20 ≤ p.b2 && p.b2 ≤ 45 &&
  bits (at_ 0x10) 19 0 == 0 && bits (at_ 0xF0) 5 0 == 0 && bits (at_ 0xF8) 2 0 == 0
/-- Whether a link that an entry names may be this VF's: its own package's, unfenced and of no other partition, or another
package's that its grant word gives to this package and VF (R417). -/
def State.linkFree (s : State) (v : Nat) (x : Nat × Nat) : Bool :=
  x.1 == 16 ||
  (if x.1 == s.hub.pkg then
    !s.hub.linkGone x.1 x.2 && s.vfs.all (fun f => f.1 == v || !((s.part f.1).links.contains x))
  else Map.get 0#64 s.hub.grants (64 * x.1 + x.2) == BitVec.ofNat 64 (2 ^ 63 + v * 2 ^ 8 + s.hub.pkg))
/-- Whether a table lies in device DRAM behind the links of a record (check 5). -/
def State.tableOk (s : State) (p : Part) (a : Word) (n : Nat) : Bool :=
  s.inDram p a.toNat n && a.toNat / 2 ^ 39 == (a.toNat + n - 1) / 2 ^ 39
/-- The number of the check of R414 that fails, 0 for none. Log entry 62 (DEDUCED). -/
def State.applyCheck (s : State) (v : Nat) : Nat :=
  let p := s.askedPart
  let idPart : Part := { links := (List.range 64).map (fun k => if p.links.contains (s.hub.pkg, k) then (s.hub.pkg, k) else (16, 0)) }
  let others := s.vfs.filter (fun f => f.1 != v)
  if !s.isVf v || !(s.liveLaunches v).isEmpty then 1
  else if !s.windowOk then 2
  else if p.clusters.isEmpty || p.slices.isEmpty || p.links.isEmpty then 3
  else if p.clusters.any (fun c => s.hub.fenced.contains (c / 10) || others.any (fun f => (s.part f.1).clusters.contains c)) ||
      p.slices.any (fun c => s.hub.fenced.contains (c / 16) || others.any (fun f => (s.part f.1).slices.contains c)) ||
      !p.links.all (fun x => s.linkFree v x) then 4
  else if !(s.tableOk p p.xroot (2 ^ 20) && s.tableOk p p.permAt (80 * p.clusters.length) && s.tableOk idPart p.lmapAt 512) then 5
  else 0
/-- Sessions of a partition end and its key slots empty, R420. -/
def State.endSessions (s : State) (v : Nat) : State :=
  let ids := (s.vf v).sessions.map (·.id)
  let s := s.onVf v (fun f => { f with sessions := [], keys := [] })
  ids.foldl (fun s i => s.pfEvent 4 v (BitVec.ofNat 64 i) 0#64) s
/-- Slot 0 of a partition takes a fresh random key, R421. -/
def State.freshKey (s : State) (v : Nat) : State :=
  let (i, s) := s.takeFree
  let (j, s) := s.takeFree
  let (k, s) := s.takeFree
  let (l, s) := s.takeFree
  s.onVf v (fun f => { f with
    key0 := Config.freeWord i ++ Config.freeWord j ++ Config.freeWord k ++ Config.freeWord l })
/-- What a partition's links hold of this package's DRAM is scrubbed to zero, R414. -/
def State.scrubLinks (s : State) (v : Nat) : State :=
  let ls := (s.part v).links
  let mine (loc : Nat) : Bool := decide (loc < 2 ^ 51) && ls.any (fun x => x.1 == s.hub.pkg && x.1 * 64 + x.2 == loc / 2 ^ 39)
  { s with mem := s.mem.filter (fun c => !mine c.1),
           ms := { s.ms with keyed := s.ms.keyed.filter (fun c => !mine (c.1 * 128)), base := s.ms.base.filter (fun c => !mine (c.1 * 2 ^ 39)), poison := s.ms.poison.filter (fun c => !mine (c.1 * 4)) } }
/-- A cluster kept by a partition that is configured again: tiles and trees are reset (16 R316, 19 R351). -/
def ClusterSt.reconfigured (c : ClusterSt) : ClusterSt :=
  { c with slots := [], refs := [], releasing := [], lineage := [], leaves := [], regions := [] }
/-- The answer of a partition command: pres, and the command is over. -/
def State.pcmdDone (s : State) (r : Nat) : State := s.onHub (fun h => { h with pres := BitVec.ofNat 64 r, pcmd := 0#64 })
/-- Whether pcmd asks for an operation on a VF. -/
def State.pcmdIs (s : State) (v op : Nat) : Bool := s.hub.pcmd == BitVec.ofNat 64 (v + op * 2 ^ 8)
/-- Whether an APPLY or DISSOLVE is in progress. -/
def Hub.busy (h : Hub) : Bool := h.pcmd != 0#64

/-! ### Trace registers, 24 R428 -/

/-- Whether a ring of n records at an address can be written by the host agent. -/
def State.ringOk (s : State) (v : Nat) (base : Word) (n : Nat) : Bool × State :=
  if n == 0 then (true, s)
  else
    match s.hostXlate v { w := true } base (32 * n) with
    | (.ok _, s) => (true, s)
    | (.error _, s) => (false, s)
/-- Write a trace register, or reject the write and tell the PF. -/
def State.traceWrite (s : State) (v off : Nat) (w : Word) : State :=
  let t := (s.vf v).trace
  let put (f : Trace → Trace) (s : State) : State := s.onVf v (fun x => { x with trace := f x.trace })
  let no (s : State) : State := s.logged v (0x2000 + off)
  let low : BitVec 32 := w.setWidth 32
  if off == 0x00 then
    if t.en || bits w 11 0 != 0 then no s
    else
      match s.ringOk v w t.tsize.toNat with
      | (true, s) => put (fun t => { t with tbase := w }) s
      | (false, s) => no s
  else if off == 0x08 then
    let n := low.toNat
    if t.en || n < 64 || 2 ^ 24 < n || 2 ^ n.log2 != n then no s
    else
      match s.ringOk v t.tbase n with
      | (true, s) => put (fun t => { t with tsize := low }) s
      | (false, s) => no s
  else if off == 0x10 then (if t.tsize.toNat ≤ low.toNat then no s else put (fun t => { t with twidx := low }) s)
  else if off == 0x18 then (if t.tsize.toNat ≤ low.toNat then no s else put (fun t => { t with tridx := low }) s)
  else if off == 0x20 then put (fun t => { t with cls := w.extractLsb' 1 7, en := w.getLsbD 0 }) s
  else no s

end Sys2Proof.Machine
end

