-- ==== Sys2Proof/Machine/HostEvents.lean ====
section
/-! DEFINITION. What the host and the PF do: register writes, mailbox requests, partitions, attestation, and memory accesses
through BAR2 (23 R407-R423, 24 R428). A step whose condition does not hold changes nothing. -/
namespace Sys2Proof.Machine

/-! ### Mailbox requests, R412 -/

/-- The PF's verdict on SETROOT, R412; any value of xroot is taken. Log entry 96 (DESIGN CHOICE). -/
def State.rootAnswer (s : State) (v : Nat) (approved : Bool) : State :=
  if approved then
    let root := field64 (padTo 256 (s.vf v).mreq) 0
    let s := s.onVf v (fun f => { f with part := f.part.map (fun p => { p with xroot := root }) })
    (s.dropTlb v none).answer v 0 []
  else s.answer v mbREFUSED []
/-- SETROOT, R412, with the PF's verdict; the PF has been told of the request as it was sent (`State.mailboxWrite`), else it is now. -/
def execSetroot (v : Nat) (approved : Bool) (s : State) : Host.Outcome State Fault Refusal :=
  .next (if !s.asked v 1 then s
    else if mbLen (s.vf v) != 8 then s.answer v mbBADLEN []
    else (if (s.vf v).passed then s else s.tellPf v).rootAnswer v approved)
/-- The PF answers a request that is with it: its message's reply, or its verdict on SETROOT, for which status OK approves (R412). -/
def State.pfAnswer (s : State) (v status : Nat) (reply : List Byte) : State :=
  if s.asked v 1 then s.rootAnswer v (status == 0) else s.answer v status (reply.take 256)
/-- GETCFG, R412. -/
def execGetcfg (v : Nat) (s : State) : Host.Outcome State Fault Refusal :=
  .next (if !s.asked v 2 then s
    else if mbLen (s.vf v) != 0 then s.answer v mbBADLEN []
    else s.answer v 0 (s.part v).record)
/-- PFMSG, R412: the request goes to the PF, which answers later. -/
def execPfmsg (v : Nat) (s : State) : Host.Outcome State Fault Refusal :=
  .next (if !s.asked v 0x30 || (s.vf v).passed then s
    else if 248 < mbLen (s.vf v) then s.answer v mbBADLEN []
    else (s.tellPf v).onVf v (fun f => { f with passed := true }))
/-- MAILBOX_BADOP, R412. -/
def execMailboxBadop (v : Nat) (s : State) : Host.Outcome State Fault Refusal :=
  let op := mbOp (s.vf v)
  .next (if mbState (s.vf v) == 1 && op != 1 && op != 2 && op != 0x10 && op != 0x30 then s.answer v mbBADOP [] else s)
/-- PF_MAILBOX_ANSWER, R412. -/
def execPfMailboxAnswer (v : Nat) (status : BitVec 16) (reply : List (BitVec 8)) (s : State) :
    Host.Outcome State Fault Refusal :=
  .next (if (s.vf v).passed && mbState (s.vf v) == 1 then s.pfAnswer v status.toNat reply else s)

/-! ### Partitions, R414 -/

/-- APPLY, R414: the checks in order, then the record takes effect on scrubbed units. -/
def execApply (v : Nat) (s : State) : Host.Outcome State Fault Refusal :=
  .next (if !s.pcmdIs v 1 then s
    else
      match s.applyCheck v with
      | 0 =>
        let p := s.askedPart
        let old := (s.part v).clusters
        let s := (p.clusters.filter (fun c => !old.contains c)).foldl (fun s c => s.scrubCluster c) s
        let s := (p.clusters.filter old.contains).foldl (fun s c => s.onCluster c ClusterSt.reconfigured) s
        let s := (((s.endSessions v).keepOldKey v).freshKey v).onVf v (fun f => { f with part := some p, nextNum := 1 })
        ((s.scrubSlices v).dropTlb v none).pcmdDone 0
      | r => s.pcmdDone r)
/-- DISSOLVE, R414: check 1, then everything is scrubbed, the DRAM behind the partition's links too, and freed. -/
def execDissolve (v : Nat) (s : State) : Host.Outcome State Fault Refusal :=
  .next (if !s.pcmdIs v 2 then s
    else if !s.isVf v || !(s.liveLaunches v).isEmpty then s.pcmdDone 1
    else
      let s := (s.part v).clusters.foldl (fun s c => s.scrubCluster c) s
      let s := (((s.endSessions v).scrubSlices v).scrubLinks v).dropTlb v none
      (s.onVf v (fun f => { f with part := none })).pcmdDone 0)

/-! ### Attestation and keys, R419-R421 -/

/-- GET_VERSION, R419. -/
def execGetVersion (v : Nat) (s : State) : Host.Outcome State Fault Refusal := .next (s.spdm v id)
/-- GET_CAPABILITIES, R419. -/
def execGetCapabilities (v : Nat) (s : State) : Host.Outcome State Fault Refusal := .next (s.spdm v id)
/-- NEGOTIATE_ALGORITHMS, R419. -/
def execNegotiateAlgorithms (v : Nat) (s : State) : Host.Outcome State Fault Refusal := .next (s.spdm v id)
/-- GET_DIGESTS, R419. -/
def execGetDigests (v : Nat) (s : State) : Host.Outcome State Fault Refusal := .next (s.spdm v id)
/-- GET_CERTIFICATE, R419. -/
def execGetCertificate (v : Nat) (s : State) : Host.Outcome State Fault Refusal := .next (s.spdm v id)
/-- CHALLENGE, R419. -/
def execChallenge (v : Nat) (s : State) : Host.Outcome State Fault Refusal := .next (s.spdm v id)
/-- GET_MEASUREMENTS, R420. -/
def execGetMeasurements (v : Nat) (s : State) : Host.Outcome State Fault Refusal := .next (s.spdmWith v (s.measureHead v) id)
/-- KEY_EXCHANGE, R419: at most four sessions, a fifth is answered Busy; the identifier is the responder's. -/
def execKeyExchange (v : Nat) (s : State) : Host.Outcome State Fault Refusal :=
  .next (if 4 ≤ (s.vf v).sessions.length then s.spdmBusy v
    else s.spdm v (fun s =>
    if (s.vf v).part.isNone then s
    else
      let (k, s) := s.takeFree
      let id := (Config.freeWord k).toNat % 2 ^ 32
      let s := s.onVf v (fun f => { f with sessions := f.sessions ++ [{ id := id }] })
      s.pfEvent 4 v (BitVec.ofNat 64 id) 0#64))
/-- FINISH, R419: `session` is the place of the session in the partition's list. -/
def execFinish (v session : Nat) (s : State) : Host.Outcome State Fault Refusal :=
  .next (s.spdm v (fun s => s.onVf v (fun f => { f with sessions := f.sessions.mapIdx (fun i x =>
    if i == session then { x with finished := true } else x) })))
/-- END_SESSION, R419. -/
def execEndSession (v session : Nat) (s : State) : Host.Outcome State Fault Refusal :=
  .next (s.spdm v (fun s =>
    match (s.vf v).sessions[session]? with
    | none => s
    | some x =>
      let s := s.onVf v (fun f => { f with sessions := f.sessions.eraseIdx session })
      s.pfEvent 4 v (BitVec.ofNat 64 x.id) 0#64))
/-- Whether a place of the session list holds an established session. -/
def State.bound (s : State) (v session : Nat) : Bool :=
  match (s.vf v).sessions[session]? with
  | some x => x.finished
  | none => false
/-- Note how a key slot request ended. -/
def State.keyAnswered (s : State) (v : Nat) (a : KeyStatus) : State := s.onVf v (fun f => { f with keyAnswer := some a })
/-- KEY_SLOT_LOAD, R421: slots 1-15 alone are reached. -/
def execKeySlotLoad (v session slot : Nat) (key : BitVec 256) (model : BitVec 64) (s : State) :
    Host.Outcome State Fault Refusal :=
  .next (s.spdm v (fun s =>
    if slot == 0 || 15 < slot then s
    else if !s.bound v session then s.keyAnswered v .unbound
    else if (Map.get? (s.vf v).keys slot).isSome then s.keyAnswered v .occupied
    else (s.onVf v (fun f => { f with keys := Map.set f.keys slot (key, model) })).keyAnswered v .done))
/-- KEY_SLOT_CLEAR, R421. -/
def execKeySlotClear (v session slot : Nat) (s : State) : Host.Outcome State Fault Refusal :=
  .next (s.spdm v (fun s =>
    if slot == 0 || 15 < slot then s
    else if !s.bound v session then s.keyAnswered v .unbound
    else if !(s.liveLaunches v).isEmpty then s.keyAnswered v .inUse
    else (s.onVf v (fun f => { f with keys := Map.del f.keys slot })).keyAnswered v .done))

/-! ### Memory through BAR2, R410, R416 -/

/-- HOST_READ, R410: a refused one is completed as Completer Abort and logged; performed at the home; a pin of the line is lifted first (06 R132). Log entry 92 (DEDUCED). -/
def execHostRead (v : Nat) (addr : BitVec 64) (n : Nat) (s : State) : Host.Outcome State Fault Refusal :=
  .next (if !s.inBar2 v addr n then s
    else
      match s.hostXlate v { rd := true } addr n with
      | (.error _, s) => (s.logged v addr.toNat).hostGets .abort
      | (.ok gs, s) =>
        match s.hostTrack .read (trackedLocs gs) (s.trackingLaunches v) with
        | (false, s) => (s.logged v addr.toNat).hostGets .abort
        | (true, s) =>
          let locs := segLocs gs
          let (bs, s) := (s.atHome v locs).hostBytes v locs
          s.hostGets (.data bs))
/-- HOST_WRITE, R410: a refused posted write is discarded and logged; each line's is performed at its home. -/
def execHostWrite (v : Nat) (addr : BitVec 64) (bytes : List (BitVec 8)) (s : State) : Host.Outcome State Fault Refusal :=
  .next (if !s.inBar2 v addr bytes.length then s
    else
      match s.hostXlate v { w := true } addr bytes.length with
      | (.error _, s) => s.logged v addr.toNat
      | (.ok gs, s) =>
        match s.hostTrack .write (trackedLocs gs) (s.trackingLaunches v) with
        | (false, s) => s.logged v addr.toNat
        | (true, s) =>
          let cells := segCells gs bytes
          (s.atHome v (cells.map (·.1))).writeHome v cells)
/-- What a host AtomicOp writes. -/
def hostAtomicNew (op : HostAtomic) (w old x cmp : Nat) : Nat :=
  match op with
  | .fetchAdd => (old + x) % 2 ^ w
  | .swap => x % 2 ^ w
  | .cas => if old == cmp % 2 ^ w then x % 2 ^ w else old
  | .atBar0 => old
/-- HOST_ATOMICOP, R407, R416, R140: one at the BAR0 of a VF or of the PF (v = 0), or of another width than 32 and 64 bits, is completed as Unsupported Request; a
misaligned one is malformed and has no completion. What has been written of the word is performed at its home first; update-only
copies of a page that is not SYSATOM are not recalled. Log entry 108 (PRESUMED). -/
def execHostAtomicop (v : Nat) (addr : BitVec 64) (op : HostAtomic) (w : Nat) (x cmp : BitVec 64) (s : State) :
    Host.Outcome State Fault Refusal :=
  let n := w / 8
  .next (if op == .atBar0 then (if s.isVf v || v == 0 then s.hostGets .unsupported else s)
    else if !s.inBar2 v addr n then s
    else if w != 32 && w != 64 then s.hostGets .unsupported
    else if addr.toNat % n != 0 then s
    else
      match s.hostXlate v { rd := true, w := true } addr n with
      | (.error _, s) => (s.logged v addr.toNat).hostGets .abort
      | (.ok gs, s) =>
        match s.hostTrack .both (trackedLocs gs) (s.trackingLaunches v) with
        | (false, s) => (s.logged v addr.toNat).hostGets .abort
        | (true, s) =>
          let locs := segLocs gs
          let lines := (locs.map (· / 512)).dedup
          let s := (if gs.all (fun g => g.at_.sysatom) then s.atHome v locs else s.liftPins lines).settleHomes v lines
          let (old, s) := s.hostBytes v locs
          let new := leBytes n (hostAtomicNew op w (leNat old) x.toNat cmp.toNat)
          (s.writeHome v (locs.zip new)).hostGets (.data old))

/-! ### Register writes -/

/-- TBASE_WRITE, 24 R428. -/
def execTbaseWrite (v : Nat) (x : BitVec 64) (s : State) : Host.Outcome State Fault Refusal := .next (s.traceWrite v 0x00 x)
/-- TSIZE_WRITE, 24 R428. -/
def execTsizeWrite (v : Nat) (x : BitVec 64) (s : State) : Host.Outcome State Fault Refusal := .next (s.traceWrite v 0x08 x)
/-- TWIDX_WRITE, 24 R428. -/
def execTwidxWrite (v : Nat) (x : BitVec 64) (s : State) : Host.Outcome State Fault Refusal := .next (s.traceWrite v 0x10 x)
/-- TRIDX_WRITE, 24 R428. -/
def execTridxWrite (v : Nat) (x : BitVec 64) (s : State) : Host.Outcome State Fault Refusal := .next (s.traceWrite v 0x18 x)
/-- TRACE_CONTROL_WRITE, 24 R428. -/
def execTraceControlWrite (v : Nat) (x : BitVec 64) (s : State) : Host.Outcome State Fault Refusal := .next (s.traceWrite v 0x20 x)

/-- One slot's part of a write into the launch window, 22 R390: bytes are held; a write of all of 0x38-0x3F commits, one of a
part of them is discarded and logged. Log entry 73 (DEDUCED). -/
def State.slotWrite (s : State) (v k at_ : Nat) (bs : List Byte) (relaxed : Bool) : State :=
  let top := at_ + bs.length
  if bs.isEmpty then s
  else if s.slotBusy v k || (0x38 < top && (top < 0x40 || 0x38 < at_)) then
    (s.noteRelaxed v k relaxed).logged v (slotOffset k + at_)
  else
    let s := (s.noteRelaxed v k relaxed).onVf v (fun f => { f with
      slots := Map.set f.slots k (putBytes (padTo 64 (Map.get [] f.slots k)) at_ bs) })
    if top == 0x40 then
      match execLaunchCommit v k (field64 (Map.get [] (s.vf v).slots k) 0x38) relaxed s with
      | .next s => s
      | _ => s
    else s
/-- A write into the launch window, slot by slot. -/
def State.windowWrite (s : State) (v off : Nat) (bs : List Byte) (relaxed : Bool) : List Nat → State
  | [] => s
  | k :: ks =>
    let lo := 64 * k
    let a := max off lo
    let b := min (off + bs.length) (lo + 64)
    (s.slotWrite v k (a - lo) ((bs.drop (a - off)).take (b - a)) relaxed).windowWrite v off bs relaxed ks
/-- A write into one register of the mailbox, 23 R411. A SETROOT request goes to the PF (R412). -/
def State.mailboxWrite (s : State) (v off : Nat) (bs : List Byte) : State :=
  let busy := mbState (s.vf v) == 1
  if !busy && off + bs.length ≤ 0x100 then s.onVf v (fun f => { f with mreq := putBytes (padTo 256 f.mreq) off bs })
  else if !busy && off == 0x200 && bs.length == 8 then
    let w := BitVec.ofNat 64 (leNat bs)
    let s := s.onVf v (fun f => { f with mctl := (w &&& ~~~0xFFFF#64) ||| 1#64, passed := false })
    if s.asked v 1 && mbLen (s.vf v) == 8 then (s.tellPf v).onVf v (fun f => { f with passed := true }) else s
  else s.logged v (0x3000 + off)
/-- A write of the PF into its window of a VF's mailbox, 23 R412: bytes of its reply, and what it answers a request that is with it.
Log entry 105 (PRESUMED). -/
def State.pfWindow (s : State) (v off : Nat) (bs : List Byte) : State :=
  let f := s.vf v
  let w := BitVec.ofNat 64 (leNat bs)
  let with_ := f.passed && mbState f == 1
  if with_ && 0x100 ≤ off && off + bs.length ≤ 0x200 then
    s.onVf v (fun f => { f with reply := putBytes (padTo 256 f.reply) (off - 0x100) bs })
  else if with_ && off == 0x208 && bs.length == 8 then s.pfAnswer v (bits w 15 0) ((padTo 256 f.reply).take (bits w 47 32))
  else s.logged 0 (0x10000 + 0x1000 * v + off)
/-- The 64-bit register of the PF's BAR0 at an offset that is a multiple of 8, 23 R412, R413, R417, R423: its window shows a VF's
mailbox. -/
def State.pfRead (s : State) (off : Nat) : Word :=
  let h := s.hub
  if 0x800 ≤ off ∧ off < 0x900 then field64 (padTo 256 h.window) (off - 0x800)
  else if off == 0x900 then h.pcmd
  else if off == 0x908 then h.pres
  else if 0xA00 ≤ off ∧ off < 0xC00 then Map.get 0#64 h.grants (64 * h.pkg + (off - 0xA00) / 8)
  else if 0x4000 ≤ off ∧ off < 0x4800 then ((Map.get [] h.events ((off - 0x4000) / 32))[off % 32 / 8]?).getD 0#64
  else if off == 0x4800 then BitVec.ofNat 64 h.widx
  else if off == 0x4808 then BitVec.ofNat 64 h.ridx
  else if 0x11000 ≤ off ∧ off < 0x50000 ∧ off % 0x1000 < 0x210 then s.bar0Read (off / 0x1000 - 0x10) (0x3000 + off % 0x1000)
  else 0#64
/-- A write into the PF's registers, 23 R412, R413, R417, R423. -/
def State.pfWrite (s : State) (off : Nat) (bs : List Byte) : State :=
  let w := BitVec.ofNat 64 (leNat bs)
  if 0x800 ≤ off ∧ off + bs.length ≤ 0x900 then
    if s.hub.busy then s.logged 0 off else s.onHub (fun h => { h with window := putBytes (padTo 256 h.window) (off - 0x800) bs })
  else if off == 0x900 && bs.length == 8 then
    if s.hub.busy || bits w 63 10 != 0 || bits w 7 6 != 0 || bits w 9 8 == 0 || bits w 9 8 == 3 then s.logged 0 off
    else s.onHub (fun h => { h with pcmd := w })
  else if 0xA00 ≤ off ∧ off < 0xC00 ∧ bs.length = 8 ∧ off % 8 = 0 then
    s.onHub (fun h => { h with grants := Map.set h.grants (64 * h.pkg + (off - 0xA00) / 8) w })
  else if off == 0x4808 then
    s.onHub (fun h => { h with ridx := w.toNat % 64, unread := (h.widx + 64 - w.toNat % 64) % 64 })
  else if 0x11000 ≤ off ∧ off < 0x50000 then s.pfWindow (off / 0x1000 - 0x10) (off % 0x1000) bs
  else s.logged 0 off
/-- The offsets at which a write into a VF's BAR0 is cut: each part acts on its own, 23 R408, R411, 24 R428. -/
def bar0Cuts : List Nat :=
  [0x1000, 0x1200, 0x2000, 0x2008, 0x2010, 0x2018, 0x2020, 0x2028, 0x3000, 0x3100, 0x3200, 0x3208, 0x4000, 0x6000]
/-- A write that no cut divides; any other offset is discarded and logged. -/
def State.bar0Part (s : State) (v off : Nat) (bs : List Byte) (relaxed : Bool) : State :=
  let top := off + bs.length
  if 0x1000 ≤ off ∧ off < 0x1200 then
    s.windowWrite v (off - 0x1000) bs relaxed ((List.range 8).filter (fun k =>
      decide (off - 0x1000 < 64 * k + 64) && decide (64 * k < top - 0x1000)))
  else if 0x2000 ≤ off ∧ off < 0x2028 then
    let r := (off - 0x2000) / 8 * 8
    if (r == 0x10 || r == 0x18) && 4 ≤ off % 8 then s
    else s.traceWrite v r (BitVec.ofNat 64 (leNat (putBytes (leBytes 8 ((s.vf v).trace.reg r).toNat) (off % 8) bs)))
  else if 0x3000 ≤ off ∧ off < 0x3400 then s.mailboxWrite v (off - 0x3000) bs
  else if 0x4000 ≤ off ∧ off < 0x6000 then
    s.onVf v (fun f => { f with msix := (bs.zipIdx).foldl (fun m b => Map.set m (off - 0x4000 + b.2) b.1) f.msix })
  else s.logged v off
/-- A write into a VF's BAR0, cut at offsets. -/
def State.bar0Write (s : State) (v off : Nat) (bs : List Byte) (relaxed : Bool) : List Nat → State
  | [] => s.bar0Part v off bs relaxed
  | c :: cs =>
    if off < c ∧ c < off + bs.length then
      (s.bar0Part v off (bs.take (c - off)) relaxed).bar0Write v c (bs.drop (c - off)) relaxed cs
    else s.bar0Write v off bs relaxed cs
/-- BAR0_WRITE, 23 R408: the VF's registers, or the PF's where the VF is 0. -/
def execBar0Write (v off : Nat) (bytes : List (BitVec 8)) (relaxed : Bool) (s : State) : Host.Outcome State Fault Refusal :=
  .next (if v == 0 then s.pfWrite off bytes
    else if !s.isVf v then s
    else s.bar0Write v off bytes relaxed bar0Cuts)

/-- PF_FUNCTION_LEVEL_RESET, 23 R407: every VF is reset and so are the PF's registers. Log entry 63 (DEDUCED). -/
def execPfFunctionLevelReset (s : State) : Host.Outcome State Fault Refusal :=
  let s := ((List.range 63).map (· + 1)).foldl (fun s v => s.resetVf v) s
  .next (s.onHub (fun h => { h with window := [], pcmd := 0#64, pres := 0#64, grants := [], events := [], widx := 0, ridx := 0,
                                    unread := 0, lost := false }))

end Sys2Proof.Machine
end

