-- ==== Sys2Proof/Machine/DebugEvents.lean ====
section
/-! DEFINITION. The debugger (24 R425-R427, 08 R194) and the package: start-up, clock stretches and soft errors (25 R434-R440).
A step whose condition does not hold changes nothing. -/
namespace Sys2Proof.Machine

/-! ### The debugger -/

/-- DEBUGGER_ATTACH, 24 R425. -/
def execDebuggerAttach (s : State) : Host.Outcome State Fault Refusal := .next (s.onHub (fun h => { h with attached := true }))
/-- The contexts of a core that a stop reaches: those of launches with dstop, not pre-emption handlers (01 R31). -/
def State.toStop (s : State) (g : Nat) : List Nat :=
  (s.tasks.filter (fun p => p.2.pl.life == .resident && p.2.pl.run != .out && p.2.pl.core == g && !p.2.pl.stopped && !p.2.tid.handler &&
    dstopOf (s.launch p.2.tid.launch).mode)).map (·.1)
/-- DEBUG_STOP, 24 R425. -/
def execDebugStop (g : Nat) (s : State) : Host.Outcome State Fault Refusal :=
  .next (if !s.hub.attached then s
    else (s.toStop g).foldl (fun s u => s.stopTask u) (s.onCore g (fun c => { c with stopped := true })))

/-- Whether a core has a stopped context. -/
def State.anyStopped (s : State) (g : Nat) : Bool :=
  s.tasks.any (fun p => p.2.pl.life == .resident && p.2.pl.core == g && p.2.pl.stopped)
/-- A core without stopped contexts dispatches and activates again. Log entry 65 (DEDUCED). -/
def State.resumeCore (s : State) (g : Nat) : State :=
  if (s.coreSt g).stopped && !s.anyStopped g then (s.onCore g (fun c => { c with stopped := false })).unhalt g else s
/-- Next of the acting task: P plus the length of the instruction there (03 R58); P itself where it cannot be fetched. -/
def State.nextPc (s : State) : Word :=
  match s.fetchWords s.pc 1 with
  | (.ok ws, _) => s.pc + BitVec.ofNat 64 (lenBytes ((ws.headD 0#32).extractLsb' 0 2))
  | _ => s.pc
/-- Where a resumed context goes on, 08 R194. Of an address that is no multiple of 4 bits [1:0] are cleared: log entry 112 (DESIGN
CHOICE). -/
def State.resumePc (s : State) (at_ : ResumeAt) : Word :=
  match at_ with
  | .same => s.pc
  | .next => s.nextPc
  | .addr v => clear2 v
/-- DEBUG_RESUME, 08 R194: a stopped context goes on, and with the last of them its core; where `u` is no task, it names a
stopped core without stopped contexts. An instruction that waited issues anew; a task that a pre-emption has moved out meanwhile goes on
when its launch resumes (01 R31). -/
def execDebugResume (u : Nat) (at_ : ResumeAt) (s : State) : Host.Outcome State Fault Refusal :=
  .next (match Map.get? s.tasks u with
    | none => s.resumeCore u
    | some t =>
      if !t.pl.stopped then s
      else
        let pc := ({ s with cur := u }).resumePc at_
        let s := s.updTask u (fun t => ((t.unreserve).onRf (fun f => { f with pc := pc })).onPl (fun p =>
          { p with stopped := false, run := if p.run == .out then .out else .ready, waitSeq := none }))
        (s.traceTask u 6 7 1#64).resumeCore t.pl.core)

/-- A run of the stack of a stopped task: a resident line, or memory. -/
def State.stackRead (s : State) (u : Nat) (va : Word) : Word × State :=
  let t := s.task u
  if t.rf.lines.any (fun p => p.1 == va.toNat / 128) && !t.pl.saved then (Map.get 0#64 t.rf.slots (va.toNat / 8), s)
  else
    match s.hubRead (s.agentOf u) va 8 with
    | (some bs, s) => (BitVec.ofNat 64 (leNat bs), s)
    | (none, s) => (0#64, s)
/-- Word at an offset of a task's image, 07 R153. -/
def State.imageRead (s : State) (u off : Nat) : Word × State :=
  let t := s.task u
  let fimg := t.sy.stkbase - 0x2000#64
  if 0x2000 ≤ off || t.pl.saved then s.stackRead u (fimg + BitVec.ofNat 64 off)
  else (imgWord (s.imageOfTask u) off, s)
/-- Change a word of a task's image; it takes effect at resume (24 R427). -/
def State.imageWrite (s : State) (u off : Nat) (v : Word) : State :=
  let t := s.task u
  let va := t.sy.stkbase - 0x2000#64 + BitVec.ofNat 64 off
  if t.pl.saved then (s.hubWrite (s.agentOf u) va (leBytes 8 v.toNat)).2
  else if 0x2000 ≤ off then
    if t.rf.lines.any (fun p => p.1 == va.toNat / 128) then
      s.updTask u (·.onRf (fun f => { f with slots := Map.set f.slots (va.toNat / 8) v, lines := dirtyLine f.lines (va.toNat / 128) }))
    else (s.hubWrite (s.agentOf u) va (leBytes 8 v.toNat)).2
  else
    let bs := putBytes (s.imageOfTask u) off (leBytes 8 v.toNat)
    s.updTask u (fun t => (t.ofImage bs).onIo (fun o =>
      { o with tiles := imgNat bs 0x1303 1, crecs := imgCopies bs t.io.crecs }))
/-- Write ordinary bytes at locations, as an agent that is no ordered task. -/
def State.debugPut (s : State) (vf g : Nat) (cells : List Host.Cell) : State := s.writeCells vf (dieOf g) 0 none cells
/-- Whether a task is a stopped or frozen one of a core. -/
def State.inspect (s : State) (g u : Nat) : Bool :=
  let t := s.task u
  (Map.get? s.tasks u).isSome && t.pl.core == g && (t.pl.stopped || t.pl.life != .resident || t.pl.run == .out)
/-- A debugger's read of memory, 24 R427: through the partition's translation, reading through a fused L1. -/
def State.debugRead (s : State) (vf cl : Nat) (va : Word) (n : Nat) : List Byte × State :=
  match s.xlate { engineAgent vf cl with queueArea := true } { rd := true } va n with
  | (.error _, s) => ([], s)
  | (.ok gs, s) =>
    let locs := segLocs gs
    let s := (s.atHome vf locs).tookReplica vf (cl / 10) locs
    (locs.map (s.engineViewed cl), s)
/-- Word k of a boundary event. -/
def Bound.word (b : Bound) : Nat → Word
  | 0 => b.time | 1 => b.pair.key | 2 => b.pair.lid | 3 => BitVec.ofNat 64 b.sgr | 4 => b.scount | 5 => BitVec.ofNat 64 b.leaf
  | _ => b.payload
def Bound.setWord (b : Bound) (v : Word) : Nat → Bound
  | 0 => { b with time := v } | 1 => { b with pair := { b.pair with key := v } } | 2 => { b with pair := { b.pair with lid := v } }
  | 3 => { b with sgr := v.toNat } | 4 => { b with scount := v } | 5 => { b with leaf := v.toNat } | _ => { b with payload := v }
/-- Word k of a log entry: its pair, what it is, and what it replaced; of an event also whether it made a handler and had a boundary
event, and that event's words. -/
def LogEnt.word (e : LogEnt) (k : Nat) : Word :=
  match k, e.what with
  | 0, _ => e.pair.key
  | 1, _ => e.pair.lid
  | 2, .event _ _ _ _ => 0#64 | 2, .leaf _ _ => 1#64 | 2, .sched _ => 2#64 | 2, .read => 3#64
  | 3, .event c _ _ _ => c | 4, .event _ n _ _ => n
  | 3, .leaf i _ => BitVec.ofNat 64 i | 4, .leaf _ w => w
  | 5, .event _ _ b h => (if h then 1#64 else 0#64) ||| (if b.isSome then 2#64 else 0#64)
  | k + 6, .event _ _ b _ => (b.getD {}).word k
  | k + 3, .sched b => b.word k
  | _, _ => 0#64
def LogEnt.setWord (e : LogEnt) (v : Word) (k : Nat) : LogEnt :=
  match k, e.what with
  | 0, _ => { e with pair := { e.pair with key := v } }
  | 1, _ => { e with pair := { e.pair with lid := v } }
  | 2, _ => { e with what := if v == 0#64 then .event 0#64 0#64 none false else if v == 1#64 then .leaf 0 0#64
                             else if v == 2#64 then .sched {} else .read }
  | 3, .event _ n b h => { e with what := .event v n b h }
  | 4, .event c _ b h => { e with what := .event c v b h }
  | 3, .leaf _ w => { e with what := .leaf v.toNat w }
  | 4, .leaf i _ => { e with what := .leaf i v }
  | 5, .event c n b _ => { e with what := .event c n (if v.getLsbD 1 then some (b.getD {}) else none) (v.getLsbD 0) }
  | k + 6, .event c n b h => { e with what := .event c n (b.map (·.setWord v k)) h }
  | k + 3, .sched b => { e with what := .sched (b.setWord v k) }
  | _, _ => e
/-- The first n of a list, filled up with a default. -/
def resize {α : Type} (d : α) (n : Nat) (l : List α) : List α := (l ++ List.replicate (n - l.length) d).take n
/-- A word of a region as the debugger reads it. The names and places are the model's. Log entry 109 (DESIGN CHOICE). -/
def Region.field (x : Region) : RegionField → Word
  | .clock => x.clock
  | .count => x.count
  | .committed => x.committed
  | .look => x.look
  | .flags => x.status &&& 7#64
  | .base => BitVec.ofNat 64 x.base
  | .leaves => BitVec.ofNat 64 x.leaves
  | .exponent => BitVec.ofInt 64 x.e
  | .kind => if x.ordered then 1#64 else 0#64
  | .draws => x.draws.setWidth 64
  | .table => BitVec.ofNat 64 x.table
  | .tableLength => BitVec.ofNat 64 x.tlen
  | .heldKey => (x.held.getD {}).key
  | .heldLid => (x.held.getD {}).lid
  | .queued => BitVec.ofNat 64 x.queue.length
  | .logged => BitVec.ofNat 64 x.log.length
  | .neighbour i => BitVec.ofNat 64 ((x.neigh[i]?).getD (2 ^ 32))
  | .handler i => (x.handlers[i]?).getD 0#64
  | .queue i k => ((x.queue[i]?).map (·.word k)).getD 0#64
  | .log i k => ((x.log[i]?).map (·.word k)).getD 0#64
/-- A region with a word that the debugger writes; a queue holds 64 entries and a log 512 (19 R354). -/
def Region.setField (x : Region) (v : Word) : RegionField → Region
  | .clock => { x with clock := v }
  | .count => { x with count := v }
  | .committed => { x with committed := v }
  | .look => { x with look := v }
  | .flags => { x with conservative := v.getLsbD 0, armed := v.getLsbD 1, held := if v.getLsbD 2 then x.held else none }
  | .base => { x with base := v.toNat }
  | .leaves => { x with leaves := v.toNat }
  | .exponent => { x with e := v.toInt }
  | .kind => { x with ordered := v.getLsbD 0 }
  | .draws => { x with draws := v.setWidth 2 }
  | .table => { x with table := v.toNat }
  | .tableLength => { x with tlen := v.toNat }
  | .heldKey => { x with held := some { x.held.getD {} with key := v } }
  | .heldLid => { x with held := some { x.held.getD {} with lid := v } }
  | .queued => { x with queue := resize {} (min 64 v.toNat) x.queue }
  | .logged => ({ x with log := resize {} (min 512 v.toNat) x.log }).remode
  | .neighbour i => { x with neigh := (resize (2 ^ 32) 8 x.neigh).set i v.toNat }
  | .handler i => { x with handlers := (resize 0#64 16 x.handlers).set i v }
  | .queue i k => { x with queue := x.queue.modify i (fun b => b.setWord v k) }
  | .log i k => { x with log := x.log.modify i (fun e => e.setWord v k) }

/-- One access of the debugger on a stopped core, 24 R427: untracked and unversioned; what is read goes to `hostOut`. -/
def State.debugDo (s : State) (g : Nat) (what : DebugAccess) : State :=
  let cl := clusterOf g
  let vf := (s.ownerOf cl).getD 0
  let give (w : Word) (s : State) : State := s.hostGets (.data (leBytes 8 w.toNat))
  match what with
  | .readMem va n =>
    let (bs, s) := s.debugRead vf cl va n
    s.hostGets (.data bs)
  | .writeMem va bs => (s.hubWrite { engineAgent vf cl with queueArea := true } va bs).2
  | .readClm off n => if off + n ≤ 2 ^ 21 then s.hostGets (.data (s.phys (clmBase cl + off) n)) else s
  | .writeClm off bs =>
    if off + bs.length ≤ 2 ^ 21 then s.debugPut vf g ((locRange (clmBase cl + off) bs.length).zip bs) else s
  | .readOpm k off n => if k < 512 ∧ off + n ≤ 8192 then s.hostGets (.data (s.phys (opmBase cl k + off) n)) else s
  | .writeOpm k off bs =>
    if k < 512 ∧ off + bs.length ≤ 8192 then s.putOpm ((locRange (opmBase cl k + off) bs.length).zip bs) else s
  | .readImage u off =>
    if s.inspect g u then
      let (w, s) := s.imageRead u off
      give w s
    else s
  | .writeImage u off v => if s.inspect g u then s.imageWrite u off v else s
  | .readLeaf i => if i < 32768 then give (Map.get 0#64 (s.cluster cl).leaves i) s else s
  | .writeLeaf i v => if i < 32768 then s.onCluster cl (fun c => { c with leaves := Map.set c.leaves i v }) else s
  | .readRegion r f =>
    match s.region cl r with
    | some x => give (x.field f) s
    | none => s
  | .writeRegion r f v => s.onRegion cl r (fun x => x.setField v f)
  | .readHandle u h => if s.inspect g u then give ((s.task u).hreg h) s else s
  | .writeHandle u h v => if s.inspect g u then s.setHandle u h v else s
  | .setBreak i entry tag lid stop =>
    if i < 8 then s.onCore g (fun c => { c with
      breaks := Map.set c.breaks i { entry := entry, tag := tag, lid := lid.map (·.setWidth 64), stop := stop } })
    else s
/-- Whether a debugger's access needs no stopped core: breakpoints are set at any time (24 R426). -/
def accessAnyTime : DebugAccess → Bool
  | .setBreak _ _ _ _ _ => true
  | _ => false
/-- DEBUG_ACCESS, 24 R426, R427. -/
def execDebugAccess (g : Nat) (what : DebugAccess) (s : State) : Host.Outcome State Fault Refusal :=
  .next (if s.hub.attached && (accessAnyTime what || (s.coreSt g).stopped) then s.debugDo g what else s)

/-! ### Start-up, 25 R434-R437 -/

/-- The word of a step in the start record, R435. -/
def StartRec.word (r : StartRec) : Word :=
  BitVec.ofNat 64 (r.starts.toNat * 2 ^ 32 + r.unit.toNat * 2 ^ 16 + r.form.toNat * 2 ^ 8 + r.result.toNat)
/-- The start record as words: the header, the maps of fenced dies, links and Zalond ports, and the step words. -/
def StartRecord.words (r : StartRecord) : List Word :=
  [r.header, r.dies, r.links, r.ports.setWidth 64] ++ r.steps.map StartRec.word

/-- Whether a step has an alternative form, R434. -/
def hasAlternative (step : Nat) : Bool := step == 4 || step == 5 || step == 6 || step == 7 || step == 8
/-- Whether a step is the package's: it has one unit, and its failing keeps the package from starting (R434). -/
def packageStep (step : Nat) : Bool := step == 1 || step == 2 || step == 7 || step == 9
/-- How many units a step has: dies and their links, ports, and 128 edges, since each of 64 dies has fabric to four neighbours (R434,
R435, 01 R10). Log entry 64 (DEDUCED). -/
def stepUnits (step : Nat) : Nat := if packageStep step then 1 else if step == 8 then 16 else if step == 6 then 128 else 64
/-- The word of a step and unit: one that the record does not list reads as zeros beside its unit number, R435. -/
def startWord (rs : List StartRec) (step unit : Nat) : StartRec :=
  (rs.find? (fun r => r.step == step && r.unit == BitVec.ofNat 16 unit)).getD { step := step, unit := BitVec.ofNat 16 unit }
/-- The form in which a step is taken after its last record, R436: a unit is skipped once the last of its forms has failed; a step of
the package is taken again. -/
def StartRec.nextForm (r : StartRec) : BitVec 2 :=
  if r.form == 2#2 then 2#2
  else if r.result == 0#8 then r.form
  else if r.form == 0#2 && hasAlternative r.step then 1#2
  else if packageStep r.step then r.form
  else 2#2
/-- Take one step of a unit: its new word. A skipped unit keeps its last result. -/
def StartRec.taken (r : StartRec) (o : StartOutcome) : StartRec :=
  let form := r.nextForm
  { r with
    form := form
    starts := if r.form != form then 1#16 else if r.starts == 0xFFFF#16 then r.starts else r.starts + 1#16
    result := if form == 2#2 then r.result else match o with | .pass => 0#8 | .fail => 1#8 | .timeout => 2#8 }
/-- Whether a step of the package so taken keeps the package from starting: its last form has failed (R434). -/
def StartRec.stops (r : StartRec) : Bool := packageStep r.step && r.result != 0#8 && (r.form == 1#2 || !hasAlternative r.step)
/-- How a step of a unit ended: the first result that names it. -/
def outcomeOf (xs : List StepResult) (step unit : Nat) : Option StartOutcome :=
  (xs.find? (fun x => x.step == step && x.unit == unit)).map (·.outcome)
/-- The words of a step's units after it is taken: a unit without a result passes. -/
def takeStep (xs : List StepResult) (rs : List StartRec) (step : Nat) : List StartRec :=
  (List.range (stepUnits step)).map (fun u => (startWord rs step u).taken ((outcomeOf xs step u).getD .pass))
/-- Run the steps of a list in order, each when the one before has ended, until one stops the package (R434): their words, and whether
the package goes on. A step of the package that ends in no result stops it. Log entry 64 (DEDUCED). -/
def startSteps (xs : List StepResult) (rs : List StartRec) : List Nat → List StartRec × Bool
  | [] => ([], true)
  | k :: ks =>
    let ws := takeStep xs rs k
    if packageStep k && (outcomeOf xs k 0).isNone then (rs.filter (fun r => (k :: ks).contains r.step), false)
    else if ws.any (·.stops) then (ws ++ rs.filter (fun r => ks.contains r.step), false)
    else
      let (more, on) := startSteps xs rs ks
      (ws ++ more, on)
/-- The units of steps that are fenced now: skipped, or failed in this start. -/
def fencedUnits (rs : List StartRec) (steps : List Nat) : List Nat :=
  ((rs.filter (fun r => steps.contains r.step && (r.form == 2#2 || r.result != 0#8))).map (·.unit.toNat)).dedup
/-- A map of units. -/
def unitMap (n : Nat) (us : List Nat) : BitVec n := BitVec.ofNat n ((us.map (2 ^ ·)).sum)
/-- The record as a start leaves it, R435, R436; what its header word holds is open. -/
def newRecord (header : Word) (rs : List StartRec) : StartRecord :=
  { header := header, dies := unitMap 64 (fencedUnits rs [3]), links := unitMap 64 (fencedUnits rs [4, 5]),
    ports := unitMap 16 (fencedUnits rs [8]), steps := rs }
/-- START_SEQUENCE, R434-R437: everything but the start record, what is installed, host memory and device time is as at reset. Log entry 64 (DEDUCED). -/
def execStartSequence (results : List StepResult) (s : State) : Host.Outcome State Fault Refusal :=
  let (rs, on) := startSteps results s.hub.record.steps [1, 2, 3, 4, 5, 6, 7, 8, 9]
  let (k, s) := s.takeFree
  .next { State.reset with
    agenda := s.agenda, turn := s.turn, freeCtr := s.freeCtr, dtime := s.dtime, mem := s.mem.filter (fun c => isHost c.1),
    ms := { State.reset.ms with linkCap := s.ms.linkCap },
    hub := { State.reset.hub with
      pkg := s.hub.pkg, record := newRecord (Config.freeWord k) rs, halted := !on, fenced := fencedUnits rs [3],
      fencedLinks := fencedUnits rs [4, 5], fencedPorts := fencedUnits rs [8] } }
/-- CLEARSTART, R436: accepted when no partition exists; it clears the record, and units come back at the next start. -/
def execClearstart (s : State) : Host.Outcome State Fault Refusal :=
  .next (if s.vfs.any (fun f => f.2.part.isSome) then s else s.onHub (fun h => { h with record := {} }))

/-! ### Power and soft errors, 25 R439, R440 -/

/-- DROOP_STRETCH, R439: a stretch changes no count in cycles and no result. -/
def execDroopStretch (cl : Nat) (s : State) : Host.Outcome State Fault Refusal :=
  .next (s.onCluster cl (fun c => { c with droop := true }))
/-- STRETCH_RELEASE, R439. -/
def execStretchRelease (cl : Nat) (s : State) : Host.Outcome State Fault Refusal :=
  .next (s.onCluster cl (fun c => { c with droop := false }))
/-- POWER_LIMIT_STRETCH, R439. -/
def execPowerLimitStretch (s : State) : Host.Outcome State Fault Refusal :=
  .next (s.onHub (fun h => { h with powerStretch := true }))
/-- POWER_LIMIT_RELEASE, R439. -/
def execPowerLimitRelease (s : State) : Host.Outcome State Fault Refusal :=
  .next (s.onHub (fun h => { h with powerStretch := false }))
/-- The unit code of R440. -/
def eccCode : EccUnit → Nat
  | .l1 => 1 | .l2 => 2 | .clm => 3 | .operand => 4 | .regCache => 5 | .icache => 6 | .garnet => 7 | .tables => 8 | .dram => 9
/-- SOFT_ERROR, R440. -/
def execSoftError (what : SoftError) (s : State) : Host.Outcome State Fault Refusal :=
  .next (match what with
    | .corrected v => s.onVf v (fun f => { f with corrected := f.corrected + 1 })
    | .poison unit loc =>
      s.onMs (fun m => { m with poison := (loc / 4, eccCode unit) :: m.poison.filter (fun p => p.1 != loc / 4) })
    | .poisonSlot u slot => s.updTask u (·.onRf (fun f => { f with bad := slot :: f.bad.filter (· != slot) }))
    | .poisonCached g loc =>
      if (Map.get? (Map.get [] s.ms.icache g) loc).isNone then s else s.onMs (fun m => { m with ibad := (g, loc) :: m.ibad.filter (fun p => p != (g, loc)) })
    | .poisonEngine cl w => s.onCluster cl (fun c => { c with bad := w :: c.bad.filter (· != w) }))

end Sys2Proof.Machine
end

