-- ==== Sys2Proof/Machine/ScalarFp.lean ====
section
/-! DEFINITION. Floating-point instructions of the scalar engine (08 R177-R181), over the operations of Float. -/
namespace Sys2Proof.Machine

/-- The sign bit of an encoding. -/
def signOf (w : Bool) (x : Nat) : Bool := x.testBit (fpWidth (fmtOf w) - 1)
/-- The magnitude bits of an encoding under a sign. -/
def withSign (w : Bool) (x : Nat) (neg : Bool) : Nat := fpSigned (fmtOf w) neg (x % 2 ^ (fpWidth (fmtOf w) - 1))
/-- Write an integer conversion: the low 64 bits of its two's complement, with its flags. -/
def State.finteger (s : State) (d : BitVec 5) (r : Int × BitVec 5) : State := s.wresult d (BitVec.ofInt 64 r.1) r.2 4

/-- FADD, 08 R177. -/
def execFadd (rm : BitVec 2) (w : Bool) (d a b : BitVec 5) (s : State) : Host.Outcome State Fault Refusal :=
  .next (s.fresult d (fpAdd rm (fmtOf w) (s.fsrc w a) (s.fsrc w b)) 4)

/-- FSUB, 08 R177. -/
def execFsub (rm : BitVec 2) (w : Bool) (d a b : BitVec 5) (s : State) : Host.Outcome State Fault Refusal :=
  .next (s.fresult d (fpSub rm (fmtOf w) (s.fsrc w a) (s.fsrc w b)) 4)

/-- FMUL, 08 R177. -/
def execFmul (rm : BitVec 2) (w : Bool) (d a b : BitVec 5) (s : State) : Host.Outcome State Fault Refusal :=
  .next (s.fresult d (fpMul rm (fmtOf w) (s.fsrc w a) (s.fsrc w b)) 4)

/-- FDIV, 08 R177. -/
def execFdiv (rm : BitVec 2) (w : Bool) (d a b : BitVec 5) (s : State) : Host.Outcome State Fault Refusal :=
  .next (s.fresult d (fpDiv rm (fmtOf w) (s.fsrc w a) (s.fsrc w b)) 4)

/-- FSQRT, 08 R177. -/
def execFsqrt (rm : BitVec 2) (w : Bool) (d a : BitVec 5) (s : State) : Host.Outcome State Fault Refusal :=
  .next (s.fresult d (fpSqrt rm (fmtOf w) (s.fsrc w a)) 4)

/-- FMIN, 08 R177. -/
def execFmin (w : Bool) (d a b : BitVec 5) (s : State) : Host.Outcome State Fault Refusal :=
  .next (s.fresult d (fpMinMax false (fmtOf w) (s.fsrc w a) (s.fsrc w b)) 4)

/-- FMAX, 08 R177. -/
def execFmax (w : Bool) (d a b : BitVec 5) (s : State) : Host.Outcome State Fault Refusal :=
  .next (s.fresult d (fpMinMax true (fmtOf w) (s.fsrc w a) (s.fsrc w b)) 4)

/-- FSGNJ, 08 R177. -/
def execFsgnj (w : Bool) (d a b : BitVec 5) (s : State) : Host.Outcome State Fault Refusal :=
  .next (s.fresult d (withSign w (s.fsrc w a) (signOf w (s.fsrc w b)), 0#5) 4)

/-- FSGNJN, 08 R177. -/
def execFsgnjn (w : Bool) (d a b : BitVec 5) (s : State) : Host.Outcome State Fault Refusal :=
  .next (s.fresult d (withSign w (s.fsrc w a) (!signOf w (s.fsrc w b)), 0#5) 4)

/-- FFMA, 08 R178. -/
def execFfma (rm : BitVec 2) (w : Bool) (d a b c : BitVec 5) (s : State) : Host.Outcome State Fault Refusal :=
  .next (s.fresult d (fpFma rm (fmtOf w) false false (s.fsrc w a) (s.fsrc w b) (s.fsrc w c)) 12)

/-- FFMS, 08 R178. -/
def execFfms (rm : BitVec 2) (w : Bool) (d a b c : BitVec 5) (s : State) : Host.Outcome State Fault Refusal :=
  .next (s.fresult d (fpFma rm (fmtOf w) false true (s.fsrc w a) (s.fsrc w b) (s.fsrc w c)) 12)

/-- FFNMA, 08 R178. -/
def execFfnma (rm : BitVec 2) (w : Bool) (d a b c : BitVec 5) (s : State) : Host.Outcome State Fault Refusal :=
  .next (s.fresult d (fpFma rm (fmtOf w) true false (s.fsrc w a) (s.fsrc w b) (s.fsrc w c)) 12)

/-- FCVT, 08 R179. -/
def execFcvt (rm : BitVec 2) (w : Bool) (d a : BitVec 5) (s : State) : Host.Outcome State Fault Refusal :=
  .next (s.fresult d (fpConv rm (fmtOf (!w)) (fmtOf w) (s.fsrc (!w) a)) 4)

/-- FTOI, 08 R179. -/
def execFtoi (rm : BitVec 2) (w : Bool) (d a : BitVec 5) (s : State) : Host.Outcome State Fault Refusal :=
  .next (s.finteger d (fpToInt rm (-(2 ^ 63)) (2 ^ 63 - 1) (fpDecode (fmtOf w) (s.fsrc w a))))

/-- FTOIW, 08 R179. -/
def execFtoiw (rm : BitVec 2) (w : Bool) (d a : BitVec 5) (s : State) : Host.Outcome State Fault Refusal :=
  .next (s.finteger d (fpToInt rm (-(2 ^ 31)) (2 ^ 31 - 1) (fpDecode (fmtOf w) (s.fsrc w a))))

/-- FTON, 08 R179. -/
def execFton (rm : BitVec 2) (w : Bool) (d a : BitVec 5) (s : State) : Host.Outcome State Fault Refusal :=
  .next (s.finteger d (fpToInt rm (0) (2 ^ 64 - 1) (fpDecode (fmtOf w) (s.fsrc w a))))

/-- FTONW, 08 R179. -/
def execFtonw (rm : BitVec 2) (w : Bool) (d a : BitVec 5) (s : State) : Host.Outcome State Fault Refusal :=
  .next (s.finteger d (fpToInt rm (0) (2 ^ 32 - 1) (fpDecode (fmtOf w) (s.fsrc w a))))

/-- ITOF, 08 R179. -/
def execItof (rm : BitVec 2) (w : Bool) (d a : BitVec 5) (s : State) : Host.Outcome State Fault Refusal :=
  .next (s.fresult d (fpOfInt rm (fmtOf w) (s.x a).toInt) 4)

/-- NTOF, 08 R179. -/
def execNtof (rm : BitVec 2) (w : Bool) (d a : BitVec 5) (s : State) : Host.Outcome State Fault Refusal :=
  .next (s.fresult d (fpOfInt rm (fmtOf w) (s.x a).toNat) 4)

/-- FROUND, 08 R179. -/
def execFround (rm : BitVec 2) (w : Bool) (d a : BitVec 5) (s : State) : Host.Outcome State Fault Refusal :=
  .next (s.fresult d (fpIntegral rm (fmtOf w) (s.fsrc w a)) 4)

/-- FCLASS, 08 R180. -/
def execFclass (w : Bool) (d a : BitVec 5) (s : State) : Host.Outcome State Fault Refusal :=
  .next (s.result d (1#64 <<< fpClass (fmtOf w) (s.fsrc w a)) 4)

/-- FEQ, 08 R181. -/
def execFeq (w : Bool) (d a b : BitVec 5) (s : State) : Host.Outcome State Fault Refusal :=
  .next (s.frelation d (fpEq (fmtOf w) (s.fsrc w a) (s.fsrc w b)) 4)

/-- FLT, 08 R181. -/
def execFlt (w : Bool) (d a b : BitVec 5) (s : State) : Host.Outcome State Fault Refusal :=
  .next (s.frelation d (fpLt (fmtOf w) (s.fsrc w a) (s.fsrc w b)) 4)

/-- FLE, 08 R181. -/
def execFle (w : Bool) (d a b : BitVec 5) (s : State) : Host.Outcome State Fault Refusal :=
  .next (s.frelation d (fpLe (fmtOf w) (s.fsrc w a) (s.fsrc w b)) 4)

/-- FUNORD, 08 R181. -/
def execFunord (w : Bool) (d a b : BitVec 5) (s : State) : Host.Outcome State Fault Refusal :=
  .next (s.frelation d (fpUnord (fmtOf w) (s.fsrc w a) (s.fsrc w b)) 4)

end Sys2Proof.Machine
end

