-- ==== Sys2Proof/Machine/ScalarInt.lean ====
section
/-! DEFINITION. Integer instructions of the scalar engine: register and immediate ALU, multiply and divide, bit
operations, compare and select (08 R171-R176). -/
namespace Sys2Proof.Machine

/-- SignExt(v[31:0], 32). -/
def low32 (v : Word) : Word := (v.setWidth 32).signExtend 64

/-- Quotients and remainders of R174 for a divisor that is not 0: signed of a width, and unsigned. -/
def sdiv (w : Nat) (x y : Word) : Word :=
  if y.toInt = -1 ∧ x.toInt = -(2 ^ (w - 1) : Int) then x else BitVec.ofInt 64 (x.toInt.tdiv y.toInt)
def srem (w : Nat) (x y : Word) : Word :=
  if y.toInt = -1 ∧ x.toInt = -(2 ^ (w - 1) : Int) then 0#64 else BitVec.ofInt 64 (x.toInt.tmod y.toInt)
def udiv (x y : Word) : Word := BitVec.ofNat 64 (x.toNat / y.toNat)
def urem (x y : Word) : Word := BitVec.ofNat 64 (x.toNat % y.toNat)

/-- The quotient or remainder of a division by 0, R174, as `sdiv`-like functions give the others. -/
def State.divide (s : State) (d : BitVec 5) (x y : Word) (f : Word → Word → Word) (zero : Word) : State :=
  if y = 0#64 then
    if s.me.sy.dz then s.trap cDIVZ x else s.result d zero 4
  else s.result d (f x y) 4

/-- Leading zeros among the low n bits. -/
def leadingZeros (v : Word) : Nat → Nat
  | 0 => 0
  | n + 1 => if v.getLsbD n then 0 else leadingZeros v n + 1
/-- Trailing zeros of the n bits from bit 64 - n on. -/
def trailingZeros (v : Word) : Nat → Nat
  | 0 => 0
  | n + 1 => if v.getLsbD (63 - n) then 0 else trailingZeros v n + 1
/-- One bits among the low n. -/
def onesBelow (v : Word) : Nat → Nat
  | 0 => 0
  | n + 1 => onesBelow v n + (if v.getLsbD n then 1 else 0)
/-- bext over the low n positions, R175. -/
def bitsPack (v m : Word) : Nat → Word
  | 0 => 0#64
  | n + 1 => if m.getLsbD n && v.getLsbD n then bitsPack v m n ||| (1#64 <<< onesBelow m n) else bitsPack v m n
/-- bdep over the low n positions, R175. -/
def bitsDeposit (v m : Word) : Nat → Word
  | 0 => 0#64
  | n + 1 => if m.getLsbD n && v.getLsbD (onesBelow m n) then bitsDeposit v m n ||| (1#64 <<< n) else bitsDeposit v m n

/-- ADD, 08 R171. -/
def execAdd (d a b : BitVec 5) (s : State) : Host.Outcome State Fault Refusal :=
  .next (s.result d (s.x a + s.x b) 4)

/-- SUB, 08 R171. -/
def execSub (d a b : BitVec 5) (s : State) : Host.Outcome State Fault Refusal :=
  .next (s.result d (s.x a - s.x b) 4)

/-- AND, 08 R171. -/
def execAnd (d a b : BitVec 5) (s : State) : Host.Outcome State Fault Refusal :=
  .next (s.result d (s.x a &&& s.x b) 4)

/-- OR, 08 R171. -/
def execOr (d a b : BitVec 5) (s : State) : Host.Outcome State Fault Refusal :=
  .next (s.result d (s.x a ||| s.x b) 4)

/-- XOR, 08 R171. -/
def execXor (d a b : BitVec 5) (s : State) : Host.Outcome State Fault Refusal :=
  .next (s.result d (s.x a ^^^ s.x b) 4)

/-- ANDN, 08 R171. -/
def execAndn (d a b : BitVec 5) (s : State) : Host.Outcome State Fault Refusal :=
  .next (s.result d (s.x a &&& ~~~(s.x b)) 4)

/-- SLL, 08 R171. -/
def execSll (d a b : BitVec 5) (s : State) : Host.Outcome State Fault Refusal :=
  .next (s.result d (s.x a <<< ((s.x b).toNat % 64)) 4)

/-- SRL, 08 R171. -/
def execSrl (d a b : BitVec 5) (s : State) : Host.Outcome State Fault Refusal :=
  .next (s.result d (s.x a >>> ((s.x b).toNat % 64)) 4)

/-- SRA, 08 R171. -/
def execSra (d a b : BitVec 5) (s : State) : Host.Outcome State Fault Refusal :=
  .next (s.result d ((s.x a).sshiftRight ((s.x b).toNat % 64)) 4)

/-- ADDW, 08 R171. -/
def execAddw (d a b : BitVec 5) (s : State) : Host.Outcome State Fault Refusal :=
  .next (s.result d (low32 (s.x a + s.x b)) 4)

/-- SUBW, 08 R171. -/
def execSubw (d a b : BitVec 5) (s : State) : Host.Outcome State Fault Refusal :=
  .next (s.result d (low32 (s.x a - s.x b)) 4)

/-- MIN, 08 R171. -/
def execMin (d a b : BitVec 5) (s : State) : Host.Outcome State Fault Refusal :=
  .next (s.result d (if (s.x a).slt (s.x b) then s.x a else s.x b) 4)

/-- MAX, 08 R171. -/
def execMax (d a b : BitVec 5) (s : State) : Host.Outcome State Fault Refusal :=
  .next (s.result d (if (s.x a).slt (s.x b) then s.x b else s.x a) 4)

/-- MINN, 08 R171. -/
def execMinn (d a b : BitVec 5) (s : State) : Host.Outcome State Fault Refusal :=
  .next (s.result d (if (s.x a).ult (s.x b) then s.x a else s.x b) 4)

/-- MAXN, 08 R171. -/
def execMaxn (d a b : BitVec 5) (s : State) : Host.Outcome State Fault Refusal :=
  .next (s.result d (if (s.x a).ult (s.x b) then s.x b else s.x a) 4)

/-- ADDI, 08 R172. -/
def execAddi (d a : BitVec 5) (imm : BitVec 14) (s : State) : Host.Outcome State Fault Refusal :=
  .next (s.result d (s.x a + imm.signExtend 64) 4)

/-- ADDILIT, 08 R172. -/
def execAddiLit (d a : BitVec 5) (lit : BitVec 64) (s : State) : Host.Outcome State Fault Refusal :=
  .next (s.result d (s.x a + lit) 12)

/-- ANDI, 08 R172. -/
def execAndi (d a : BitVec 5) (src : Src) (s : State) : Host.Outcome State Fault Refusal :=
  .next (s.result d (s.x a &&& src.sext) src.size)

/-- ORI, 08 R172. -/
def execOri (d a : BitVec 5) (src : Src) (s : State) : Host.Outcome State Fault Refusal :=
  .next (s.result d (s.x a ||| src.sext) src.size)

/-- XORI, 08 R172. -/
def execXori (d a : BitVec 5) (src : Src) (s : State) : Host.Outcome State Fault Refusal :=
  .next (s.result d (s.x a ^^^ src.sext) src.size)

/-- SLLI, 08 R172. -/
def execSlli (d a : BitVec 5) (n : BitVec 6) (s : State) : Host.Outcome State Fault Refusal :=
  .next (s.result d (s.x a <<< n.toNat) 12)

/-- SRLI, 08 R172. -/
def execSrli (d a : BitVec 5) (n : BitVec 6) (s : State) : Host.Outcome State Fault Refusal :=
  .next (s.result d (s.x a >>> n.toNat) 12)

/-- SRAI, 08 R172. -/
def execSrai (d a : BitVec 5) (n : BitVec 6) (s : State) : Host.Outcome State Fault Refusal :=
  .next (s.result d ((s.x a).sshiftRight n.toNat) 12)

/-- LI, 08 R173. -/
def execLi (d : BitVec 5) (imm : BitVec 14) (s : State) : Host.Outcome State Fault Refusal :=
  .next (s.result d (imm.signExtend 64) 4)

/-- LILIT, 08 R173. -/
def execLiLit (d : BitVec 5) (lit : BitVec 64) (s : State) : Host.Outcome State Fault Refusal :=
  .next (s.result d (lit) 12)

/-- MUL, 08 R174. -/
def execMul (d a b : BitVec 5) (s : State) : Host.Outcome State Fault Refusal :=
  .next (s.result d (s.x a * s.x b) 4)

/-- MULH, 08 R174. -/
def execMulh (d a b : BitVec 5) (s : State) : Host.Outcome State Fault Refusal :=
  .next (s.result d (BitVec.ofInt 64 ((s.x a).toInt * (s.x b).toInt / 2 ^ 64)) 4)

/-- MULHN, 08 R174. -/
def execMulhn (d a b : BitVec 5) (s : State) : Host.Outcome State Fault Refusal :=
  .next (s.result d (BitVec.ofNat 64 ((s.x a).toNat * (s.x b).toNat / 2 ^ 64)) 4)

/-- MULW, 08 R174. -/
def execMulw (d a b : BitVec 5) (s : State) : Host.Outcome State Fault Refusal :=
  .next (s.result d (low32 (s.x a * s.x b)) 4)

/-- DIV, 08 R174. -/
def execDiv (d a b : BitVec 5) (s : State) : Host.Outcome State Fault Refusal :=
  .next (s.divide d (s.x a) (s.x b) (sdiv 64) (~~~0#64))

/-- DIVN, 08 R174. -/
def execDivn (d a b : BitVec 5) (s : State) : Host.Outcome State Fault Refusal :=
  .next (s.divide d (s.x a) (s.x b) udiv (~~~0#64))

/-- REM, 08 R174. -/
def execRem (d a b : BitVec 5) (s : State) : Host.Outcome State Fault Refusal :=
  .next (s.divide d (s.x a) (s.x b) (srem 64) (s.x a))

/-- REMN, 08 R174. -/
def execRemn (d a b : BitVec 5) (s : State) : Host.Outcome State Fault Refusal :=
  .next (s.divide d (s.x a) (s.x b) urem (s.x a))

/-- DIVW, 08 R174. -/
def execDivw (d a b : BitVec 5) (s : State) : Host.Outcome State Fault Refusal :=
  .next (s.divide d (low32 (s.x a)) (low32 (s.x b)) (sdiv 32) (~~~0#64))

/-- REMW, 08 R174. -/
def execRemw (d a b : BitVec 5) (s : State) : Host.Outcome State Fault Refusal :=
  .next (s.divide d (low32 (s.x a)) (low32 (s.x b)) (srem 32) (low32 (s.x a)))

/-- CLZ, 08 R175. -/
def execClz (d a : BitVec 5) (s : State) : Host.Outcome State Fault Refusal :=
  .next (s.result d (BitVec.ofNat 64 (leadingZeros (s.x a) 64)) 4)

/-- CTZ, 08 R175. -/
def execCtz (d a : BitVec 5) (s : State) : Host.Outcome State Fault Refusal :=
  .next (s.result d (BitVec.ofNat 64 (trailingZeros (s.x a) 64)) 4)

/-- POPC, 08 R175. -/
def execPopc (d a : BitVec 5) (s : State) : Host.Outcome State Fault Refusal :=
  .next (s.result d (BitVec.ofNat 64 (onesBelow (s.x a) 64)) 4)

/-- REV8, 08 R175. -/
def execRev8 (d a : BitVec 5) (s : State) : Host.Outcome State Fault Refusal :=
  .next (s.result d (BitVec.ofNat 64 (leNat (leBytes 8 (s.x a).toNat).reverse)) 4)

/-- ROTL, 08 R175. -/
def execRotl (d a b : BitVec 5) (s : State) : Host.Outcome State Fault Refusal :=
  .next (s.result d ((s.x a).rotateLeft ((s.x b).toNat % 64)) 4)

/-- ROTR, 08 R175. -/
def execRotr (d a b : BitVec 5) (s : State) : Host.Outcome State Fault Refusal :=
  .next (s.result d ((s.x a).rotateRight ((s.x b).toNat % 64)) 4)

/-- BEXT, 08 R175. -/
def execBext (d a b : BitVec 5) (s : State) : Host.Outcome State Fault Refusal :=
  .next (s.result d (bitsPack (s.x a) (s.x b) 64) 4)

/-- BDEP, 08 R175. -/
def execBdep (d a b : BitVec 5) (s : State) : Host.Outcome State Fault Refusal :=
  .next (s.result d (bitsDeposit (s.x a) (s.x b) 64) 4)

/-- SEQ, 08 R176. -/
def execSeq (d a b : BitVec 5) (s : State) : Host.Outcome State Fault Refusal :=
  .next (s.result d (boolWord (s.x a == s.x b)) 4)

/-- SNE, 08 R176. -/
def execSne (d a b : BitVec 5) (s : State) : Host.Outcome State Fault Refusal :=
  .next (s.result d (boolWord (s.x a != s.x b)) 4)

/-- SLT, 08 R176. -/
def execSlt (d a b : BitVec 5) (s : State) : Host.Outcome State Fault Refusal :=
  .next (s.result d (boolWord ((s.x a).slt (s.x b))) 4)

/-- SLTN, 08 R176. -/
def execSltn (d a b : BitVec 5) (s : State) : Host.Outcome State Fault Refusal :=
  .next (s.result d (boolWord ((s.x a).ult (s.x b))) 4)

/-- SEL, 08 R176. -/
def execSel (d a b : BitVec 5) (s : State) : Host.Outcome State Fault Refusal :=
  .next (s.result d (if s.x d != 0#64 then s.x a else s.x b) 4)

end Sys2Proof.Machine
end

