-- ==== Sys2Proof/Machine/VecArith.lean ====
section
/-! DEFINITION. Vector arithmetic, moves, compares, selection and mask operations (10 R214-R220), moving elements,
reductions, extraction and conversion (R225-R228). -/
namespace Sys2Proof.Machine

/-- VADD, 10 R214. -/
def execVadd (t : Tag) (sc : Bool) (mask : BitVec 3) (d a b : BitVec 5) (s : State) :
    Host.Outcome State Fault Refusal :=
  .next (s.vbinary t sc mask d a b (fun x y => ((x + y) % 2 ^ t.width, 0#5)))

/-- VSUB, 10 R214. -/
def execVsub (t : Tag) (sc : Bool) (mask : BitVec 3) (d a b : BitVec 5) (s : State) :
    Host.Outcome State Fault Refusal :=
  .next (s.vbinary t sc mask d a b (fun x y => ((x + 2 ^ t.width - y) % 2 ^ t.width, 0#5)))

/-- VMUL, 10 R214. -/
def execVmul (t : Tag) (sc : Bool) (mask : BitVec 3) (d a b : BitVec 5) (s : State) :
    Host.Outcome State Fault Refusal :=
  .next (s.vbinary t sc mask d a b (fun x y => ((x * y) % 2 ^ t.width, 0#5)))

/-- VMULH, 10 R214. -/
def execVmulh (t : Tag) (sc : Bool) (mask : BitVec 3) (d a b : BitVec 5) (s : State) :
    Host.Outcome State Fault Refusal :=
  .next (s.vbinary t sc mask d a b (fun x y => (cutInt t.width (intVal t x * intVal t y / (2 ^ t.width : Int)), 0#5)))

/-- VMIN, 10 R214. -/
def execVmin (t : Tag) (sc : Bool) (mask : BitVec 3) (d a b : BitVec 5) (s : State) :
    Host.Outcome State Fault Refusal :=
  .next (s.vbinary t sc mask d a b (fun x y => (if intVal t x < intVal t y then x else y, 0#5)))

/-- VMAX, 10 R214. -/
def execVmax (t : Tag) (sc : Bool) (mask : BitVec 3) (d a b : BitVec 5) (s : State) :
    Host.Outcome State Fault Refusal :=
  .next (s.vbinary t sc mask d a b (fun x y => (if intVal t x < intVal t y then y else x, 0#5)))

/-- VAND, 10 R214. -/
def execVand (t : Tag) (sc : Bool) (mask : BitVec 3) (d a b : BitVec 5) (s : State) :
    Host.Outcome State Fault Refusal :=
  .next (s.vbinary t sc mask d a b (fun x y => (x &&& y, 0#5)))

/-- VOR, 10 R214. -/
def execVor (t : Tag) (sc : Bool) (mask : BitVec 3) (d a b : BitVec 5) (s : State) :
    Host.Outcome State Fault Refusal :=
  .next (s.vbinary t sc mask d a b (fun x y => (x ||| y, 0#5)))

/-- VXOR, 10 R214. -/
def execVxor (t : Tag) (sc : Bool) (mask : BitVec 3) (d a b : BitVec 5) (s : State) :
    Host.Outcome State Fault Refusal :=
  .next (s.vbinary t sc mask d a b (fun x y => (x ^^^ y, 0#5)))

/-- VSLL, 10 R214. -/
def execVsll (t : Tag) (sc : Bool) (mask : BitVec 3) (d a b : BitVec 5) (s : State) :
    Host.Outcome State Fault Refusal :=
  .next (s.vbinary t sc mask d a b (fun x y => ((x * 2 ^ (y % t.width)) % 2 ^ t.width, 0#5)))

/-- VSRL, 10 R214. -/
def execVsrl (t : Tag) (sc : Bool) (mask : BitVec 3) (d a b : BitVec 5) (s : State) :
    Host.Outcome State Fault Refusal :=
  .next (s.vbinary t sc mask d a b (fun x y => (x / 2 ^ (y % t.width), 0#5)))

/-- VSRA, 10 R214. -/
def execVsra (t : Tag) (sc : Bool) (mask : BitVec 3) (d a b : BitVec 5) (s : State) :
    Host.Outcome State Fault Refusal :=
  .next (s.vbinary t sc mask d a b (fun x y => (cutInt t.width (asSigned t.width x / (2 ^ (y % t.width) : Int)), 0#5)))

/-- VADDSAT, 10 R214. -/
def execVaddsat (t : Tag) (sc : Bool) (mask : BitVec 3) (d a b : BitVec 5) (s : State) :
    Host.Outcome State Fault Refusal :=
  .next (s.vbinary t sc mask d a b (fun x y => (cutInt t.width (clampInt (intLo t) (intHi t) (intVal t x + intVal t y)), 0#5)))

/-- VSUBSAT, 10 R214. -/
def execVsubsat (t : Tag) (sc : Bool) (mask : BitVec 3) (d a b : BitVec 5) (s : State) :
    Host.Outcome State Fault Refusal :=
  .next (s.vbinary t sc mask d a b (fun x y => (cutInt t.width (clampInt (intLo t) (intHi t) (intVal t x - intVal t y)), 0#5)))

/-- VMOV, 10 R215: the bits of the active elements under the new tag. -/
def execVmov (t : Tag) (mask : BitVec 3) (d a : BitVec 5) (s : State) : Host.Outcome State Fault Refusal :=
  .next (
    let m := s.me.mask mask
    let ok (x : Tag) : Bool := x != .empty && (x.width == t.width || x == .bits || t == .bits)
    s.vrun [⟨1, a, ok⟩] (some (d, t, s.skips mask t)) (fun vs s =>
      s.vwrite d t (onActive m t (fun j => (vget (vs.headD (0#1024, t)).1 t.width j, 0#5)))) 12)

/-- VLI, 10 R215. -/
def execVli (t : Tag) (mask : BitVec 3) (d : BitVec 5) (src : Src) (s : State) : Host.Outcome State Fault Refusal :=
  .next (
    let m := s.me.mask mask
    let v := if t.isSigned || t == .bits then src.sext else src.zext
    s.vrun [] (some (d, t, s.skips mask t)) (fun _ s =>
      s.vwrite d t (onActive m t (fun _ => (v.toNat % 2 ^ t.width, 0#5)))) src.size)

/-- VFADD, 10 R216. -/
def execVfadd (rm : BitVec 2) (t : Tag) (sc : Bool) (mask : BitVec 3) (d a b : BitVec 5) (s : State) :
    Host.Outcome State Fault Refusal :=
  .next (s.vbinary t sc mask d a b (fpAdd rm t))

/-- VFSUB, 10 R216. -/
def execVfsub (rm : BitVec 2) (t : Tag) (sc : Bool) (mask : BitVec 3) (d a b : BitVec 5) (s : State) :
    Host.Outcome State Fault Refusal :=
  .next (s.vbinary t sc mask d a b (fpSub rm t))

/-- VFMUL, 10 R216. -/
def execVfmul (rm : BitVec 2) (t : Tag) (sc : Bool) (mask : BitVec 3) (d a b : BitVec 5) (s : State) :
    Host.Outcome State Fault Refusal :=
  .next (s.vbinary t sc mask d a b (fpMul rm t))

/-- VFDIV, 10 R216. -/
def execVfdiv (rm : BitVec 2) (t : Tag) (sc : Bool) (mask : BitVec 3) (d a b : BitVec 5) (s : State) :
    Host.Outcome State Fault Refusal :=
  .next (s.vbinary t sc mask d a b (fpDiv rm t))

/-- VFFMA, 10 R216. -/
def execVffma (rm : BitVec 2) (t : Tag) (sc : Bool) (mask : BitVec 3) (d a b c : BitVec 5) (s : State) :
    Host.Outcome State Fault Refusal :=
  .next (
    let w := t.width
    let m := s.me.mask mask
    let ok (x : Tag) : Bool := x == t
    let srcs : List VSrc := ⟨1, a, ok⟩ :: ((if sc then [] else [⟨2, b, ok⟩]) ++ [⟨3, c, ok⟩])
    s.vrun srcs (some (d, t, s.skips mask t)) (fun vs s =>
      let at_ (i j : Nat) : Nat := vget (vs.getD i (0#1024, t)).1 w j
      let y (j : Nat) : Nat := if sc then (s.x b).toNat % 2 ^ w else at_ 1 j
      let z (j : Nat) : Nat := at_ (if sc then 1 else 2) j
      s.vwrite d t (onActive m t (fun j => fpFma rm t false false (at_ 0 j) (y j) (z j)))) 12)

/-- VFMIN, 10 R216. -/
def execVfmin (t : Tag) (sc : Bool) (mask : BitVec 3) (d a b : BitVec 5) (s : State) :
    Host.Outcome State Fault Refusal :=
  .next (s.vbinary t sc mask d a b (fpMinMax false t))

/-- VFMAX, 10 R216. -/
def execVfmax (t : Tag) (sc : Bool) (mask : BitVec 3) (d a b : BitVec 5) (s : State) :
    Host.Outcome State Fault Refusal :=
  .next (s.vbinary t sc mask d a b (fpMinMax true t))

/-- VFSQRT, 10 R216. -/
def execVfsqrt (rm : BitVec 2) (t : Tag) (mask : BitVec 3) (d a : BitVec 5) (s : State) :
    Host.Outcome State Fault Refusal :=
  .next (s.vunary t mask d a (fpSqrt rm t))

/-- The relations of R217: 0 eq, 1 ne, 2 lt, 3 le. -/
def vrel (k : Nat) (t : Tag) (x y : Nat) : Bool × BitVec 5 :=
  if t.isFp then
    match k with
    | 0 => fpEq t x y
    | 1 => (!(fpEq t x y).1, (fpEq t x y).2)
    | 2 => fpLt t x y
    | _ => fpLe t x y
  else
    let a := intVal t x
    let b := intVal t y
    (match k with
      | 0 => x == y
      | 1 => x != y
      | 2 => decide (a < b)
      | _ => decide (a ≤ b), 0#5)
/-- A compare into a mask, R217: inactive elements write 0. -/
def State.vcompare (s : State) (k : Nat) (t : Tag) (sc : Bool) (mask d : BitVec 3) (a b : BitVec 5) : State :=
  let w := t.width
  let m := s.me.mask mask
  let ok (x : Tag) : Bool := x == t
  let srcs : List VSrc := ⟨1, a, ok⟩ :: (if sc then [] else [⟨2, b, ok⟩])
  s.vrun srcs none (fun vs s =>
    let y (j : Nat) : Nat := if sc then (s.x b).toNat % 2 ^ w else vget ((vs.getD 1 (0#1024, t)).1) w j
    let rs := (List.range t.elems).map (fun j =>
      if active m w j then vrel k t (vget (vs.headD (0#1024, t)).1 w j) (y j) else (false, 0#5))
    (s.onMe (·.setMask d (maskOf w (rs.map (·.1))))).orFlags (rs.foldl (fun f r => f ||| r.2) 0#5)) 12

/-- VCMPEQ, 10 R217. -/
def execVcmpeq (t : Tag) (sc : Bool) (mask d : BitVec 3) (a b : BitVec 5) (s : State) :
    Host.Outcome State Fault Refusal :=
  .next (s.vcompare 0 t sc mask d a b)

/-- VCMPNE, 10 R217. -/
def execVcmpne (t : Tag) (sc : Bool) (mask d : BitVec 3) (a b : BitVec 5) (s : State) :
    Host.Outcome State Fault Refusal :=
  .next (s.vcompare 1 t sc mask d a b)

/-- VCMPLT, 10 R217. -/
def execVcmplt (t : Tag) (sc : Bool) (mask d : BitVec 3) (a b : BitVec 5) (s : State) :
    Host.Outcome State Fault Refusal :=
  .next (s.vcompare 2 t sc mask d a b)

/-- VCMPLE, 10 R217. -/
def execVcmple (t : Tag) (sc : Bool) (mask d : BitVec 3) (a b : BitVec 5) (s : State) :
    Host.Outcome State Fault Refusal :=
  .next (s.vcompare 3 t sc mask d a b)

/-- VSEL, 10 R218: every element is written. -/
def execVsel (t : Tag) (mask : BitVec 3) (d a b : BitVec 5) (s : State) : Host.Outcome State Fault Refusal :=
  .next (
    let w := t.width
    let m := s.me.mask mask
    let ok (x : Tag) : Bool := x == t
    s.vrun [⟨1, a, ok⟩, ⟨2, b, ok⟩] (some (d, t, false)) (fun vs s =>
      s.vwrite d t ((List.range t.elems).map (fun j =>
        some (vget (vs.getD (if active m w j then 0 else 1) (0#1024, t)).1 w j, 0#5)))) 12)

/-- MAND, 10 R219. -/
def execMand (d a b : BitVec 3) (s : State) :
    Host.Outcome State Fault Refusal :=
  .next ((s.onMe (fun t =>
    let x := t.mask a
    let y := t.mask b
    t.setMask d (x &&& y))).retire 12)

/-- MOR, 10 R219. -/
def execMor (d a b : BitVec 3) (s : State) :
    Host.Outcome State Fault Refusal :=
  .next ((s.onMe (fun t =>
    let x := t.mask a
    let y := t.mask b
    t.setMask d (x ||| y))).retire 12)

/-- MANDN, 10 R219. -/
def execMandn (d a b : BitVec 3) (s : State) :
    Host.Outcome State Fault Refusal :=
  .next ((s.onMe (fun t =>
    let x := t.mask a
    let y := t.mask b
    t.setMask d (x &&& ~~~y))).retire 12)

/-- MXOR, 10 R219. -/
def execMxor (d a b : BitVec 3) (s : State) :
    Host.Outcome State Fault Refusal :=
  .next ((s.onMe (fun t =>
    let x := t.mask a
    let y := t.mask b
    t.setMask d (x ^^^ y))).retire 12)

/-- MPOP, 10 R219. -/
def execMpop (d : BitVec 5) (a : BitVec 3) (s : State) : Host.Outcome State Fault Refusal :=
  .next (s.result d (BitVec.ofNat 64 (onesBelow ((s.me.mask a).setWidth 64) 32)) 12)

/-- MEDGE, 10 R220: an exact signed comparison. -/
def execMedge (t : Tag) (d : BitVec 3) (a b : BitVec 5) (s : State) : Host.Outcome State Fault Refusal :=
  .next (
    let on := (List.range t.elems).map (fun (j : Nat) => decide ((s.x a).toInt + (j : Int) < (s.x b).toInt))
    (s.onMe (·.setMask d (maskOf t.width on))).retire 12)

/-- The index tag of a data width: i or n of that width (10 R223, R225). -/
def indexTag (w : Nat) (x : Tag) : Bool := (x.isSigned || x.isUnsigned) && x.width == w

/-- VPERM, 10 R225. -/
def execVperm (t : Tag) (mask : BitVec 3) (d a b : BitVec 5) (s : State) : Host.Outcome State Fault Refusal :=
  .next (
    let w := t.width
    let m := s.me.mask mask
    s.vrun [⟨1, a, fun x => x == t⟩, ⟨2, b, indexTag w⟩] (some (d, t, s.skips mask t)) (fun vs s =>
      let at_ (i j : Nat) : Nat := vget (vs.getD i (0#1024, t)).1 w j
      s.vwrite d t (onActive m t (fun j => (at_ 0 (at_ 1 j % t.elems), 0#5)))) 12)

/-- VBCAST, 10 R225. -/
def execVbcast (t : Tag) (mask : BitVec 3) (d a : BitVec 5) (s : State) : Host.Outcome State Fault Refusal :=
  .next (
    let m := s.me.mask mask
    s.vrun [] (some (d, t, s.skips mask t)) (fun _ s =>
      s.vwrite d t (onActive m t (fun _ => ((s.x a).toNat % 2 ^ t.width, 0#5)))) 12)

/-- VSLIDE, 10 R225. -/
def execVslide (t : Tag) (mask : BitVec 3) (d a : BitVec 5) (amount : BitVec 32) (s : State) :
    Host.Outcome State Fault Refusal :=
  .next (
    let m := s.me.mask mask
    s.vrun [⟨1, a, fun x => x == t⟩] (some (d, t, s.skips mask t)) (fun vs s =>
      s.vwrite d t (onActive m t (fun (j : Nat) =>
        let i : Int := (j : Int) + amount.toInt
        (if 0 ≤ i ∧ i < (t.elems : Int) then vget (vs.headD (0#1024, t)).1 t.width i.toNat else 0, 0#5)))) 12)

/-- One level of a tree of a two-operand function, R103, R105. -/
def pairLevel (f : Nat → Nat → Nat × BitVec 5) : List Nat → List Nat × BitVec 5
  | x :: y :: rest =>
    let r := f x y
    let rs := pairLevel f rest
    (r.1 :: rs.1, r.2 ||| rs.2)
  | l => (l, 0#5)
/-- The tree over 2^k elements. -/
def pairTree (f : Nat → Nat → Nat × BitVec 5) : Nat → List Nat → Nat × BitVec 5
  | 0, l => (l.headD 0, 0#5)
  | k + 1, l =>
    let r := pairLevel f l
    let q := pairTree f k r.1
    (q.1, r.2 ||| q.2)
/-- A reduction over the elements, inactive ones entering as the identity (R105, R226). -/
def State.vreduce (s : State) (t : Tag) (mask : BitVec 3) (d a : BitVec 5) (unit : Nat) (f : Nat → Nat → Nat × BitVec 5) :
    State :=
  let w := t.width
  let m := s.me.mask mask
  s.vrun [⟨1, a, fun x => x == t⟩] none (fun vs s =>
    let es := (List.range t.elems).map (fun j => if active m w j then vget (vs.headD (0#1024, t)).1 w j else unit)
    let r := pairTree f (if w == 64 then 4 else 5) es
    (s.orFlags r.2).setX d (extendTag t r.1)) 12

/-- VREDSUM, 10 R226: floating-point nodes round by rm, integer sums wrap. -/
def execVredsum (rm : BitVec 2) (t : Tag) (mask : BitVec 3) (d a : BitVec 5) (s : State) :
    Host.Outcome State Fault Refusal :=
  .next (if t.isFp then s.vreduce t mask d a (fpSigned t true 0) (fpAdd rm t)
    else s.vreduce t mask d a 0 (fun x y => ((x + y) % 2 ^ t.width, 0#5)))

/-- VREDMIN, 10 R226. -/
def execVredmin (t : Tag) (mask : BitVec 3) (d a : BitVec 5) (s : State) : Host.Outcome State Fault Refusal :=
  .next (if t.isFp then s.vreduce t mask d a (fpSigned t false (fpInfMag t)) (fpMinMax false t)
    else s.vreduce t mask d a (cutInt t.width (intHi t)) (fun x y => (if intVal t y < intVal t x then y else x, 0#5)))

/-- VREDMAX, 10 R226. -/
def execVredmax (t : Tag) (mask : BitVec 3) (d a : BitVec 5) (s : State) : Host.Outcome State Fault Refusal :=
  .next (if t.isFp then s.vreduce t mask d a (fpSigned t true (fpInfMag t)) (fpMinMax true t)
    else s.vreduce t mask d a (cutInt t.width (intLo t)) (fun x y => (if intVal t x < intVal t y then y else x, 0#5)))

/-- VEXT, 10 R227. -/
def execVext (t : Tag) (d a : BitVec 5) (idx : BitVec 32) (s : State) : Host.Outcome State Fault Refusal :=
  .next (s.vrun [⟨1, a, fun x => x == t⟩] none (fun vs s =>
    s.setX d (extendTag t (vget (vs.headD (0#1024, t)).1 t.width idx.toNat))) 12)

/-- Cvt of R228, 04 R94. -/
def cvtElem (rm : BitVec 2) (sat : Bool) (src dst : Tag) (x : Nat) : Nat × BitVec 5 :=
  if src == dst then (x, 0#5)
  else if src.isFp then
    if dst.isFp then fpConv rm src dst x
    else
      let r := fpToInt rm (intLo dst) (intHi dst) (fpDecode src x)
      (cutInt dst.width r.1, r.2)
  else if dst.isFp then fpOfInt rm dst (intVal src x)
  else (cutInt dst.width (if sat then clampInt (intLo dst) (intHi dst) (intVal src x) else intVal src x), 0#5)

/-- VCVT, 10 R228: the source format is the register's tag. -/
def execVcvt (t : Tag) (rm : BitVec 2) (mask : BitVec 3) (d a : BitVec 5) (p : BitVec 3) (sat : Bool) (s : State) :
    Host.Outcome State Fault Refusal :=
  .next (
    let m := s.me.mask mask
    let wd := t.width
    let parts (x : Tag) : Nat := if x.width < wd then wd / x.width else x.width / wd
    let ok (x : Tag) : Bool := x != .empty && x != .bits && decide (p.toNat < parts x)
    let narrow := match s.vsrc a with
      | some x => decide (wd < x.2.width)
      | none => false
    s.vrun [⟨1, a, ok⟩] (some (d, t, s.skips mask t || narrow)) (fun vs s =>
      let x := vs.headD (0#1024, t)
      let ws := x.2.width
      let ns := x.2.elems
      let cv (j : Nat) : Nat × BitVec 5 := cvtElem rm sat x.2 t (vget x.1 ws j)
      let el (j : Nat) : Option (Nat × BitVec 5) :=
        if !active m wd j then none
        else if ws < wd then some (cv (p.toNat * t.elems + j))
        else if wd < ws then
          if p.toNat * ns ≤ j ∧ j < (p.toNat + 1) * ns then some (cv (j - p.toNat * ns)) else none
        else some (cv j)
      s.vwrite d t ((List.range t.elems).map el)) 12)

end Sys2Proof.Machine
end

