-- ==== Sys2Proof/Machine/Dispatch.lean ====
section
/-! DEFINITION. The meaning of every row of spec/opcode_table.json. -/
namespace Sys2Proof.Machine

/-- Execute one instruction, or one step of the device. -/
def exec (i : Instr) (s : State) : Host.Outcome State Fault Refusal :=
  match i with
  | .add d a b => Sys2Proof.Machine.execAdd d a b s
  | .sub d a b => Sys2Proof.Machine.execSub d a b s
  | .and d a b => Sys2Proof.Machine.execAnd d a b s
  | .or d a b => Sys2Proof.Machine.execOr d a b s
  | .xor d a b => Sys2Proof.Machine.execXor d a b s
  | .andn d a b => Sys2Proof.Machine.execAndn d a b s
  | .sll d a b => Sys2Proof.Machine.execSll d a b s
  | .srl d a b => Sys2Proof.Machine.execSrl d a b s
  | .sra d a b => Sys2Proof.Machine.execSra d a b s
  | .addw d a b => Sys2Proof.Machine.execAddw d a b s
  | .subw d a b => Sys2Proof.Machine.execSubw d a b s
  | .min d a b => Sys2Proof.Machine.execMin d a b s
  | .max d a b => Sys2Proof.Machine.execMax d a b s
  | .minn d a b => Sys2Proof.Machine.execMinn d a b s
  | .maxn d a b => Sys2Proof.Machine.execMaxn d a b s
  | .addi d a imm => Sys2Proof.Machine.execAddi d a imm s
  | .addiLit d a lit => Sys2Proof.Machine.execAddiLit d a lit s
  | .andi d a src => Sys2Proof.Machine.execAndi d a src s
  | .ori d a src => Sys2Proof.Machine.execOri d a src s
  | .xori d a src => Sys2Proof.Machine.execXori d a src s
  | .slli d a n => Sys2Proof.Machine.execSlli d a n s
  | .srli d a n => Sys2Proof.Machine.execSrli d a n s
  | .srai d a n => Sys2Proof.Machine.execSrai d a n s
  | .li d imm => Sys2Proof.Machine.execLi d imm s
  | .liLit d lit => Sys2Proof.Machine.execLiLit d lit s
  | .mul d a b => Sys2Proof.Machine.execMul d a b s
  | .mulh d a b => Sys2Proof.Machine.execMulh d a b s
  | .mulhn d a b => Sys2Proof.Machine.execMulhn d a b s
  | .div d a b => Sys2Proof.Machine.execDiv d a b s
  | .divn d a b => Sys2Proof.Machine.execDivn d a b s
  | .rem d a b => Sys2Proof.Machine.execRem d a b s
  | .remn d a b => Sys2Proof.Machine.execRemn d a b s
  | .mulw d a b => Sys2Proof.Machine.execMulw d a b s
  | .divw d a b => Sys2Proof.Machine.execDivw d a b s
  | .remw d a b => Sys2Proof.Machine.execRemw d a b s
  | .clz d a => Sys2Proof.Machine.execClz d a s
  | .ctz d a => Sys2Proof.Machine.execCtz d a s
  | .popc d a => Sys2Proof.Machine.execPopc d a s
  | .rev8 d a => Sys2Proof.Machine.execRev8 d a s
  | .rotl d a b => Sys2Proof.Machine.execRotl d a b s
  | .rotr d a b => Sys2Proof.Machine.execRotr d a b s
  | .bext d a b => Sys2Proof.Machine.execBext d a b s
  | .bdep d a b => Sys2Proof.Machine.execBdep d a b s
  | .seq d a b => Sys2Proof.Machine.execSeq d a b s
  | .sne d a b => Sys2Proof.Machine.execSne d a b s
  | .slt d a b => Sys2Proof.Machine.execSlt d a b s
  | .sltn d a b => Sys2Proof.Machine.execSltn d a b s
  | .sel d a b => Sys2Proof.Machine.execSel d a b s
  | .fadd rm w d a b => Sys2Proof.Machine.execFadd rm w d a b s
  | .fsub rm w d a b => Sys2Proof.Machine.execFsub rm w d a b s
  | .fmul rm w d a b => Sys2Proof.Machine.execFmul rm w d a b s
  | .fdiv rm w d a b => Sys2Proof.Machine.execFdiv rm w d a b s
  | .fsqrt rm w d a => Sys2Proof.Machine.execFsqrt rm w d a s
  | .fmin w d a b => Sys2Proof.Machine.execFmin w d a b s
  | .fmax w d a b => Sys2Proof.Machine.execFmax w d a b s
  | .fsgnj w d a b => Sys2Proof.Machine.execFsgnj w d a b s
  | .fsgnjn w d a b => Sys2Proof.Machine.execFsgnjn w d a b s
  | .ffma rm w d a b c => Sys2Proof.Machine.execFfma rm w d a b c s
  | .ffms rm w d a b c => Sys2Proof.Machine.execFfms rm w d a b c s
  | .ffnma rm w d a b c => Sys2Proof.Machine.execFfnma rm w d a b c s
  | .fcvt rm w d a => Sys2Proof.Machine.execFcvt rm w d a s
  | .ftoi rm w d a => Sys2Proof.Machine.execFtoi rm w d a s
  | .ftoiw rm w d a => Sys2Proof.Machine.execFtoiw rm w d a s
  | .fton rm w d a => Sys2Proof.Machine.execFton rm w d a s
  | .ftonw rm w d a => Sys2Proof.Machine.execFtonw rm w d a s
  | .itof rm w d a => Sys2Proof.Machine.execItof rm w d a s
  | .ntof rm w d a => Sys2Proof.Machine.execNtof rm w d a s
  | .fround rm w d a => Sys2Proof.Machine.execFround rm w d a s
  | .fclass w d a => Sys2Proof.Machine.execFclass w d a s
  | .feq w d a b => Sys2Proof.Machine.execFeq w d a b s
  | .flt w d a b => Sys2Proof.Machine.execFlt w d a b s
  | .fle w d a b => Sys2Proof.Machine.execFle w d a b s
  | .funord w d a b => Sys2Proof.Machine.execFunord w d a b s
  | .beq a b disp => Sys2Proof.Machine.execBeq a b disp s
  | .bne a b disp => Sys2Proof.Machine.execBne a b disp s
  | .blt a b disp => Sys2Proof.Machine.execBlt a b disp s
  | .bge a b disp => Sys2Proof.Machine.execBge a b disp s
  | .bltn a b disp => Sys2Proof.Machine.execBltn a b disp s
  | .bgen a b disp => Sys2Proof.Machine.execBgen a b disp s
  | .bany a b disp => Sys2Proof.Machine.execBany a b disp s
  | .bnone a b disp => Sys2Proof.Machine.execBnone a b disp s
  | .j disp => Sys2Proof.Machine.execJ disp s
  | .call n target => Sys2Proof.Machine.execCall n target s
  | .jr a => Sys2Proof.Machine.execJr a s
  | .callr n a => Sys2Proof.Machine.execCallr n a s
  | .ret => Sys2Proof.Machine.execRet s
  | .trap a => Sys2Proof.Machine.execTrap a s
  | .tret => Sys2Proof.Machine.execTret s
  | .ld d a imm => Sys2Proof.Machine.execLd d a imm s
  | .ldX t acq scope d a disp => Sys2Proof.Machine.execLdX t acq scope d a disp s
  | .ldIndexed t acq scope d a b sh => Sys2Proof.Machine.execLdIndexed t acq scope d a b sh s
  | .st d a imm => Sys2Proof.Machine.execSt d a imm s
  | .stX t rel scope d a disp => Sys2Proof.Machine.execStX t rel scope d a disp s
  | .stIndexed t rel scope d a b sh => Sys2Proof.Machine.execStIndexed t rel scope d a b sh s
  | .amoadd t acq rel scope d a b disp => Sys2Proof.Machine.execAmoadd t acq rel scope d a b disp s
  | .amoand t acq rel scope d a b disp => Sys2Proof.Machine.execAmoand t acq rel scope d a b disp s
  | .amoor t acq rel scope d a b disp => Sys2Proof.Machine.execAmoor t acq rel scope d a b disp s
  | .amoxor t acq rel scope d a b disp => Sys2Proof.Machine.execAmoxor t acq rel scope d a b disp s
  | .amoswap t acq rel scope d a b disp => Sys2Proof.Machine.execAmoswap t acq rel scope d a b disp s
  | .amocas t acq rel scope d a b c disp => Sys2Proof.Machine.execAmocas t acq rel scope d a b c disp s
  | .amomin t acq rel scope d a b disp => Sys2Proof.Machine.execAmomin t acq rel scope d a b disp s
  | .amomax t acq rel scope d a b disp => Sys2Proof.Machine.execAmomax t acq rel scope d a b disp s
  | .amominn t acq rel scope d a b disp => Sys2Proof.Machine.execAmominn t acq rel scope d a b disp s
  | .amomaxn t acq rel scope d a b disp => Sys2Proof.Machine.execAmomaxn t acq rel scope d a b disp s
  | .amofadd t acq rel scope d a b disp => Sys2Proof.Machine.execAmofadd t acq rel scope d a b disp s
  | .redadd t rel scope a b disp => Sys2Proof.Machine.execRedadd t rel scope a b disp s
  | .redmin t rel scope a b disp => Sys2Proof.Machine.execRedmin t rel scope a b disp s
  | .redmax t rel scope a b disp => Sys2Proof.Machine.execRedmax t rel scope a b disp s
  | .redand t rel scope a b disp => Sys2Proof.Machine.execRedand t rel scope a b disp s
  | .redor t rel scope a b disp => Sys2Proof.Machine.execRedor t rel scope a b disp s
  | .redxor t rel scope a b disp => Sys2Proof.Machine.execRedxor t rel scope a b disp s
  | .redfadd t rel scope a b disp => Sys2Proof.Machine.execRedfadd t rel scope a b disp s
  | .fence acq rel scope => Sys2Proof.Machine.execFence acq rel scope s
  | .drainst => Sys2Proof.Machine.execDrainst s
  | .waitc lim => Sys2Proof.Machine.execWaitc lim s
  | .nop => Sys2Proof.Machine.execNop s
  | .brk => Sys2Proof.Machine.execBrk s
  | .kpoint => Sys2Proof.Machine.execKpoint s
  | .icinv => Sys2Proof.Machine.execIcinv s
  | .tlbinv a => Sys2Proof.Machine.execTlbinv a s
  | .srr d n => Sys2Proof.Machine.execSrr d n s
  | .srw a n => Sys2Proof.Machine.execSrw a n s
  | .perfStart group => Sys2Proof.Machine.execPerfStart group s
  | .perfStop a => Sys2Proof.Machine.execPerfStop a s
  | .vadd t sc mask d a b => Sys2Proof.Machine.execVadd t sc mask d a b s
  | .vsub t sc mask d a b => Sys2Proof.Machine.execVsub t sc mask d a b s
  | .vmul t sc mask d a b => Sys2Proof.Machine.execVmul t sc mask d a b s
  | .vmulh t sc mask d a b => Sys2Proof.Machine.execVmulh t sc mask d a b s
  | .vmin t sc mask d a b => Sys2Proof.Machine.execVmin t sc mask d a b s
  | .vmax t sc mask d a b => Sys2Proof.Machine.execVmax t sc mask d a b s
  | .vand t sc mask d a b => Sys2Proof.Machine.execVand t sc mask d a b s
  | .vor t sc mask d a b => Sys2Proof.Machine.execVor t sc mask d a b s
  | .vxor t sc mask d a b => Sys2Proof.Machine.execVxor t sc mask d a b s
  | .vsll t sc mask d a b => Sys2Proof.Machine.execVsll t sc mask d a b s
  | .vsrl t sc mask d a b => Sys2Proof.Machine.execVsrl t sc mask d a b s
  | .vsra t sc mask d a b => Sys2Proof.Machine.execVsra t sc mask d a b s
  | .vaddsat t sc mask d a b => Sys2Proof.Machine.execVaddsat t sc mask d a b s
  | .vsubsat t sc mask d a b => Sys2Proof.Machine.execVsubsat t sc mask d a b s
  | .vmov t mask d a => Sys2Proof.Machine.execVmov t mask d a s
  | .vli t mask d src => Sys2Proof.Machine.execVli t mask d src s
  | .vfadd rm t sc mask d a b => Sys2Proof.Machine.execVfadd rm t sc mask d a b s
  | .vfsub rm t sc mask d a b => Sys2Proof.Machine.execVfsub rm t sc mask d a b s
  | .vfmul rm t sc mask d a b => Sys2Proof.Machine.execVfmul rm t sc mask d a b s
  | .vfdiv rm t sc mask d a b => Sys2Proof.Machine.execVfdiv rm t sc mask d a b s
  | .vffma rm t sc mask d a b c => Sys2Proof.Machine.execVffma rm t sc mask d a b c s
  | .vfmin t sc mask d a b => Sys2Proof.Machine.execVfmin t sc mask d a b s
  | .vfmax t sc mask d a b => Sys2Proof.Machine.execVfmax t sc mask d a b s
  | .vfsqrt rm t mask d a => Sys2Proof.Machine.execVfsqrt rm t mask d a s
  | .vcmpeq t sc mask d a b => Sys2Proof.Machine.execVcmpeq t sc mask d a b s
  | .vcmpne t sc mask d a b => Sys2Proof.Machine.execVcmpne t sc mask d a b s
  | .vcmplt t sc mask d a b => Sys2Proof.Machine.execVcmplt t sc mask d a b s
  | .vcmple t sc mask d a b => Sys2Proof.Machine.execVcmple t sc mask d a b s
  | .vsel t mask d a b => Sys2Proof.Machine.execVsel t mask d a b s
  | .mand d a b => Sys2Proof.Machine.execMand d a b s
  | .mor d a b => Sys2Proof.Machine.execMor d a b s
  | .mandn d a b => Sys2Proof.Machine.execMandn d a b s
  | .mxor d a b => Sys2Proof.Machine.execMxor d a b s
  | .mpop d a => Sys2Proof.Machine.execMpop d a s
  | .medge t d a b => Sys2Proof.Machine.execMedge t d a b s
  | .vld t acq scope mask d a disp => Sys2Proof.Machine.execVld t acq scope mask d a disp s
  | .vst t rel scope mask d a disp => Sys2Proof.Machine.execVst t rel scope mask d a disp s
  | .vlds t acq scope mask d a b disp => Sys2Proof.Machine.execVlds t acq scope mask d a b disp s
  | .vsts t rel scope mask d a b disp => Sys2Proof.Machine.execVsts t rel scope mask d a b disp s
  | .vgath t acq scope mask d a b disp sh => Sys2Proof.Machine.execVgath t acq scope mask d a b disp sh s
  | .vscat t rel scope mask d a b disp sh => Sys2Proof.Machine.execVscat t rel scope mask d a b disp sh s
  | .vperm t mask d a b => Sys2Proof.Machine.execVperm t mask d a b s
  | .vbcast t mask d a => Sys2Proof.Machine.execVbcast t mask d a s
  | .vslide t mask d a amount => Sys2Proof.Machine.execVslide t mask d a amount s
  | .vredsum rm t mask d a => Sys2Proof.Machine.execVredsum rm t mask d a s
  | .vredmin t mask d a => Sys2Proof.Machine.execVredmin t mask d a s
  | .vredmax t mask d a => Sys2Proof.Machine.execVredmax t mask d a s
  | .vext t d a idx => Sys2Proof.Machine.execVext t d a idx s
  | .vcvt t rm mask d a p sat => Sys2Proof.Machine.execVcvt t rm mask d a p sat s
  | .tclaim t d br bc => Sys2Proof.Machine.execTclaim t d br bc s
  | .tfree a => Sys2Proof.Machine.execTfree a s
  | .hmov d a => Sys2Proof.Machine.execHmov d a s
  | .hsend core k n a => Sys2Proof.Machine.execHsend core k n a s
  | .hdup d a => Sys2Proof.Machine.execHdup d a s
  | .hinfo d a => Sys2Proof.Machine.execHinfo d a s
  | .kset d v => Sys2Proof.Machine.execKset d v s
  | .tld t int4 acq scope d a c disp => Sys2Proof.Machine.execTld t int4 acq scope d a c disp s
  | .tst t rel scope d a c rs cs disp => Sys2Proof.Machine.execTst t rel scope d a c rs cs disp s
  | .tmma d a b => Sys2Proof.Machine.execTmma d a b s
  | .tzero t d => Sys2Proof.Machine.execTzero t d s
  | .tcvt t rm d a rs cs => Sys2Proof.Machine.execTcvt t rm d a rs cs s
  | .tsplit axis d a b cut => Sys2Proof.Machine.execTsplit axis d a b cut s
  | .trejoin d a b => Sys2Proof.Machine.execTrejoin d a b s
  | .c1d acq rel scope d a b c e => Sys2Proof.Machine.execC1d acq rel scope d a b c e s
  | .c2d acq rel scope d a b c e => Sys2Proof.Machine.execC2d acq rel scope d a b c e s
  | .c3d acq rel scope d a b c e => Sys2Proof.Machine.execC3d acq rel scope d a b c e s
  | .ctileLd acq rel scope d a b e => Sys2Proof.Machine.execCtileLd acq rel scope d a b e s
  | .ctileSt acq rel scope d a b e => Sys2Proof.Machine.execCtileSt acq rel scope d a b e s
  | .cfill acq rel scope d a b c e => Sys2Proof.Machine.execCfill acq rel scope d a b c e s
  | .cunseal acq rel scope tile d a b c e => Sys2Proof.Machine.execCunseal acq rel scope tile d a b c e s
  | .cwait a => Sys2Proof.Machine.execCwait a s
  | .cstat d a => Sys2Proof.Machine.execCstat d a s
  | .sleepu a slack => Sys2Proof.Machine.execSleepu a slack s
  | .spawn d a b c e entry n ord => Sys2Proof.Machine.execSpawn d a b c e entry n ord s
  | .start d b c e entry n => Sys2Proof.Machine.execStart d b c e entry n s
  | .rfork d a b c e entry n => Sys2Proof.Machine.execRfork d a b c e entry n s
  | .exit => Sys2Proof.Machine.execExit s
  | .yield => Sys2Proof.Machine.execYield s
  | .keyset a => Sys2Proof.Machine.execKeyset a s
  | .budset a => Sys2Proof.Machine.execBudset a s
  | .psend rel scope p a b => Sys2Proof.Machine.execPsend rel scope p a b s
  | .csend t rel scope a b q => Sys2Proof.Machine.execCsend t rel scope a b q s
  | .bind c e entry tgt ord => Sys2Proof.Machine.execBind c e entry tgt ord s
  | .pwait d p => Sys2Proof.Machine.execPwait d p s
  | .horz d => Sys2Proof.Machine.execHorz d s
  | .getlid d => Sys2Proof.Machine.execGetlid d s
  | .gjoin a b => Sys2Proof.Machine.execGjoin a b s
  | .gleave a => Sys2Proof.Machine.execGleave a s
  | .barinit a b => Sys2Proof.Machine.execBarinit a b s
  | .bararr a => Sys2Proof.Machine.execBararr a s
  | .barwait a => Sys2Proof.Machine.execBarwait a s
  | .qinit d a b => Sys2Proof.Machine.execQinit d a b s
  | .qarr a con => Sys2Proof.Machine.execQarr a con s
  | .qwait d a => Sys2Proof.Machine.execQwait d a s
  | .qstat d a => Sys2Proof.Machine.execQstat d a s
  | .qrec d a => Sys2Proof.Machine.execQrec d a s
  | .evcfg ord acq rel scope a b c e => Sys2Proof.Machine.execEvcfg ord acq rel scope a b c e s
  | .evset a b v => Sys2Proof.Machine.execEvset a b v s
  | .evadd a b v => Sys2Proof.Machine.execEvadd a b v s
  | .evget d a b => Sys2Proof.Machine.execEvget d a b s
  | .evsum d a => Sys2Proof.Machine.execEvsum d a s
  | .evnext spawn acq rel scope d a c e => Sys2Proof.Machine.execEvnext spawn acq rel scope d a c e s
  | .evsched d a b c e => Sys2Proof.Machine.execEvsched d a b c e s
  | .evclkClock d a => Sys2Proof.Machine.execEvclkClock d a s
  | .evclkCount d a => Sys2Proof.Machine.execEvclkCount d a s
  | .evhorBound d a => Sys2Proof.Machine.execEvhorBound d a s
  | .evhorCommit d a => Sys2Proof.Machine.execEvhorCommit d a s
  | .evhorStatus d a => Sys2Proof.Machine.execEvhorStatus d a s
  | .evlook a b c slot => Sys2Proof.Machine.execEvlook a b c slot s
  | .taskDispatch g => Sys2Proof.Machine.execTaskDispatch g s
  | .postMessageArrival k => Sys2Proof.Machine.execPostMessageArrival k s
  | .channelEntryArrival g => Sys2Proof.Machine.execChannelEntryArrival g s
  | .budgetExhausted u => Sys2Proof.Machine.execBudgetExhausted u s
  | .horizonHolderSwitchOut g => Sys2Proof.Machine.execHorizonHolderSwitchOut g s
  | .horizonUpdate g => Sys2Proof.Machine.execHorizonUpdate g s
  | .commit => Sys2Proof.Machine.execCommit s
  | .orderedAbort u => Sys2Proof.Machine.execOrderedAbort u s
  | .kill u => Sys2Proof.Machine.execKill u s
  | .storePerformed u k => Sys2Proof.Machine.execStorePerformed u k s
  | .updateCopyEviction k => Sys2Proof.Machine.execUpdateCopyEviction k s
  | .replicaApply die k => Sys2Proof.Machine.execReplicaApply die k s
  | .pinLift k => Sys2Proof.Machine.execPinLift k s
  | .sfq64Bound u => Sys2Proof.Machine.execSfq64Bound u s
  | .copyBeat cl => Sys2Proof.Machine.execCopyBeat cl s
  | .promiseExpiry u => Sys2Proof.Machine.execPromiseExpiry u s
  | .tileComplete g k => Sys2Proof.Machine.execTileComplete g k s
  | .hsendLanded k => Sys2Proof.Machine.execHsendLanded k s
  | .barrierRelease cl ent => Sys2Proof.Machine.execBarrierRelease cl ent s
  | .quorumDeadline cl cell => Sys2Proof.Machine.execQuorumDeadline cl cell s
  | .deadlinePass u => Sys2Proof.Machine.execDeadlinePass u s
  | .garnetUpdate u => Sys2Proof.Machine.execGarnetUpdate u s
  | .launchCommit vf slot word relaxed => Sys2Proof.Machine.execLaunchCommit vf slot word relaxed s
  | .launchPlace => Sys2Proof.Machine.execLaunchPlace s
  | .priorityAging l => Sys2Proof.Machine.execPriorityAging l s
  | .sliceExpiry l => Sys2Proof.Machine.execSliceExpiry l s
  | .preemption l => Sys2Proof.Machine.execPreemption l s
  | .graceExpiry l => Sys2Proof.Machine.execGraceExpiry l s
  | .coopHandlerBudgetEnd u => Sys2Proof.Machine.execCoopHandlerBudgetEnd u s
  | .registerCacheSwap g => Sys2Proof.Machine.execRegisterCacheSwap g s
  | .launchRestore l => Sys2Proof.Machine.execLaunchRestore l s
  | .launchEnd l => Sys2Proof.Machine.execLaunchEnd l s
  | .gangReservation l last => Sys2Proof.Machine.execGangReservation l last s
  | .gangGo l => Sys2Proof.Machine.execGangGo l s
  | .gangStart l => Sys2Proof.Machine.execGangStart l s
  | .gangCancel l stamp => Sys2Proof.Machine.execGangCancel l stamp s
  | .functionLevelReset vf => Sys2Proof.Machine.execFunctionLevelReset vf s
  | .setroot vf approved => Sys2Proof.Machine.execSetroot vf approved s
  | .getcfg vf => Sys2Proof.Machine.execGetcfg vf s
  | .pfmsg vf => Sys2Proof.Machine.execPfmsg vf s
  | .mailboxBadop vf => Sys2Proof.Machine.execMailboxBadop vf s
  | .pfMailboxAnswer vf status reply => Sys2Proof.Machine.execPfMailboxAnswer vf status reply s
  | .apply vf => Sys2Proof.Machine.execApply vf s
  | .dissolve vf => Sys2Proof.Machine.execDissolve vf s
  | .getVersion vf => Sys2Proof.Machine.execGetVersion vf s
  | .getCapabilities vf => Sys2Proof.Machine.execGetCapabilities vf s
  | .negotiateAlgorithms vf => Sys2Proof.Machine.execNegotiateAlgorithms vf s
  | .getDigests vf => Sys2Proof.Machine.execGetDigests vf s
  | .getCertificate vf => Sys2Proof.Machine.execGetCertificate vf s
  | .challenge vf => Sys2Proof.Machine.execChallenge vf s
  | .getMeasurements vf => Sys2Proof.Machine.execGetMeasurements vf s
  | .keyExchange vf => Sys2Proof.Machine.execKeyExchange vf s
  | .finish vf session => Sys2Proof.Machine.execFinish vf session s
  | .endSession vf session => Sys2Proof.Machine.execEndSession vf session s
  | .keySlotLoad vf session slot key model => Sys2Proof.Machine.execKeySlotLoad vf session slot key model s
  | .keySlotClear vf session slot => Sys2Proof.Machine.execKeySlotClear vf session slot s
  | .hostRead vf addr n => Sys2Proof.Machine.execHostRead vf addr n s
  | .hostWrite vf addr bytes => Sys2Proof.Machine.execHostWrite vf addr bytes s
  | .hostAtomicop vf addr op w x cmp => Sys2Proof.Machine.execHostAtomicop vf addr op w x cmp s
  | .bar0Write vf off bytes relaxed => Sys2Proof.Machine.execBar0Write vf off bytes relaxed s
  | .tbaseWrite vf v => Sys2Proof.Machine.execTbaseWrite vf v s
  | .tsizeWrite vf v => Sys2Proof.Machine.execTsizeWrite vf v s
  | .twidxWrite vf v => Sys2Proof.Machine.execTwidxWrite vf v s
  | .tridxWrite vf v => Sys2Proof.Machine.execTridxWrite vf v s
  | .traceControlWrite vf v => Sys2Proof.Machine.execTraceControlWrite vf v s
  | .debuggerAttach => Sys2Proof.Machine.execDebuggerAttach s
  | .debugStop g => Sys2Proof.Machine.execDebugStop g s
  | .debugResume u at_ => Sys2Proof.Machine.execDebugResume u at_ s
  | .debugAccess g what => Sys2Proof.Machine.execDebugAccess g what s
  | .debuggerKill u => Sys2Proof.Machine.execDebuggerKill u s
  | .startSequence results => Sys2Proof.Machine.execStartSequence results s
  | .clearstart => Sys2Proof.Machine.execClearstart s
  | .droopStretch cl => Sys2Proof.Machine.execDroopStretch cl s
  | .stretchRelease cl => Sys2Proof.Machine.execStretchRelease cl s
  | .powerLimitStretch => Sys2Proof.Machine.execPowerLimitStretch s
  | .powerLimitRelease => Sys2Proof.Machine.execPowerLimitRelease s
  | .softError what => Sys2Proof.Machine.execSoftError what s
  | .loadReturn k => Sys2Proof.Machine.execLoadReturn k s
  | .pfFunctionLevelReset => Sys2Proof.Machine.execPfFunctionLevelReset s

end Sys2Proof.Machine
end

