-- ==== Sys2Proof/Machine/Uses.lean ====
section
/-! DEFINITION. What instructions name beside their effects: the registers they read and write, the accesses that they order (06 R127,
R129, R143), and the words of a cluster's engines (25 R440). -/
namespace Sys2Proof.Machine

/-! ### Registers -/

/-- The registers that an instruction names: scalar ones read and written, vector sources (10 R206) and vector destinations. -/
structure Uses where
  reads : List (BitVec 5) := []
  writes : List (BitVec 5) := []
  sources : List (BitVec 5) := []
  dests : List (BitVec 5) := []
deriving DecidableEq, Repr

/-- Argument registers of spawn, start and rfork: n from a register of the window on (11 R255). -/
def argRegs (b : BitVec 4) (n : BitVec 3) : List (BitVec 5) := (List.range n.toNat).map (fun i => BitVec.ofNat 5 (b.toNat + i))
/-- Operands of a vector instruction whose b is a scalar register or a vector source (10 R206). -/
def operands (scalar : Bool) (srcs : List (BitVec 5)) (b : BitVec 5) (dests : List (BitVec 5)) : Uses :=
  if scalar then { reads := [b], sources := srcs, dests := dests } else { sources := srcs ++ [b], dests := dests }

/-- The registers that an instruction names by its encoding. A step of the device names none. -/
def usesOf (i : Instr) : Uses :=
  match i with
  | .add d a b | .sub d a b | .and d a b | .or d a b | .xor d a b | .andn d a b | .sll d a b | .srl d a b | .sra d a b
  | .addw d a b | .subw d a b | .min d a b | .max d a b | .minn d a b | .maxn d a b | .mul d a b | .mulh d a b
  | .mulhn d a b | .div d a b | .divn d a b | .rem d a b | .remn d a b | .mulw d a b | .divw d a b | .remw d a b
  | .rotl d a b | .rotr d a b | .bext d a b | .bdep d a b | .seq d a b | .sne d a b | .slt d a b | .sltn d a b
  | .fadd _ _ d a b | .fsub _ _ d a b | .fmul _ _ d a b | .fdiv _ _ d a b | .fmin _ d a b | .fmax _ d a b
  | .fsgnj _ d a b | .fsgnjn _ d a b | .feq _ d a b | .flt _ d a b | .fle _ d a b | .funord _ d a b
  | .ldIndexed _ _ _ d a b _ | .amoadd _ _ _ _ d a b _ | .amoand _ _ _ _ d a b _ | .amoor _ _ _ _ d a b _
  | .amoxor _ _ _ _ d a b _ | .amoswap _ _ _ _ d a b _ | .amomin _ _ _ _ d a b _ | .amomax _ _ _ _ d a b _
  | .amominn _ _ _ _ d a b _ | .amomaxn _ _ _ _ d a b _ | .amofadd _ _ _ _ d a b _ | .qinit d a b | .evget d a b =>
    { reads := [a, b], writes := [d] }
  | .addi d a _ | .addiLit d a _ | .andi d a _ | .ori d a _ | .xori d a _ | .slli d a _ | .srli d a _ | .srai d a _
  | .clz d a | .ctz d a | .popc d a | .rev8 d a | .fsqrt _ _ d a | .fcvt _ _ d a | .ftoi _ _ d a | .ftoiw _ _ d a
  | .fton _ _ d a | .ftonw _ _ d a | .itof _ _ d a | .ntof _ _ d a | .fround _ _ d a | .fclass _ d a | .ld d a _
  | .ldX _ _ _ d a _ | .cstat d a | .qwait d a | .qstat d a | .qrec d a | .evsum d a | .evclkClock d a
  | .evclkCount d a | .evhorBound d a | .evhorCommit d a | .evhorStatus d a =>
    { reads := [a], writes := [d] }
  | .li d _ | .liLit d _ | .srr d _ | .mpop d _ | .hinfo d _ | .pwait d _ | .horz d | .getlid d =>
    { writes := [d] }
  | .sel d a b =>
    { reads := [d, a, b], writes := [d] }
  | .ffma _ _ d a b c | .ffms _ _ d a b c | .ffnma _ _ d a b c | .amocas _ _ _ _ d a b c _ =>
    { reads := [a, b, c], writes := [d] }
  | .beq a b _ | .bne a b _ | .blt a b _ | .bge a b _ | .bltn a b _ | .bgen a b _ | .bany a b _ | .bnone a b _
  | .redadd _ _ _ a b _ | .redmin _ _ _ a b _ | .redmax _ _ _ a b _ | .redand _ _ _ a b _ | .redor _ _ _ a b _
  | .redxor _ _ _ a b _ | .redfadd _ _ _ a b _ | .medge _ _ a b | .psend _ _ _ a b | .gjoin a b | .barinit a b =>
    { reads := [a, b] }
  | .jr a | .callr _ a | .trap a | .tlbinv a | .srw a _ | .perfStop a | .cwait a | .sleepu a _ | .keyset a | .budset a
  | .gleave a | .bararr a | .barwait a =>
    { reads := [a] }
  | .ret =>
    { reads := [15#5] }
  | .st d a _ | .stX _ _ _ d a _ =>
    { reads := [d, a] }
  | .stIndexed _ _ _ d a b _ =>
    { reads := [d, a, b] }
  | .vadd _ sc _ d a b | .vsub _ sc _ d a b | .vmul _ sc _ d a b | .vmulh _ sc _ d a b | .vmin _ sc _ d a b
  | .vmax _ sc _ d a b | .vand _ sc _ d a b | .vor _ sc _ d a b | .vxor _ sc _ d a b | .vsll _ sc _ d a b
  | .vsrl _ sc _ d a b | .vsra _ sc _ d a b | .vaddsat _ sc _ d a b | .vsubsat _ sc _ d a b | .vfadd _ _ sc _ d a b
  | .vfsub _ _ sc _ d a b | .vfmul _ _ sc _ d a b | .vfdiv _ _ sc _ d a b | .vfmin _ sc _ d a b | .vfmax _ sc _ d a b =>
    operands sc [a] b [d]
  | .vmov _ _ d a | .vfsqrt _ _ _ d a | .vslide _ _ d a _ | .vcvt _ _ _ d a _ _ =>
    { sources := [a], dests := [d] }
  | .vli _ _ d _ =>
    { dests := [d] }
  | .vffma _ _ sc _ d a b c =>
    operands sc [a, c] b [d]
  | .vcmpeq _ sc _ _ a b | .vcmpne _ sc _ _ a b | .vcmplt _ sc _ _ a b | .vcmple _ sc _ _ a b =>
    operands sc [a] b []
  | .vsel _ _ d a b | .vperm _ _ d a b =>
    { sources := [a, b], dests := [d] }
  | .vld _ _ _ _ d a _ | .vbcast _ _ d a =>
    { reads := [a], dests := [d] }
  | .vst _ _ _ _ d a _ =>
    { reads := [a], sources := [d] }
  | .vlds _ _ _ _ d a b _ =>
    { reads := [a, b], dests := [d] }
  | .vsts _ _ _ _ d a b _ =>
    { reads := [a, b], sources := [d] }
  | .vgath _ _ _ _ d a b _ _ =>
    { reads := [a], sources := [b], dests := [d] }
  | .vscat _ _ _ _ d a b _ _ =>
    { reads := [a], sources := [b, d] }
  | .vredsum _ _ _ d a | .vredmin _ _ d a | .vredmax _ _ d a | .vext _ d a _ =>
    { writes := [d], sources := [a] }
  | .hsend core _ _ _ =>
    { reads := [core] }
  | .kset _ v =>
    { reads := match v with | .reg a => [a] | .imm _ => [] }
  | .tld _ _ _ _ _ a c _ | .tst _ _ _ _ a c _ _ _ =>
    { reads := [a, c] }
  | .c1d _ _ _ d a b c e | .c2d _ _ _ d a b c e | .c3d _ _ _ d a b c e | .cfill _ _ _ d a b c e =>
    { reads := [a, b, c, e], writes := [d] }
  | .ctileLd _ _ _ d a _ e | .ctileSt _ _ _ d a _ e =>
    { reads := [a, e], writes := [d] }
  | .cunseal _ _ _ tile d a b c e =>
    { reads := (if tile then [] else [a]) ++ [b, c, e], writes := [d] }
  | .spawn d a b c e _ n _ | .rfork d a b c e _ n =>
    { reads := [a, c, e] ++ argRegs b n, writes := [d] }
  | .start d b c e _ n =>
    { reads := [c, e] ++ argRegs b n, writes := [d] }
  | .csend _ _ _ a b _ =>
    { reads := [a], sources := [b] }
  | .bind c e _ _ _ =>
    { reads := [c, e] }
  | .qarr a con =>
    { reads := [a], sources := match con with | .none => [] | .vec _ b => [b] }
  | .evcfg _ _ _ _ a b c e =>
    { reads := [a, b, c, e] }
  | .evset a b v | .evadd a b v =>
    { reads := a :: b :: (match v with | .reg c => [c] | .imm _ | .lit _ => []) }
  | .evnext _ _ _ _ d a c e =>
    { reads := [a], writes := [d, c, e] }
  | .evsched d a b c e =>
    { reads := [d, a, b, c, e] }
  | .evlook a b c _ =>
    { reads := [a, b, c] }
  | _ => {}

/-- The window to which an instruction slides that fills lines of the register cache: a call's, a return's, and its own for a trap
return (07 R156). -/
def State.windowTo (s : State) (i : Instr) : Option Word :=
  let wb := s.me.rf.wbase
  match i with
  | .call n _ | .callr n _ => some (wb + BitVec.ofNat 64 (8 * n.toNat))
  | .ret => some (wb - ((s.x 15#5).extractLsb' 56 4).setWidth 64 <<< 3)
  | .tret => some wb
  | _ => none
/-- The stack slot of a call's link, in the window that it slides to (08 R184). -/
def Task.linkSlot (t : Task) (i : Instr) : List Nat :=
  match i with
  | .call n _ | .callr n _ => [t.slotOf (n.toNat + 15)]
  | _ => []
/-- The stack slots of registers of the window. -/
def Task.slotsOf (t : Task) (rs : List (BitVec 5)) : List Nat :=
  (rs.filter (fun r => decide (r.toNat < 16))).map (fun r => t.slotOf r.toNat)

/-! ### Order -/

/-- Whether every earlier load of the task is performed before an instruction: a release with what it carries (R127), an acquire fence,
drainst and waitc (R129), a copy or Garnet command with flags (R142), and the creation of a task (11 R244). -/
def closesLoads (i : Instr) : Bool :=
  match i with
  | .stX _ rel _ _ _ _ | .stIndexed _ rel _ _ _ _ _ | .vst _ rel _ _ _ _ _ | .vsts _ rel _ _ _ _ _ _ | .vscat _ rel _ _ _ _ _ _ _
  | .tst _ rel _ _ _ _ _ _ _ | .psend rel _ _ _ _ | .csend _ rel _ _ _ _
  | .redadd _ rel _ _ _ _ | .redmin _ rel _ _ _ _ | .redmax _ rel _ _ _ _ | .redand _ rel _ _ _ _ | .redor _ rel _ _ _ _
  | .redxor _ rel _ _ _ _ | .redfadd _ rel _ _ _ _
  | .amoadd _ _ rel _ _ _ _ _ | .amoand _ _ rel _ _ _ _ _ | .amoor _ _ rel _ _ _ _ _ | .amoxor _ _ rel _ _ _ _ _
  | .amoswap _ _ rel _ _ _ _ _ | .amocas _ _ rel _ _ _ _ _ _ | .amomin _ _ rel _ _ _ _ _ | .amomax _ _ rel _ _ _ _ _
  | .amominn _ _ rel _ _ _ _ _ | .amomaxn _ _ rel _ _ _ _ _ | .amofadd _ _ rel _ _ _ _ _ => rel
  | .c1d acq rel _ _ _ _ _ _ | .c2d acq rel _ _ _ _ _ _ | .c3d acq rel _ _ _ _ _ _ | .ctileLd acq rel _ _ _ _ _
  | .ctileSt acq rel _ _ _ _ _ | .cfill acq rel _ _ _ _ _ _ | .cunseal acq rel _ _ _ _ _ _ _
  | .evcfg _ acq rel _ _ _ _ _ | .evnext _ acq rel _ _ _ _ _ => acq || rel
  | .fence acq _ _ => acq
  | .drainst | .waitc _ | .exit | .spawn _ _ _ _ _ _ _ _ | .start _ _ _ _ _ _ | .rfork _ _ _ _ _ _ _
  | .bararr _ | .barwait _ | .qarr _ _ | .hsend _ _ _ _ => true
  | _ => false
/-- Whether a later load of the task is performed after an instruction: an acquire, by its flag or as a wait that is one (R127, R129,
R143; 11 R244; 13 R275), a vector source that is a channel head among them (10 R208). -/
def acquires (i : Instr) : Bool :=
  (match i with
  | .ldX _ acq _ _ _ _ | .ldIndexed _ acq _ _ _ _ _ | .vld _ acq _ _ _ _ _ | .vlds _ acq _ _ _ _ _ _ | .vgath _ acq _ _ _ _ _ _ _
  | .tld _ _ acq _ _ _ _ _ | .amoadd _ acq _ _ _ _ _ _ | .amoand _ acq _ _ _ _ _ _ | .amoor _ acq _ _ _ _ _ _
  | .amoxor _ acq _ _ _ _ _ _ | .amoswap _ acq _ _ _ _ _ _ | .amocas _ acq _ _ _ _ _ _ _ | .amomin _ acq _ _ _ _ _ _
  | .amomax _ acq _ _ _ _ _ _ | .amominn _ acq _ _ _ _ _ _ | .amomaxn _ acq _ _ _ _ _ _ | .amofadd _ acq _ _ _ _ _ _
  | .fence acq _ _ => acq
  | .drainst | .waitc _ | .cwait _ | .trejoin _ _ _ | .barwait _ | .qwait _ _ | .pwait _ _ => true
  | _ => false) || (usesOf i).sources.any (fun v => decide (28 ≤ v.toNat))
/-- Whether an instruction writes memory without a release of its own: with a release fence before it, it is a release (R127). -/
def plainWrite (i : Instr) : Bool :=
  match i with
  | .st _ _ _ | .stX _ _ _ _ _ _ | .stIndexed _ _ _ _ _ _ _ | .vst _ _ _ _ _ _ _ | .vsts _ _ _ _ _ _ _ _ | .vscat _ _ _ _ _ _ _ _ _
  | .tst _ _ _ _ _ _ _ _ _ | .perfStop _
  | .redadd _ _ _ _ _ _ | .redmin _ _ _ _ _ _ | .redmax _ _ _ _ _ _ | .redand _ _ _ _ _ _ | .redor _ _ _ _ _ _
  | .redxor _ _ _ _ _ _ | .redfadd _ _ _ _ _ _
  | .amoadd _ _ _ _ _ _ _ _ | .amoand _ _ _ _ _ _ _ _ | .amoor _ _ _ _ _ _ _ _ | .amoxor _ _ _ _ _ _ _ _
  | .amoswap _ _ _ _ _ _ _ _ | .amocas _ _ _ _ _ _ _ _ _ | .amomin _ _ _ _ _ _ _ _ | .amomax _ _ _ _ _ _ _ _
  | .amominn _ _ _ _ _ _ _ _ | .amomaxn _ _ _ _ _ _ _ _ | .amofadd _ _ _ _ _ _ _ _
  | .c1d _ _ _ _ _ _ _ _ | .c2d _ _ _ _ _ _ _ _ | .c3d _ _ _ _ _ _ _ _ | .ctileSt _ _ _ _ _ _ _ | .cfill _ _ _ _ _ _ _ _
  | .cunseal _ _ _ _ _ _ _ _ _ => true
  | _ => false
/-- Whether an instruction is a release fence. -/
def releaseFence (i : Instr) : Bool := match i with | .fence _ rel _ => rel | _ => false

/-! ### Words of the engines, 25 R440 -/

/-- What an identifier register names of the sync engines. -/
def State.syncWord (s : State) (a : BitVec 5) (cell : Bool) : List (Nat × EngineWord) :=
  match (s.part s.me.tid.vf).syncRef (clusterOf s.me.pl.core) (s.x a) cell false with
  | some (cl, e) => [(cl, if cell then .cell e else .group e)]
  | none => []
/-- What a region id names: the region, and of its leaves those of a range of places. -/
def State.garnetWords (s : State) (a : BitVec 5) (from_ n : Nat) : List (Nat × EngineWord) :=
  match s.updRegion s.cur (s.x a) with
  | none => []
  | some (cl, r) =>
    (cl, .region r) :: (match s.region cl r with
      | none => []
      | some x => ((s.cluster cl).bad.filter (fun w => match w with
          | .leaf i => decide (x.base + from_ ≤ i) && decide (i < x.base + min x.leaves (from_ + n))
          | _ => false)).map (fun w => (cl, w)))
/-- The words of the engines that an instruction of the acting task consumes; a task's first consumes its queue entry. -/
def State.engineReads (s : State) (i : Instr) : List (Nat × EngineWord) :=
  let here := clusterOf s.me.pl.core
  (here, .queue s.cur) :: (match i with
    | .gjoin a _ | .gleave a | .bararr a | .barwait a => s.syncWord a false
    | .qarr a _ | .qwait _ a | .qstat _ a | .qrec _ a => s.syncWord a true
    | .evadd a b _ | .evget _ a b => s.garnetWords a (s.x b).toNat 1
    | .evsum _ a | .evnext _ _ _ _ _ a _ _ => s.garnetWords a 0 262144
    | .evset a _ _ | .evsched _ a _ _ _ | .evclkClock _ a | .evclkCount _ a | .evhorBound _ a | .evhorCommit _ a | .evhorStatus _ a
    | .evlook a _ _ _ => s.garnetWords a 0 0
    | .trejoin _ a _ => [(here, .lineage (hLin (s.me.hreg a)))]
    | .tfree a => if hLk (s.me.hreg a) then [(here, .lineage (hLin (s.me.hreg a)))] else []
    | _ => [])
/-- Those that it writes whole. -/
def State.engineWrites (s : State) (i : Instr) : List (Nat × EngineWord) :=
  match i with
  | .barinit a _ => s.syncWord a false
  | .qinit _ a _ => s.syncWord a true
  | .evset a b _ => (s.garnetWords a (s.x b).toNat 1).drop 1
  | .evcfg _ _ _ _ a _ _ _ => s.garnetWords a 0 262144
  | _ => []
/-- The unit code of a word of the engines. -/
def engineUnit : EngineWord → Nat
  | .leaf _ | .region _ => 7
  | .group _ | .cell _ | .lineage _ | .queue _ => 8
/-- MCHK of a word that no load and no fetch consumes: a record of the store-fault queue (07 R163). -/
def State.poisonRecord (s : State) (unit : Nat) : State :=
  let t := s.me
  let r := faultRec t.rf.pc t.tid.lid cMCHK 0 0 0xF#4 0#64 t.pl.retired
  s.onMe (·.onIo (fun o => pushFault o { r with detail := BitVec.ofNat 8 unit }))
/-- What an instruction of the acting task consumes of its poisoned stack slots and of the engines' poisoned words makes a record for
each, and the poison is gone; what it writes whole is no longer poisoned. Log entry 30 (DEDUCED). -/
def State.consumeBad (s : State) (i : Instr) : State :=
  let t := s.me
  if t.rf.bad.isEmpty && s.clusters.all (fun c => c.2.bad.isEmpty) then s
  else
    let u := usesOf i
    let rs := t.slotsOf u.reads
    let gone := rs ++ t.slotsOf u.writes ++ t.linkSlot i
    let words := s.engineReads i
    let all := words ++ s.engineWrites i
    let units := ((t.rf.bad.filter rs.contains).map (fun _ => 5)) ++
      (((words.filter (fun w => (s.cluster w.1).bad.contains w.2)).dedup).map (fun w => engineUnit w.2))
    let s := s.onMe (·.onRf (fun f => { f with bad := f.bad.filter (fun k => !gone.contains k) }))
    let s : State := { s with clusters := s.clusters.map (fun c => (c.1, { c.2 with bad := c.2.bad.filter (fun w => !all.contains (c.1, w)) })) }
    units.foldl State.poisonRecord s

end Sys2Proof.Machine
end

