-- ==== Sys2Proof/Machine/Sched.lean ====
section
/-! DEFINITION. What happens next. The agenda names the next steps; where it is empty the model's own scheduler takes a step
that the state has pending, in turn, so that every choice the device has can be written into an agenda and no pending step
waits for ever. Then what an issue does before its instruction executes. -/
namespace Sys2Proof.Machine

/-- The steps that the device takes by itself. -/
inductive DevStep where
  | postMessageArrival (k : Nat)
  | channelEntryArrival (g : Nat)
  | budgetExhausted (u : Nat)
  | horizonHolderSwitchOut (g : Nat)
  | horizonUpdate (g : Nat)
  | commit
  | orderedAbort (u : Nat)
  | kill (u : Nat)
  | storePerformed (u k : Nat)
  | updateCopyEviction (k : Nat)
  | replicaApply (die k : Nat)
  | pinLift (k : Nat)
  | copyBeat (cl : Nat)
  | tileComplete (g k : Nat)
  | hsendLanded (k : Nat)
  | barrierRelease (cl ent : Nat)
  | quorumDeadline (cl cell : Nat)
  | deadlinePass (u : Nat)
  | garnetUpdate (u : Nat)
  | launchPlace
  | priorityAging (l : Nat)
  | sliceExpiry (l : Nat)
  | preemption (l : Nat)
  | graceExpiry (l : Nat)
  | coopHandlerBudgetEnd (u : Nat)
  | registerCacheSwap (g : Nat)
  | launchEnd (l : Nat)
  | gangReservation (l : Nat) (last : BitVec 64)
  | gangGo (l : Nat)
  | gangStart (l : Nat)
  | loadReturn (k : Nat)
  | taskDispatch (g : Nat)
deriving DecidableEq, Repr
/-- Take one of them: the meaning of its row. -/
def DevStep.run (d : DevStep) (s : State) : Host.Outcome State Fault Refusal :=
  match d with
  | .postMessageArrival k => execPostMessageArrival k s
  | .channelEntryArrival g => execChannelEntryArrival g s
  | .budgetExhausted u => execBudgetExhausted u s
  | .horizonHolderSwitchOut g => execHorizonHolderSwitchOut g s
  | .horizonUpdate g => execHorizonUpdate g s
  | .commit => execCommit s
  | .orderedAbort u => execOrderedAbort u s
  | .kill u => execKill u s
  | .storePerformed u k => execStorePerformed u k s
  | .updateCopyEviction k => execUpdateCopyEviction k s
  | .replicaApply die k => execReplicaApply die k s
  | .pinLift k => execPinLift k s
  | .copyBeat cl => execCopyBeat cl s
  | .tileComplete g k => execTileComplete g k s
  | .hsendLanded k => execHsendLanded k s
  | .barrierRelease cl ent => execBarrierRelease cl ent s
  | .quorumDeadline cl cell => execQuorumDeadline cl cell s
  | .deadlinePass u => execDeadlinePass u s
  | .garnetUpdate u => execGarnetUpdate u s
  | .launchPlace => execLaunchPlace s
  | .priorityAging l => execPriorityAging l s
  | .sliceExpiry l => execSliceExpiry l s
  | .preemption l => execPreemption l s
  | .graceExpiry l => execGraceExpiry l s
  | .coopHandlerBudgetEnd u => execCoopHandlerBudgetEnd u s
  | .registerCacheSwap g => execRegisterCacheSwap g s
  | .launchEnd l => execLaunchEnd l s
  | .gangReservation l last => execGangReservation l last s
  | .gangGo l => execGangGo l s
  | .gangStart l => execGangStart l s
  | .loadReturn k => execLoadReturn k s
  | .taskDispatch g => execTaskDispatch g s

/-- Steps that one task has pending. -/
def State.taskSteps (s : State) (p : Nat × Task) : List DevStep :=
  let u := p.1
  let t := p.2
  (if t.pl.doomed then [.orderedAbort u] else []) ++
  (List.range (s.storeParts u).length).map (fun k => .storePerformed u k) ++
  (if t.io.upds.isEmpty then [] else [.garnetUpdate u]) ++
  (if t.pl.pend.isSome then [.kill u] else []) ++
  (if !t.tid.ord && !t.pl.passed && decide (t.sy.key.toNat ≤ s.dtime.toNat) then [.deadlinePass u] else []) ++
  (if t.broke then [if t.tid.handler then .coopHandlerBudgetEnd u else .budgetExhausted u] else [])
/-- Steps that one core has pending. -/
def coreSteps (p : Nat × CoreSt) : List DevStep :=
  (if p.2.inbuf.isEmpty then [] else [.channelEntryArrival p.1]) ++
  (List.range p.2.tileq.length).map (fun k => .tileComplete p.1 k)
/-- Steps that one cluster has pending. -/
def State.clusterSteps (s : State) (p : Nat × ClusterSt) : List DevStep :=
  (if p.2.copyq.isEmpty then [] else [.copyBeat p.1]) ++
  ((p.2.groups.filter (fun g => g.2.st == .barrier && (g.2.out != g.2.phase || !(s.arrivals g.2).isEmpty))).map (fun g => .barrierRelease p.1 g.1)) ++
  ((p.2.cells.filter (fun c => s.cellDue c.2)).map (fun c => .quorumDeadline p.1 c.1))
/-- Steps that one launch has pending. -/
def State.launchSteps (s : State) (p : Nat × Launch) : List DevStep :=
  let l := p.1
  let x := p.2
  match x.st with
  | .queued => (if 1000000 * (x.aged + 1) ≤ s.queuedFor x then [.priorityAging l] else []) ++
      (if s.heldLaunch l then [.sliceExpiry l] else [])
  | .reserved => (if x.gangC == 0#64 then [.gangReservation l s.dtime] else [.gangGo l]) ++ (if x.gangGo then [.gangStart l] else [])
  | .running =>
      (if x.preempt == 0 && s.launches.any (fun h => s.heldLaunch h.1 && decide (h.2.eff < x.eff) && s.blocksLaunch l h.1)
        then [.preemption l] else []) ++
      (if x.preempt == 2 then [.graceExpiry l] else []) ++
      (if x.preempt == 5 || x.preempt == 6 then (x.cores.take 1).map (fun g => .registerCacheSwap g) else []) ++
      (if s.launchBusy l then [] else [.launchEnd l])
  | .out => (if s.heldLaunch l then [.sliceExpiry l] else []) ++ (if s.launchBusy l then [] else [.launchEnd l])
  | _ => []
/-- Every step that the device has pending by itself. -/
def State.pendingSteps (s : State) : List DevStep :=
  let queued := (s.tasks.filter (fun p => p.2.pl.life == .queued || p.2.pl.life == .unqueued ||
    (p.2.pl.life == .resident && p.2.pl.run == .out))).map (fun p => p.2.pl.core)
  queued.dedup.map (fun g => .taskDispatch g) ++
  s.tasks.flatMap s.taskSteps ++ (List.range s.loadPlaces.length).map (fun k => .loadReturn k) ++ s.cores.flatMap coreSteps ++ s.clusters.flatMap s.clusterSteps ++
  s.launches.flatMap s.launchSteps ++
  (List.range s.msgs.length).map (fun k => .postMessageArrival k) ++
  (List.range s.ms.reds.length).map (fun k => .updateCopyEviction k) ++
  (List.range s.ms.pins.length).map (fun k => .pinLift k) ++
  (s.ms.flights.map (·.die)).dedup.flatMap (fun d => (List.range (s.flightsTo d).length).map (fun k => .replicaApply d k)) ++
  (List.range s.carriedCopies.length).map (fun k => .hsendLanded k) ++
  (if s.committer.isSome || s.allRegions.any (fun p => match s.region p.1 p.2 with
      | some x => x.log.any (fun (e : LogEnt) => e.owner == 0 || (Map.get? s.tasks e.owner).isNone) || x.held.isSome
      | none => false) then [.commit] else []) ++
  ((s.tasks.filter (fun p => p.2.tid.ord)).map (fun p => p.2.pl.core)).dedup.flatMap
    (fun g => [.horizonUpdate g, .horizonHolderSwitchOut g]) ++
  (if s.serviceable.isEmpty then [] else [.launchPlace])

/-! ### Loads before an instruction, 06 R127, R129 -/

/-- Whether an instruction names a load's register: the value it has then is its value. -/
def LoadEnt.named (e : LoadEnt) (t : Task) (i : Instr) : Bool :=
  let u := usesOf i
  match e.dst, e.slot with
  | .x _ _, some k => (t.slotsOf (u.reads ++ u.writes) ++ t.linkSlot i).contains k
  | .x d _, none => (u.reads ++ u.writes).contains d
  | .v d _, _ => (u.sources ++ u.dests).contains d
/-- A load after an instruction that does not name its register: performed where the instruction orders it, where it is an acquire, or
where the lines of the register cache move under its stack slot; a release fence that stands between it and a write orders it. -/
def LoadEnt.past (e : LoadEnt) (moves : Bool) (i : Instr) : LoadEnt :=
  if closesLoads i || e.acq || (moves && e.slot.isSome) || (e.fenced && plainWrite i) then { e with parts := [] }
  else if releaseFence i then { e with fenced := true }
  else e
/-- Whether an instruction of the acting task waits until loads that have returned bytes of the agenda are performed: those that it
orders before what follows (06 R127, R129). -/
def State.mustRedeem (s : State) (i : Instr) : Bool := (closesLoads i || releaseFence i) && s.owes s.cur
/-- Before an instruction of the acting task: a load whose register it names has returned, with the write of an AMO that the host agent
has read for (06 R140); what it orders is performed, and after an acquire nothing that was read ahead is taken (06 R127, R129). -/
def State.closeLoads (s : State) (i : Instr) : State :=
  let t := s.me
  let o := t.io
  if o.lq.isEmpty && o.early.isEmpty then s
  else
    let moves := match s.windowTo i with
      | some wb => !(t.rf.missing wb).isEmpty
      | none => false
    let back := o.lq.filter (·.named t i)
    let keep := (o.lq.filter (fun e => !e.named t i)).map (·.past moves i)
    let s := s.onMe (·.onIo (fun o => { o with lq := keep, early := if acquires i then [] else o.early }))
    back.foldl (fun s e => if e.write.isEmpty then s
      else s.writeCells s.me.tid.vf (dieOf s.me.pl.core) s.cur (if s.me.tid.ord then some s.me.pair else none) e.write) s

/-! ### Issue, 01 R18 -/

/-- The port of an instruction by its major, 01 R18: 0 scalar, 1 vector, 2 engine command. Log entry 93 (DEDUCED). -/
def portOf (major : Nat) : Nat :=
  if 0x20 ≤ major ∧ major ≤ 0x26 then 1 else if 0x28 ≤ major ∧ major ≤ 0x35 then 2 else 0
/-- The port of a task's next instruction; scalar where it cannot be fetched. -/
def State.portNext (s : State) (u : Nat) : Nat :=
  match ({ s with cur := u }).fetchWords (s.task u).rf.pc 1 with
  | (.ok ws, _) => portOf ((ws.headD 0#32).extractLsb' 2 6).toNat
  | _ => 0
/-- Whether a task is the horizon holder and has not issued for 64 ns, so that its port is its own (11 R234). -/
def State.holderDue (s : State) (u : Nat) : Bool :=
  let t := s.task u
  t.tid.ord && decide (64 ≤ (s.dtime - t.pl.issuedAt).toNat) && s.isHolder u
/-- Whether a context that waits at issue would go on if it issued now: its wait is over, and it is READY (07 R152). -/
def State.waitOver (s : State) (u : Nat) : Bool :=
  let goes (s : State) : Bool := (s.task u).pl.life != .resident || (s.task u).pl.run != .wait
  match ({ s with cur := u }).nextIssue with
  | .error s => goes s
  | .ok (i, s) =>
    !s.mustRedeem i && (match exec i ((s.closeLoads i).consumeBad i) with
      | .next s => goes s
      | _ => true)
/-- READY tasks of a task's core that come before it at a port both use: by key, then by context number; the horizon holder whose
turn has come before all. One that waits at issue is READY once its wait is over (07 R152). -/
def State.rivals (s : State) (u : Nat) : List Nat :=
  let t := s.task u
  let lower (p : Nat × Task) : Bool :=
    decide (p.2.sy.key.toNat < t.sy.key.toNat) || (p.2.sy.key == t.sy.key && decide (p.2.pl.ctx < t.pl.ctx))
  if s.holderDue u then []
  else (s.tasks.filter (fun p => p.1 != u && p.2.pl.life == .resident && p.2.pl.run != .out && !p.2.pl.stopped &&
    !p.2.pl.doomed && p.2.pl.core == t.pl.core && (lower p || s.holderDue p.1) && (p.2.pl.run == .ready || p.2.pl.answer || s.waitOver p.1))).map (·.1)
/-- Whether a task is first at its port, R18, R20; one whose instruction waits at issue takes its turn as a READY one does. -/
def State.atPort (s : State) (u : Nat) : Bool :=
  let rs := s.rivals u
  rs.isEmpty || (let p := s.portNext u; rs.all (fun v => s.portNext v != p))
/-- Tasks that may issue. -/
def State.issuers (s : State) : List Nat :=
  ((s.tasks.filter (fun p => p.2.pl.life == .resident && p.2.pl.run != .out && !p.2.pl.stopped)).map (·.1)).filter s.atPort
/-- What is next: a step of the device by itself, or an act of the agenda. -/
inductive Pick where
  | dev (d : DevStep)
  | act (a : Act)
deriving DecidableEq, Repr
/-- The choices of the scheduler: a pending step, an issue, or a tick of device time. Log entry 2 (DESIGN CHOICE). -/
def State.choices (s : State) : List Pick :=
  s.pendingSteps.map .dev ++ s.issuers.map (fun u => .act (.issue u)) ++
  (List.range s.ms.owed.length).map (fun k => .act (.redeem k)) ++ [.act (.tick 1)]
/-- The next act, and the state that has chosen it. -/
def State.nextPick (s : State) : Pick × State :=
  match s.agenda with
  | a :: rest => (.act a, { s with agenda := rest })
  | [] =>
    let cs := s.choices
    ((cs[s.turn % cs.length]?).getD (.act (.tick 1)), { s with turn := s.turn + 1 })

/-- Whether a row is a step of the device: it has no words (spec/95). Log entry 14 (DESIGN CHOICE). -/
def isDeviceStep (i : Instr) : Bool := (encodeRaw i).isNone

/-- Device time passes; cells whose deadline has come release (13 R282). Log entry 13 (DESIGN CHOICE). -/
def State.elapse (s : State) (n : Nat) : State := (s.pass n).dueCells

/-- What an issue comes to. -/
inductive Issued where
  | run (i : Instr) (s : State)
  | done (s : State)
  | nobody
deriving DecidableEq, Repr
/-- Time passes until a cluster's next cycle begins: 1 ns, or 2 where a stretched cycle does not end sooner (25 R439). -/
def State.nextCycle (s : State) (cl : Nat) : State :=
  let s' := s.elapse 1
  if s'.cycleOf cl == s.cycleOf cl then s'.elapse 1 else s'
/-- A task takes its port for the cycle: where the port has issued in this cycle, the next one begins (01 R18). One context may take two
ports in one cycle. Log entry 110 (DESIGN CHOICE). -/
def State.takePort (s : State) (u : Nat) : State :=
  let t := s.task u
  let p := s.portNext u
  let g := t.pl.core
  let cl := clusterOf g
  let c := s.coreSt g
  let s := if c.cycle == s.cycleOf cl && c.ports.contains p then s.nextCycle cl else s
  let s := if t.tid.ord then s.updTask u (·.onPl (fun p => { p with issuedAt := s.dtime })) else s
  s.onCore g (fun c => { c with cycle := s.cycleOf cl, ports := if c.cycle == s.cycleOf cl then p :: c.ports else [p] })

/-- A task's turn to issue: what comes first at its boundary, or its next instruction, if it is first at its port. Log entry 1
(DEDUCED). -/
def State.issue (s : State) (u : Nat) : Issued :=
  let t := s.task u
  if t.pl.life != .resident || t.pl.run == .out then .nobody
  else if !s.atPort u then .done s
  else
    let s := ({ s with cur := u }).takePort u
    if (Map.get? s.tasks u).isNone then .done s
    else
      match s.nextIssue with
      | .ok (i, s) => if s.mustRedeem i then .done s.block else .run i ((s.closeLoads i).consumeBad i)
      | .error s => .done s

/-! ### A program in place -/

/-- Addresses of `withWord`: the tables, the code page and the stack. -/
def bootRoot : Nat := 0x100000
def bootCode : Nat := 0x1000000
def bootStack : Word := 0x1180000#64
/-- The page tables of `withWord`: one 2 MiB page, mapped to itself with every permission (05 R119, R120). -/
def bootCells (bs : List Byte) : List Host.Cell :=
  let at_ (a : Nat) (w : Word) : List Host.Cell := (locRange a 8).zip (leBytes 8 w.toNat)
  at_ bootRoot 0x0000000000200001#64 ++ at_ 0x200000 0x0000000000201001#64 ++ at_ 0x201040 0x800000000100003B#64 ++
  (locRange bootCode bs.length).zip bs
/-- The partition of `withWord`. -/
def bootPart : Part :=
  { xroot := 0x100000#64, clusters := [0], slices := [0], links := [(0, 0)], perm := [1] }
/-- The launch of `withWord`. -/
def bootLaunch : Launch :=
  { vf := 1, num := 1#16, st := .running, entry := 0x1000000#64, n := 1, cores := [0, 1, 2, 3, 4, 5, 6, 7],
    spool := 0x1100000#64, scount := 1, ssize := 0x2400 }
/-- The task of `withWord`: resident and READY in context 1 of core 0. -/
def bootTask : Task :=
  { tid := { lid := 0x100000000#64, launch := 1, vf := 1, entry := 0x1000000#64 },
    pl := { core := 0, ctx := 1, life := .resident },
    rf := { pc := 0x1000000#64, wbase := bootStack, lines := [(0x23000, false)], slots := [] },
    sy := { stkbase := bootStack, stklim := 0x1180400#64 } }
/-- A state whose next step issues the instruction with these bytes: partition, launch and task stand as after the host's
APPLY, the host's stores, the commit of a launch, its placement and a dispatch; cached words and translations that could
hide the bytes are gone. Log entry 74 (DESIGN CHOICE). -/
def State.withWord (s : State) (bs : List Byte) : State :=
  { s with
    agenda := [.issue 1], cur := 1, nextUid := max 2 s.nextUid, mem := memPut s.mem (bootCells bs),
    ms := { s.ms with tlb := [], icache := [], poison := [], lagging := [], reds := [], pins := [], l1 := [], flights := [],
                      versions := [], keyed := [], base := [], ibad := [], owed := [] },
    tasks := Map.set s.tasks 1 bootTask, launches := Map.set s.launches 1 bootLaunch,
    clusters := s.clusters.map (fun c => (c.1, { c.2 with bad := [] })),
    vfs := Map.set s.vfs 1 { s.vf 1 with part := some bootPart } }
/-- The bytes of a table word: the first word at the lowest address, zeros up to the longest instruction. -/
def tableBytes (nbits w : Nat) : List Byte := (tableWords nbits w).flatMap bytes32

end Sys2Proof.Machine
end

