-- ==== Sys2Proof/Machine/Step.lean ====
section
/-! DEFINITION. One step of the device: a step of its own, an instruction of a task, or time. -/
namespace Sys2Proof.Machine

/-- One step: the next act of the agenda or of the scheduler. -/
def step (s : State) : Host.Outcome State Fault Refusal :=
  match s.nextPick with
  | (.dev d, s) => d.run s
  | (.act (.event i), s) => if isDeviceStep i then exec i s else .next s
  | (.act (.tick n), s) => .next (s.elapse n)
  | (.act (.walk u va), s) => .next (if (s.task u).live && !(s.task u).pl.saved then s.walkAhead (s.agentOf u) va else s)
  | (.act (.prefetch u va), s) => .next (s.prefetch u va)
  | (.act (.guess u w bytes), s) => .next (s.guess u w bytes)
  | (.act (.redeem k), s) =>
    match s.redeem k with
    | (true, s) => .next s
    | (false, _) => .fault .wrongGuess
  | (.act (.issue u), s) =>
    match s.issue u with
    | .run i s => exec i s
    | .done s => .next s
    | .nobody => .fault .noResidentTask

/-- The state with an instruction where the next step fetches it. -/
def State.withFetchWord (s : State) (nbits w : Nat) : State := s.withWord (tableBytes nbits w)

end Sys2Proof.Machine
end

