-- ==== Sys2Proof/Safety.lean ====
section
/-! DEFINITION. What counts as a safe run, and the terms that statements about one step use: what an instruction writes,
where it goes on, and what it leaves unchanged. -/
namespace Sys2Proof.Machine

/-- An outcome that goes on. -/
def Runs (o : Host.Outcome State Fault Refusal) : Prop := ∃ t, o = .next t
/-- Memory is in its canonical form. -/
def State.MemOk (s : State) : Prop := Memory.wf s.mem = true
/-- k steps from a state all go on, and every state on the way keeps memory's form. -/
def SafeFor : Nat → State → Prop
  | 0, s => s.MemOk
  | k + 1, s => s.MemOk ∧ ∃ t, step s = .next t ∧ SafeFor k t

/-! ### What a step leaves unchanged -/

/-- Only tasks differ: memory, caches, cores, clusters, launches, partitions, messages, the hub, the time and the model's
own fields are as before. -/
def OnlyTasks (s t : State) : Prop := t = { s with tasks := t.tasks }
/-- Every task but the acting one is as before. -/
def OtherTasks (s t : State) : Prop := ∀ u, u ≠ s.cur → Map.get? t.tasks u = Map.get? s.tasks u
/-- Every scalar register but `d` reads as before. -/
def OtherRegs (d : BitVec 5) (s t : State) : Prop := ∀ r, r ≠ d → t.me.x r = s.me.x r
/-- Every scalar register reads as before. -/
def AllRegs (s t : State) : Prop := ∀ r, t.me.x r = s.me.x r
/-- The vector registers with their tags and the masks. -/
def SameVectors (s t : State) : Prop :=
  t.me.rf.v = s.me.rf.v ∧ t.me.rf.vt = s.me.rf.vt ∧ t.me.rf.m = s.me.rf.m
/-- The handle and block scale registers. -/
def SameTiles (s t : State) : Prop := t.me.rf.h = s.me.rf.h ∧ t.me.rf.k = s.me.rf.k
/-- The window has not moved. -/
def SameWindow (s t : State) : Prop := t.me.rf.wbase = s.me.rf.wbase
/-- The system registers but fflags, which becomes `f`, and the budget, from which retirement takes 1 in dmodes 1 and 2
(11 R237). -/
def SystemBut (f : BitVec 5) (s t : State) : Prop :=
  t.me.sy = { s.me.sy with
    fflags := f
    budLeft := if s.det && s.me.sy.budOn then BitVec.ofNat 63 (s.me.sy.budLeft.toNat - 1) else s.me.sy.budLeft }
/-- Stores, store-fault records, copy records, updates and the other counters; the capture of perf counts what retires. -/
def SameQueues (s t : State) : Prop := t.me.io = { s.me.io with perf := t.me.io.perf }
/-- The task is the same one in the same place. -/
def SameTask (s t : State) : Prop := t.cur = s.cur ∧ t.me.tid = s.me.tid
/-- The instruction has retired and the task goes on at `p`. -/
def RetiresTo (p : Word) (s t : State) : Prop :=
  t.me.rf.pc = p ∧ t.me.pl = { s.me.pl with retired := s.me.pl.retired + 1, run := .ready }

/-- What no register instruction touches. -/
def Frame (s t : State) : Prop :=
  OnlyTasks s t ∧ OtherTasks s t ∧ SameTask s t ∧ SameWindow s t ∧ SameQueues s t

/-- The instruction completes: it writes `v` to X(d) (a write to zr, code 24, is discarded and zr reads 0), ORs `f` into
fflags, goes on n bytes further, and changes nothing else. -/
def Writes (i : Instr) (s : State) (d : BitVec 5) (v : Word) (f : BitVec 5) (n : Nat) : Prop :=
  ∃ t, exec i s = .next t ∧ t.me.x d = (if d.toNat < 24 then v else 0#64) ∧ RetiresTo (s.pc + BitVec.ofNat 64 n) s t ∧
    OtherRegs d s t ∧ SameVectors s t ∧ SameTiles s t ∧ SystemBut (s.me.sy.fflags ||| f) s t ∧ Frame s t

/-- The instruction completes: it goes on at `p`, and changes nothing else. -/
def GoesTo (i : Instr) (s : State) (p : Word) : Prop :=
  ∃ t, exec i s = .next t ∧ RetiresTo p s t ∧ AllRegs s t ∧ SameVectors s t ∧ SameTiles s t ∧
    SystemBut s.me.sy.fflags s t ∧ Frame s t

/-- The instruction completes: it writes `v` with tag `tag` to vector register d, ORs `f` into fflags, goes on n bytes
further, and changes nothing else. -/
def WritesVector (i : Instr) (s : State) (d : BitVec 5) (v : BitVec 1024) (tag : Tag) (f : BitVec 5) (n : Nat) : Prop :=
  ∃ t, exec i s = .next t ∧ t.me.vreg d = v ∧ t.me.vtag d = tag ∧ RetiresTo (s.pc + BitVec.ofNat 64 n) s t ∧
    (∀ r, r ≠ d → t.me.vreg r = s.me.vreg r ∧ t.me.vtag r = s.me.vtag r) ∧ t.me.rf.m = s.me.rf.m ∧
    AllRegs s t ∧ SameTiles s t ∧ SystemBut (s.me.sy.fflags ||| f) s t ∧ Frame s t

/-- The instruction completes: it writes `v` to mask register d, ORs `f` into fflags, goes on n bytes further, and changes
nothing else. -/
def WritesMask (i : Instr) (s : State) (d : BitVec 3) (v : BitVec 32) (f : BitVec 5) (n : Nat) : Prop :=
  ∃ t, exec i s = .next t ∧ t.me.mask d = v ∧ RetiresTo (s.pc + BitVec.ofNat 64 n) s t ∧
    (∀ r, r ≠ d → t.me.mask r = s.me.mask r) ∧ t.me.rf.v = s.me.rf.v ∧ t.me.rf.vt = s.me.rf.vt ∧
    AllRegs s t ∧ SameTiles s t ∧ SystemBut (s.me.sy.fflags ||| f) s t ∧ Frame s t

/-- The instruction takes a precise trap to level l, 07 R162: it restarts at `back`, the bank of the level holds cause,
restart, tval and xval, tl is the level, and the pc is the level's handler. Nothing else changes. -/
def Traps (i : Instr) (s : State) (l : Nat) (cause back tval xval : Word) : Prop :=
  ∃ t, exec i s = .next t ∧ t.me.rf.pc = (s.me.sy.bank l).tvec ∧ t.me.sy.tl = BitVec.ofNat 2 l ∧
    t.me.sy.bank l = { s.me.sy.bank l with cause := cause, ret := back, tval := tval, xval := xval } ∧
    t.me.sy.bank (3 - l) = s.me.sy.bank (3 - l) ∧
    t.me.sy = { s.me.sy with b1 := t.me.sy.b1, b2 := t.me.sy.b2, tl := t.me.sy.tl, lastBank := BitVec.ofNat 2 l } ∧
    t.me.pl = { s.me.pl with run := .ready } ∧ AllRegs s t ∧ SameVectors s t ∧ SameTiles s t ∧ t.me.io = s.me.io ∧
    OnlyTasks s t ∧ OtherTasks s t ∧ SameTask s t ∧ SameWindow s t

/-- A load form with the address it reads, its width, its size and its operands (08 R186). -/
def loadForm (s : State) (i : Instr) (va : Word) (w n : Nat) (d : BitVec 5) (t : Tag) (acq : Bool) (scope : BitVec 3) : Prop :=
  w = t.width / 8 ∧
  ((∃ a imm, i = .ld d a imm ∧ va = s.x a + imm.signExtend 64 ∧ t = .i64 ∧ n = 4 ∧ acq = false ∧ scope = 0#3) ∨
    (∃ a disp, i = .ldX t acq scope d a disp ∧ va = s.x a + disp.sext ∧ n = disp.size) ∨
    (∃ a b sh, i = .ldIndexed t acq scope d a b sh ∧ va = s.x a + (s.x b <<< sh.toNat) ∧ n = 12))
/-- A store form with the address it writes, its width, its size, the register stored and the scope of its release (08 R186). -/
def storeForm (s : State) (i : Instr) (va : Word) (w n : Nat) (d : BitVec 5) (rel : Option (BitVec 3)) : Prop :=
  (∃ a imm, i = .st d a imm ∧ va = s.x a + imm.signExtend 64 ∧ w = 8 ∧ n = 4 ∧ rel = none) ∨
  (∃ t r scope a disp, i = .stX t r scope d a disp ∧ va = s.x a + disp.sext ∧ w = t.width / 8 ∧ n = disp.size ∧
    rel = if r then some scope else none) ∨
  (∃ t r scope a b sh, i = .stIndexed t r scope d a b sh ∧ va = s.x a + (s.x b <<< sh.toNat) ∧ w = t.width / 8 ∧ n = 12 ∧
    rel = if r then some scope else none)
/-- The precise trap of a refused translation of the acting task, for an access of a kind: the lowest address that faults is in tval,
and for a poisoned entry the task's lid (05 R124, 25 R440). -/
def refusalOf (s : State) (e : XFault) (kind : BitVec 4) : TrapInfo :=
  { code := e.code, tval := if e.code = 0x1C#8 then s.me.tid.lid else e.va, kind := kind, wlev := e.wlev, detail := e.detail }

/-- A trap enters level l: `b` is what the level's bank then holds, tl and the last bank are l, the pc is `p`, and the context is
READY; the other registers, the other bank, the queues and everything outside the task stay as they were in `s` (07 R162). -/
def EntersLevel (s : State) (l : Nat) (b : Bank) (p : Word) (t : State) : Prop :=
  t.me.rf.pc = p ∧ t.me.pl = { s.me.pl with run := .ready } ∧
  t.me.sy = { s.me.sy with
    b1 := if l = 1 then b else s.me.sy.b1, b2 := if l = 2 then b else s.me.sy.b2, tl := BitVec.ofNat 2 l,
    lastBank := BitVec.ofNat 2 l } ∧
  t.me.io = s.me.io ∧ AllRegs s t ∧ SameVectors s t ∧ SameTiles s t ∧ OnlyTasks s t ∧ OtherTasks s t ∧ SameTask s t ∧ SameWindow s t

/-- The agenda lets task u issue, u is resident and first at its port, and nothing comes first at its boundary: `sf` is the state
that has taken the port and filled the window (01 R18, 07 R156, 11 R230). -/
def State.AtIssue (s : State) (u : Nat) (sf : State) : Prop :=
  ∃ rest s1, s.agenda = .issue u :: rest ∧ (s.task u).pl.life = .resident ∧ (s.task u).pl.run ≠ .out ∧
    State.atPort { s with agenda := rest } u = true ∧ State.takePort { s with agenda := rest, cur := u } u = s1 ∧
    (Map.get? s1.tasks u).isSome = true ∧ s1.me.pl.doomed = false ∧ s1.me.pl.stopped = false ∧
    (s1.me.pl.run ≠ .wait ∨ s1.me.pl.pend = none) ∧ s1.me.pl.saved = false ∧ s1.me.broke = false ∧ s1.me.boundDue = false ∧
    s1.firstFill = (.ok (), sf)
/-- The fetch at the pc answers the first word w0 and, where w0 can be an instruction's, the words ws that its length asks for; `s'` is
the state after it (03 R58, R60). -/
def State.Fetches (s : State) (w0 : BitVec 32) (ws : List (BitVec 32)) (s' : State) : Prop :=
  ∃ s2, s.fetchWords s.pc 1 = (.ok [w0], s2) ∧
    (if headOk w0 = false ∨ lenBytes (w0.extractLsb' 0 2) = 4 then ws = [] ∧ s' = s2
      else s2.fetchWords (s.pc + 4#64) (lenBytes (w0.extractLsb' 0 2) / 4 - 1) = (.ok ws, s'))

/-- The instruction branches by `disp` words from its own address where `taken` holds and goes on behind itself where it
does not; taken with a displacement of 0 or less it is a kill point (08 R170). -/
def Branches (i : Instr) (s : State) (taken : Bool) (disp : Int) : Prop :=
  (taken = false ∨ 0 < disp ∨ s.me.pl.pend = none →
    GoesTo i s (if taken then s.pc + BitVec.ofInt 64 (4 * disp) else s.pc + 4#64)) ∧
  (∀ k, taken = true → disp ≤ 0 → s.me.pl.pend = some k → exec i s = .next (s.kill s.cur k))

/-- The instruction waits at issue: its context is WAIT, nothing else has changed, and it issues again. -/
def Waits (i : Instr) (s : State) : Prop :=
  s.me.pl.pend = none → exec i s = .next (s.setMe { s.me with pl := { s.me.pl with run := .wait } })

/-- A kill point that finds a pending kill: the task is killed and the instruction has no effect (08 R170). -/
def KilledAt (i : Instr) (s : State) : Prop := ∀ k, s.me.pl.pend = some k → exec i s = .next (s.kill s.cur k)

/-- The instruction's own effect is the state `s'`; from there it retires to `p` and changes nothing else. -/
def RetiresFrom (i : Instr) (s s' : State) (p : Word) : Prop :=
  ∃ t, exec i s = .next t ∧ RetiresTo p s' t ∧ AllRegs s' t ∧ SameVectors s' t ∧ SameTiles s' t ∧
    SystemBut s'.me.sy.fflags s' t ∧ Frame s' t

/-- The instruction's own effect is the state `s'`; from there it writes `v` to X(d), goes on n bytes further and changes nothing
else. -/
def ResultFrom (i : Instr) (s s' : State) (d : BitVec 5) (v : Word) (n : Nat) : Prop :=
  ∃ t, exec i s = .next t ∧ t.me.x d = (if d.toNat < 24 then v else 0#64) ∧ RetiresTo (s'.pc + BitVec.ofNat 64 n) s' t ∧
    OtherRegs d s' t ∧ SameVectors s' t ∧ SameTiles s' t ∧ SystemBut s'.me.sy.fflags s' t ∧ Frame s' t

/-- As `RetiresFrom` to the next instruction, of a command to an engine that answers: its context waits for the answer, which is on
its way (20 R375). -/
def AnswersFrom (i : Instr) (s s' : State) : Prop :=
  ∃ t, exec i s = .next t ∧ t.me.rf.pc = s'.pc + 12#64 ∧
    t.me.pl = { s'.me.pl with retired := s'.me.pl.retired + 1, run := .wait, answer := true } ∧ AllRegs s' t ∧ SameVectors s' t ∧
    SameTiles s' t ∧ SystemBut s'.me.sy.fflags s' t ∧ Frame s' t
/-- As `AnswersFrom`, of a command whose answer `v` is in X(d). -/
def ResultAnswers (i : Instr) (s s' : State) (d : BitVec 5) (v : Word) : Prop :=
  ∃ t, exec i s = .next t ∧ t.me.x d = (if d.toNat < 24 then v else 0#64) ∧ t.me.rf.pc = s'.pc + 12#64 ∧
    t.me.pl = { s'.me.pl with retired := s'.me.pl.retired + 1, run := .wait, answer := true } ∧ OtherRegs d s' t ∧
    SameVectors s' t ∧ SameTiles s' t ∧ SystemBut s'.me.sy.fflags s' t ∧ Frame s' t

/-- Task numbers are handed out once: the acting task and every task lie below the next number. -/
def State.Numbered (s : State) : Prop :=
  s.cur < s.nextUid ∧ ∀ u, (Map.get? s.tasks u).isSome = true → u < s.nextUid

/-! ### Memory -/

/-- The memory that waits for the home, and what tasks and cores have queued, names no key. -/
def State.HeldOneKey (s : State) : Prop :=
  (∀ p ∈ s.ms.l1, p.keys = []) ∧ (∀ c ∈ s.ms.reds, c.key = none) ∧ (∀ v ∈ s.ms.versions, v.key = none) ∧
  (∀ a ∈ s.ms.atomics, a.key = none) ∧ (∀ o ∈ s.ms.owed, o.keys = []) ∧ (∀ c ∈ s.cores, ∀ o ∈ c.2.tileq, o.keys = []) ∧
  (∀ c ∈ s.clusters, ∀ q ∈ c.2.copyq, q.keys = []) ∧
  ∀ t ∈ s.tasks, (∀ e ∈ t.2.io.sq, e.keys = []) ∧ ∀ e ∈ t.2.io.lq, e.keys = []
/-- Every byte of memory is under the key of slot 0: no other key slot is filled, no sector is kept under one and nothing that is
still to be performed names one (05 R118). -/
def State.OneKey (s : State) : Prop := s.ms.keyed = [] ∧ s.ms.base = [] ∧ (∀ p ∈ s.vfs, p.2.keys = []) ∧ s.HeldOneKey
/-- Where no update-only copy holds a contribution for it, no L1 holds a newer byte and one key is in use, a byte of memory reads as
before (a recall combines copies, 06 R147; a pin that is lifted writes back, R132). -/
def SameBytes (s t : State) : Prop :=
  s.OneKey → ∀ a, (∀ c ∈ s.ms.reds, a < c.loc ∨ c.loc + c.t.width / 8 ≤ a) → (∀ p ∈ s.ms.l1, ∀ c ∈ p.cells, c.1 ≠ a) →
    memGet t.mem a = memGet s.mem a
/-- Nothing but tasks, memory with its caches, and the counter of free values differs. -/
def MemorySide (s t : State) : Prop := t = { s with tasks := t.tasks, mem := t.mem, ms := t.ms, freeCtr := t.freeCtr }
/-- Tasks keep their identity, their registers and their outstanding operations; a store that is performed at its home leaves its
queue (03 R75), and an abort mark may be set (11 R247). -/
def TaskKept (s t : State) (u : Nat) : Prop :=
  (t.task u).tid = (s.task u).tid ∧ (t.task u).rf = (s.task u).rf ∧ (t.task u).sy = (s.task u).sy ∧
  (t.task u).io = { (s.task u).io with sq := (t.task u).io.sq } ∧ (t.task u).io.sq.Sublist (s.task u).io.sq ∧
  (t.task u).pl = { (s.task u).pl with doomed := (t.task u).pl.doomed }
/-- Every task but one is kept. -/
def OthersKept (s t : State) (u : Nat) : Prop := ∀ v, v ≠ u → TaskKept s t v
/-- The memory system is calm: memory has its form, no update-only copy, version, buffered atomic, poisoned word, pin or
write in flight is about, no L1 holds a byte of its own, no load is still to be performed, every die sees the bytes of memory, and one
key is in use. -/
def State.Calm (s : State) : Prop :=
  s.MemOk ∧ s.ms.reds = [] ∧ s.ms.versions = [] ∧ s.ms.atomics = [] ∧ s.ms.poison = [] ∧ s.ms.pins = [] ∧ s.ms.flights = [] ∧
  s.ms.l1 = [] ∧ s.ms.lagging = [] ∧ s.ms.owed = [] ∧ s.ms.ibad = [] ∧ s.OneKey
/-- The bytes that cells put over a memory. -/
def bytesOver (s : State) (cells : List Host.Cell) (a : Nat) : Byte := (cellGet cells.reverse a).getD (memGet s.mem a)

/-- The instruction completes from the state `s'` that its read of memory leaves: X(d) := v, the flags `f` are ORed, the
counter L counts one more with an entry for the register, it goes on n bytes further and changes nothing else. -/
def Loads (i : Instr) (s s' : State) (d : BitVec 5) (v : Word) (f : BitVec 5) (n : Nat) : Prop :=
  ∃ t e tag, exec i s = .next t ∧ t.me.x d = (if d.toNat < 24 then v else 0#64) ∧ RetiresTo (s'.pc + BitVec.ofNat 64 n) s' t ∧
    OtherRegs d s' t ∧ SameVectors s' t ∧ SameTiles s' t ∧ SameWindow s' t ∧ SystemBut (s'.me.sy.fflags ||| f) s' t ∧
    t.me.io = { s'.me.io with lq := s'.me.io.lq ++ [e], perf := t.me.io.perf } ∧ e.dst = .x d tag ∧ e.write = [] ∧
    OnlyTasks s' t ∧ OtherTasks s' t ∧ SameTask s' t
/-- The instruction completes: from the state `s'` that its translation leaves it adds the entry `e` to the store queue, goes
on n bytes further and changes nothing else; no byte of memory changes before the entry is performed. -/
def Stores (i : Instr) (s s' : State) (e : StoreEnt) (n : Nat) : Prop :=
  ∃ t, exec i s = .next t ∧ t.me.io = { s'.me.io with sq := s'.me.io.sq ++ [e], lq := t.me.io.lq, early := t.me.io.early, perf := t.me.io.perf } ∧
    t.me.io.lq.length = s'.me.io.lq.length ∧ RetiresTo (s'.pc + BitVec.ofNat 64 n) s' t ∧ AllRegs s' t ∧ SameVectors s' t ∧ SameTiles s' t ∧ SameWindow s' t ∧
    SystemBut s'.me.sy.fflags s' t ∧ OnlyTasks s' t ∧ OtherTasks s' t ∧ SameTask s' t

/-- The AMOs but amocas, each with what it writes from the old value and its operand, and the flags it raises (08 R188). -/
def amoForms (t : Tag) (acq rel : Bool) (scope : BitVec 3) (d a b : BitVec 5) (disp : Src) :
    List (Instr × (Nat → Nat → Nat) × (Nat → Nat → BitVec 5)) :=
  let w := t.width
  let sgn (x : Nat) : Int := (BitVec.ofNat w x).toInt
  [(.amoadd t acq rel scope d a b disp, fun o x => (o + x) % 2 ^ w, fun _ _ => 0#5),
   (.amoand t acq rel scope d a b disp, fun o x => o &&& x, fun _ _ => 0#5),
   (.amoor t acq rel scope d a b disp, fun o x => o ||| x, fun _ _ => 0#5),
   (.amoxor t acq rel scope d a b disp, fun o x => o ^^^ x, fun _ _ => 0#5),
   (.amoswap t acq rel scope d a b disp, fun _ x => x, fun _ _ => 0#5),
   (.amofadd t acq rel scope d a b disp, fun o x => (fpAdd 0#2 t o x).1, fun o x => (fpAdd 0#2 t o x).2)] ++
  (if t.isSigned then
    [(.amomin t acq rel scope d a b disp, fun o x => if sgn o < sgn x then o else x, fun _ _ => 0#5),
     (.amomax t acq rel scope d a b disp, fun o x => if sgn o < sgn x then x else o, fun _ _ => 0#5)]
  else
    [(.amominn t acq rel scope d a b disp, fun o x => Nat.min o x, fun _ _ => 0#5),
     (.amomaxn t acq rel scope d a b disp, fun o x => Nat.max o x, fun _ _ => 0#5)])
/-- A load's value is in its register, d, or, where it named a stack slot, in that slot (07 R154): `t` becomes `t'`, and no other
register of the window's place changes. -/
def loaded (e : LoadEnt) (t t' : Task) (d : BitVec 5) (v : Word) : Prop :=
  (∀ k, e.slot = some k → Map.get 0#64 t'.rf.slots k = v ∧ (∀ j, j ≠ k → Map.get 0#64 t'.rf.slots j = Map.get 0#64 t.rf.slots j) ∧
    t'.rf.g = t.rf.g) ∧
  (e.slot = none → (d.toNat < 24 → t'.x d = v) ∧ ∀ x, x ≠ d → t'.x x = t.x x)
/-- The old value of a word of memory and, in a register, what an AMO or a load of its tag gives of it. -/
def oldOf (s : State) (loc : Nat) (t : Tag) : Nat := leNat ((locRange loc (t.width / 8)).map (memGet s.mem))
def asLoaded (t : Tag) (x : Nat) : Word :=
  if t.isSigned then (BitVec.ofNat t.width x).signExtend 64 else BitVec.ofNat 64 (x % 2 ^ t.width)
/-- An aligned access that an AMO of the acting task makes at the run g is granted: nothing holds it, `s1` is the state after its
translation, and the memory system is calm; the task is not ordered and its launch runs in dmode 0. -/
def AmoGranted (s s1 : State) (t : Tag) (rel : Bool) (scope : BitVec 3) (va : Word) (g : Seg) : Prop :=
  va.toNat % (t.width / 8) = 0 ∧ s.me.io.lq.length < 64 ∧ (rel = true → s.releaseWaits scope = false) ∧
  s.xlate (s.agentOf s.cur) { rd := true, w := true } va (t.width / 8) = (.ok [g], s1) ∧ g.len = t.width / 8 ∧
  s1.mustWait true (locRange g.at_.loc (t.width / 8)) = false ∧ s.Calm ∧ s.det = false ∧ s.me.tid.ord = false
/-- What an AMO leaves unchanged beside the word it writes, its register and flags; L counts one more. -/
def AmoFrame (s u : State) (d : BitVec 5) (f : BitVec 5) (n : Nat) : Prop :=
  OtherRegs d s u ∧ SameVectors s u ∧ SameTiles s u ∧ SameWindow s u ∧ RetiresTo (s.pc + BitVec.ofNat 64 n) s u ∧
  SystemBut (s.me.sy.fflags ||| f) s u ∧ u.me.io.lq.length = s.me.io.lq.length + 1 ∧ u.me.io.sq = s.me.io.sq ∧
  OthersKept s u s.cur ∧ MemorySide s u
/-- Bytes of entry k of a task's queue have left it: the entry has a serial, and entries that are performed at their home are gone
(03 R75). -/
def LeftQueue (s t : State) (u k : Nat) (e : StoreEnt) (cells : List Host.Cell) : Prop :=
  ∃ n, n ≠ 0 ∧ (t.task u).io.sq.Sublist ((s.task u).io.sq.set k
    { e with ser := n, cells := e.cells.filter (fun c => !cells.any (fun d => d.1 == c.1)) })

/-! ### Vectors -/

/-- Element j of a register under a tag, as bits (10 R205). -/
def velem (v : BitVec 1024) (t : Tag) (j : Nat) : BitVec t.width := v.extractLsb' (t.width * j) t.width
/-- An element that a masked write keeps: the register's, or 0 where it was empty (10 R206). -/
def keptElem (s : State) (d : BitVec 5) (t : Tag) (j : Nat) : BitVec t.width :=
  if s.me.vtag d = .empty then 0#t.width else velem (s.me.vreg d) t j
/-- The destination of a write that leaves an element unwritten is of the tag or empty (10 R206). -/
def maskedOk (s : State) (d : BitVec 5) (t : Tag) (mask : BitVec 3) : Prop :=
  (∀ j, j < t.elems → active (s.me.mask mask) t.width j = true) ∨ s.me.vtag d = t ∨ s.me.vtag d = .empty
/-- The OR of flags over the elements of a tag that a test selects. -/
def flagsOver (t : Tag) (on : Nat → Bool) (f : Nat → BitVec 5) : BitVec 5 :=
  (List.range t.elems).foldl (fun a j => if on j then a ||| f j else a) 0#5
/-- What a vector instruction leaves unchanged that reads sources `srcs`: all but the acting task, and, on its core, the
channels that sources name, whose heads are popped. -/
def VectorFrame (srcs : List (BitVec 5)) (s t : State) : Prop :=
  t = { s with tasks := t.tasks, cores := (s.popNamed srcs).cores } ∧ OtherTasks s t ∧ SameTask s t ∧ SameWindow s t ∧
  SameQueues s t
/-- The vector sources of a vector instruction in the order of their operand codes (1 a, 2 b, 3 c, 5 store data), each with the tags
that it admits: the instruction's own, an index tag of its width (vperm, vgath, vscat), one of its width (vmov), or for vcvt a format of
which the part exists (10 R206, R215, R223, R225, R228). -/
def vecSources (i : Instr) : List VSrc :=
  let same (t : Tag) : Tag → Bool := fun x => x == t
  let two (t : Tag) (sc : Bool) (a b : BitVec 5) : List VSrc := ⟨1, a, same t⟩ :: (if sc then [] else [⟨2, b, same t⟩])
  let index (t : Tag) : Tag → Bool := fun x => (x.isSigned || x.isUnsigned) && x.width == t.width
  match i with
  | .vadd t sc _ _ a b | .vsub t sc _ _ a b | .vmul t sc _ _ a b | .vmulh t sc _ _ a b | .vmin t sc _ _ a b | .vmax t sc _ _ a b
  | .vand t sc _ _ a b | .vor t sc _ _ a b | .vxor t sc _ _ a b | .vsll t sc _ _ a b | .vsrl t sc _ _ a b | .vsra t sc _ _ a b
  | .vaddsat t sc _ _ a b | .vsubsat t sc _ _ a b | .vfmin t sc _ _ a b | .vfmax t sc _ _ a b => two t sc a b
  | .vfadd _ t sc _ _ a b | .vfsub _ t sc _ _ a b | .vfmul _ t sc _ _ a b | .vfdiv _ t sc _ _ a b => two t sc a b
  | .vffma _ t sc _ _ a b c => two t sc a b ++ [⟨3, c, same t⟩]
  | .vcmpeq t sc _ _ a b | .vcmpne t sc _ _ a b | .vcmplt t sc _ _ a b | .vcmple t sc _ _ a b => two t sc a b
  | .vfsqrt _ t _ _ a | .vredsum _ t _ _ a => [⟨1, a, same t⟩]
  | .vredmin t _ _ a | .vredmax t _ _ a => [⟨1, a, same t⟩]
  | .vslide t _ _ a _ => [⟨1, a, same t⟩]
  | .vext t _ a _ => [⟨1, a, same t⟩]
  | .vmov t _ _ a => [⟨1, a, fun x => x != .empty && (x.width == t.width || x == .bits || t == .bits)⟩]
  | .vsel t _ _ a b => two t false a b
  | .vperm t _ _ a b => [⟨1, a, same t⟩, ⟨2, b, index t⟩]
  | .vcvt t _ _ _ a p _ => [⟨1, a, fun x => x != .empty && x != .bits &&
      decide (p.toNat < (if x.width < t.width then t.width / x.width else x.width / t.width))⟩]
  | .vst t _ _ _ d _ _ => [⟨5, d, same t⟩]
  | .vsts t _ _ _ d _ _ _ => [⟨5, d, same t⟩]
  | .vgath t _ _ _ _ _ b _ _ => [⟨2, b, index t⟩]
  | .vscat t _ _ _ d _ b _ _ => [⟨2, b, index t⟩, ⟨5, d, same t⟩]
  | _ => []
/-- The vector register that a vector instruction writes under a mask, with its tag and the mask. -/
def vecDest (i : Instr) : Option (BitVec 5 × Tag × BitVec 3) :=
  match i with
  | .vadd t _ m d _ _ | .vsub t _ m d _ _ | .vmul t _ m d _ _ | .vmulh t _ m d _ _ | .vmin t _ m d _ _ | .vmax t _ m d _ _
  | .vand t _ m d _ _ | .vor t _ m d _ _ | .vxor t _ m d _ _ | .vsll t _ m d _ _ | .vsrl t _ m d _ _ | .vsra t _ m d _ _
  | .vaddsat t _ m d _ _ | .vsubsat t _ m d _ _ | .vfmin t _ m d _ _ | .vfmax t _ m d _ _ => some (d, t, m)
  | .vfadd _ t _ m d _ _ | .vfsub _ t _ m d _ _ | .vfmul _ t _ m d _ _ | .vfdiv _ t _ m d _ _ => some (d, t, m)
  | .vffma _ t _ m d _ _ _ => some (d, t, m)
  | .vfsqrt _ t m d _ => some (d, t, m)
  | .vmov t m d _ | .vbcast t m d _ => some (d, t, m)
  | .vli t m d _ => some (d, t, m)
  | .vslide t m d _ _ | .vperm t m d _ _ => some (d, t, m)
  | .vcvt t _ m d _ _ _ => some (d, t, m)
  | .vld t _ _ m d _ _ => some (d, t, m)
  | .vlds t _ _ m d _ _ _ => some (d, t, m)
  | .vgath t _ _ m d _ _ _ _ => some (d, t, m)
  | _ => none

/-- The instruction completes: for every j in which `on` holds element j of vector register d becomes `f j`, its other elements
are kept, its tag becomes t; the flags `fl` of the elements written are ORed; nothing else changes. -/
def WritesElems (i : Instr) (s : State) (d : BitVec 5) (t : Tag) (on : Nat → Bool) (f : Nat → BitVec t.width)
    (fl : Nat → BitVec 5) (srcs : List (BitVec 5)) (n : Nat) : Prop :=
  ∃ u, exec i s = .next u ∧ u.me.vtag d = t ∧
    (∀ j, j < t.elems → velem (u.me.vreg d) t j = if on j then f j else keptElem s d t j) ∧
    (∀ r, r ≠ d → u.me.vreg r = s.me.vreg r ∧ u.me.vtag r = s.me.vtag r) ∧ u.me.rf.m = s.me.rf.m ∧ AllRegs s u ∧ SameTiles s u ∧
    RetiresTo (s.pc + BitVec.ofNat 64 n) s u ∧ SystemBut (s.me.sy.fflags ||| flagsOver t on fl) s u ∧ VectorFrame srcs s u
/-- The instruction completes: it writes `m` to mask register d, ORs `f` into fflags, and changes nothing else. -/
def WritesLanes (i : Instr) (s : State) (d : BitVec 3) (m : BitVec 32) (f : BitVec 5) (srcs : List (BitVec 5)) : Prop :=
  ∃ u, exec i s = .next u ∧ u.me.rf.m = Map.set s.me.rf.m d.toNat m ∧ u.me.rf.v = s.me.rf.v ∧ u.me.rf.vt = s.me.rf.vt ∧
    AllRegs s u ∧ SameTiles s u ∧ RetiresTo (s.pc + 12#64) s u ∧ SystemBut (s.me.sy.fflags ||| f) s u ∧ VectorFrame srcs s u
/-- The instruction completes: it writes `v` to X(d), ORs `f` into fflags, and changes nothing else. -/
def WritesScalar (i : Instr) (s : State) (d : BitVec 5) (v : Word) (f : BitVec 5) (srcs : List (BitVec 5)) : Prop :=
  ∃ u, exec i s = .next u ∧ u.me.x d = (if d.toNat < 24 then v else 0#64) ∧ OtherRegs d s u ∧ SameVectors s u ∧ SameTiles s u ∧
    RetiresTo (s.pc + 12#64) s u ∧ SystemBut (s.me.sy.fflags ||| f) s u ∧ VectorFrame srcs s u

/-! ### Tiles -/

/-- No wait holds a matrix instruction: the task acts for itself, T is below its maximum and no word is poisoned. -/
def State.MatrixReady (s : State) : Prop :=
  s.provisional s.cur = false ∧ s.me.io.tiles < 32 ∧ s.ms.poison = []
/-- A handle register that a destination accepts: EMPTY or MOVED-FROM (16 R318). -/
def State.roomIn (s : State) (h : BitVec 4) : Prop := hSt (s.me.hreg h) = 0 ∨ hSt (s.me.hreg h) = 3
/-- A LIVE handle register. -/
def State.liveIn (s : State) (h : BitVec 4) : Prop := hSt (s.me.hreg h) = 1
/-- A LIVE Onyx handle register. -/
def State.onyxIn (s : State) (h : BitVec 4) : Prop := hSt (s.me.hreg h) = 1 ∧ hOnyx (s.me.hreg h) = true
/-- A matrix instruction retires: scalar, vector, mask and scale registers, the window and the other tasks are as before. -/
def TileFrame (s t : State) : Prop :=
  RetiresTo (s.pc + 12#64) s t ∧ AllRegs s t ∧ SameVectors s t ∧ t.me.rf.k = s.me.rf.k ∧ SameWindow s t ∧
  SystemBut s.me.sy.fflags s t ∧ OtherTasks s t ∧ SameTask s t
/-- Every handle register but those listed is as before. -/
def OtherHandles (hs : List (BitVec 4)) (s t : State) : Prop := ∀ h, h ∉ hs → t.me.hreg h = s.me.hreg h
/-- The tile instruction is accepted: the operation enters its core's queue behind the others and T counts one more, handle
register d holds `w`; no other register, no byte of memory and no other task changes. -/
def Accepts (i : Instr) (s : State) (o : TileOp) (d : BitVec 4) (w : Word) : Prop :=
  ∃ t, exec i s = .next t ∧ (t.coreSt s.me.pl.core).tileq = (s.coreSt s.me.pl.core).tileq ++ [o] ∧
    t.me.io.tiles = s.me.io.tiles + 1 ∧ t.me.hreg d = w ∧ OtherHandles [d] s t ∧ RetiresTo (s.pc + 12#64) s t ∧ AllRegs s t ∧
    SameVectors s t ∧ t.me.rf.k = s.me.rf.k ∧ SameWindow s t ∧ SystemBut s.me.sy.fflags s t ∧ OtherTasks s t ∧
    t.mem = s.mem ∧ t.clusters = s.clusters ∧ t.launches = s.launches ∧ t.hub = s.hub ∧ t.dtime = s.dtime

/-! ### Copy commands -/

/-- No wait holds a copy command with these flags (15 R296, R299; 06 R142). -/
def State.CopyReady (s : State) (acq rel : Bool) (scope : BitVec 3) : Prop :=
  s.provisional s.cur = false ∧ (s.cluster (clusterOf s.me.pl.core)).copyq.length < 128 ∧ s.me.io.copies < 32 ∧
  (acq = true ∨ rel = true → s.releaseWaits (engineScope acq scope) = false)
/-- A copy command of `bytes` > 0 bytes is accepted (15 R296-R299): it takes the next identifier, enters the queue of the task's
cluster with its transfer and flags, has a BUSY record, and its promise is the cluster's new W plus the path's latency; X(d) is the
identifier and X(e) the promise. A tile that it uses, `held`, stays in its handle register with state 2, PENDING (15 R302). Every other
register is as before, and so is memory but for the lines of pins that a release lifts. -/
def CopyAccepted (i : Instr) (s : State) (d e : BitVec 5) (fn : BitVec 8) (bytes rate : Nat) (lpath : Word) (what : CopyKind)
    (acq rel : Bool) (scope : BitVec 3) (held : Option (BitVec 4 × Word) := none) : Prop :=
  let cl := clusterOf s.me.pl.core
  let id := if s.me.io.cc = 0xFFFF#16 then 1#16 else s.me.io.cc + 1#16
  let w := (if (s.cluster cl).busy.toNat < s.dtime.toNat then s.dtime else (s.cluster cl).busy) +
    BitVec.ofNat 64 ((bytes + rate - 1) / rate)
  ∃ t q r, exec i s = .next t ∧ (t.cluster cl).copyq = (s.cluster cl).copyq ++ [q] ∧ (t.cluster cl).busy = w ∧ q.what = what ∧
    q.owner = s.cur ∧ q.id = id ∧ q.size = bytes ∧ q.pos = 0 ∧ q.acq = acq ∧ q.rel = rel ∧ q.scope = scope ∧ t.me.io.cc = id ∧
    r ∈ t.me.io.crecs ∧ r.id = id ∧ r.st = .busy ∧ r.fn = fn ∧ r.promise = some (w + lpath) ∧ r.unreported = false ∧
    (d.toNat < 24 → d ≠ e → t.me.x d = id.setWidth 64) ∧
    (e.toNat < 24 → t.me.x e = if s.det = true ∧ s.me.sy.timeok = false then 0#64 else w + lpath) ∧
    (∀ h v, held = some (h, v) → t.me.hreg h = hWithSt v 2) ∧ (∀ h, (∀ v, held ≠ some (h, v)) → t.me.hreg h = s.me.hreg h) ∧
    (∀ x, x ≠ d → x ≠ e → t.me.x x = s.me.x x) ∧ SameVectors s t ∧ t.me.rf.k = s.me.rf.k ∧ SameWindow s t ∧
    SystemBut s.me.sy.fflags s t ∧ RetiresTo (s.pc + 12#64) s t ∧ SameBytes s t ∧ (rel = false ∨ s.ms.pins = [] → t.mem = s.mem) ∧
    OthersKept s t s.cur ∧ t.launches = s.launches ∧ t.cores = s.cores

/-- What a byte of a transfer brings in a calm memory system: what stands at its source, or the byte that the engine holds. -/
def broughtBy (s : State) (p : Sum Nat Byte × Nat) : Byte := match p.1 with | .inl l => memGet s.mem l | .inr b => b
/-- A beat of command q at the head of its cluster's queue can be performed as it stands: the memory system is calm, its task runs in no
quorum and is not ordered, it is not tracked, and a release of it is not at package scope or wider. -/
def State.PlainCopy (s : State) (cl : Nat) (q : CopyCmd) (t : Task) : Prop :=
  (s.cluster cl).copyq = [q] ∧ q.pos < q.total ∧ Map.get? s.tasks q.owner = some t ∧ s.Calm ∧ q.track = false ∧
  (q.rel = false ∨ q.scope.toNat < 3) ∧ s.quorumOf q.owner = none ∧ q.dead = false ∧ q.core / 8 = cl ∧ t.tid.ord = false
/-- The bytes `todo` move no byte that the command has overwritten or overwrites, each to a place of its own. -/
def MovesApart (q : CopyCmd) (todo : List (Sum Nat Byte × Nat)) : Prop :=
  todo.length ≤ 512 ∧ todo ≠ [] ∧ (todo.map (·.2)).Nodup ∧
  ∀ p ∈ todo, ∀ l, p.1 = .inl l → cellGet q.old l = none ∧ ∀ x ∈ todo, x.2 ≠ l
/-- The first access of the bytes `todo` of a beat that ends at `upto` is performed, from s to r: the bytes before the next 128-byte
boundary of the CLM (05 R111), of which a destination word that it cuts is written with the next access, from what both have read (15
R305); no other byte changes. What is left is the beat in hand; after the last the command has moved `upto` bytes. A command that is then
at its end leaves the queue, its record is DONE and the tile it used LIVE; an hsend stays until it lands. -/
def AccessDone (s r : State) (cl : Nat) (q : CopyCmd) (t : Task) (todo : List (Sum Nat Byte × Nat)) (upto : Nat) : Prop :=
  let e := accessLen todo
  let n := wholeRuns e (wordRuns 513 todo)
  let rest := ((todo.drop n).take (e - n)).map (fun p => (Sum.inr (broughtBy s p), p.2)) ++ todo.drop e
  let ended : Prop := rest = [] ∧ upto = q.total
  let same (x : CopyCmd) : Prop := x.what = q.what ∧ x.id = q.id ∧ x.owner = q.owner
  (∀ a, memGet r.mem a = bytesOver s ((todo.take n).map (fun p => (p.2, broughtBy s p))) a) ∧
  (∀ u, (r.task u).sy = (s.task u).sy ∧ (∀ x, (r.task u).x x = (s.task u).x x) ∧ (r.task u).rf.v = (s.task u).rf.v) ∧
  (∀ u h, u ≠ q.owner ∨ ¬ ended ∨ (∀ v, q.handle ≠ some (h, v)) → (r.task u).hreg h = (s.task u).hreg h) ∧
  (rest ≠ [] → ∃ x, (r.cluster cl).copyq = [x] ∧ same x ∧ x.todo = rest ∧ x.upto = upto ∧ x.pos = q.pos) ∧
  (rest = [] → upto ≠ q.total → ∃ x, (r.cluster cl).copyq = [x] ∧ same x ∧ x.todo = [] ∧ x.pos = upto) ∧
  (ended → (∀ hv w c v m, q.what = .hsend hv w c v m → ∃ x, (r.cluster cl).copyq = [x] ∧ same x ∧ x.pos = upto) ∧
    ((∀ hv w c v m, q.what ≠ .hsend hv w c v m) → (r.cluster cl).copyq = [] ∧
      (∀ x ∈ (r.task q.owner).io.crecs, x.id = q.id → x.st = .done ∧ x.written = BitVec.ofNat 64 upto) ∧
      ∀ h v, q.handle = some (h, v) → t.pl.life ≠ .exited → t.pl.saved = false → (r.task q.owner).hreg h = hWithSt v 1))
/-- A beat fails, from s to r (15 R307): no byte of memory changes, the command leaves the queue and its record is FAULT, unreported,
with the cause, the address and the walk level of `f` and the bytes written. -/
def BeatFails (s r : State) (cl : Nat) (q : CopyCmd) (f : CopyFault) : Prop :=
  r.mem = s.mem ∧ (r.cluster cl).copyq = [] ∧ ∀ x ∈ (r.task q.owner).io.crecs, x.id = q.id →
    x.st = .fault ∧ x.unreported = true ∧ x.detail = f.detail ∧ x.tval = f.tval ∧ x.wlev = f.wlev ∧
    x.written = BitVec.ofNat 64 q.pos

end Sys2Proof.Machine
end

