-- ==== Sys2Proof/Certificates/Slice0/Obligations.lean ====
section
/-! DEFINITION. The statements for the provers. Each docstring names the rule of spec/ that a statement follows. -/
open Sys2Proof Sys2Proof.Machine

/-- 03 R58, R59, R63, R64 (tier 3): for every well-formed instruction, whatever its operands, decoding its bytes gives the
instruction itself and leaves every byte that follows. -/
def Obligations.EncodeDecodeRoundTrip : Prop :=
  ∀ i : Instr, i.wf = true → ∃ bs, encodeBytes i = some bs ∧ ∀ rest, decode (bs ++ rest) = .ok (i, rest)

/-- 03 R58, R65, R77: what decodes is well-formed, and the bytes it was read from are the bytes that the encoder writes for
it: no two encodings stand for one instruction and no field that must be 0 is ignored.

03 R70, R77: at a reserved major no word decodes, whatever its other bits and the words after it. -/
def Obligations.DecodingIsCanonical : Prop :=
  (∀ (bs rest : List (BitVec 8)) (i : Instr), decode bs = .ok (i, rest) →
     i.wf = true ∧ ∃ front, encodeBytes i = some front ∧ bs = front ++ rest) ∧
  (∀ (w : BitVec 32) (ws : List (BitVec 32)),
     (w.extractLsb' 2 6).toNat ∈ [0x06, 0x07, 0x0B, 0x0C, 0x0D, 0x0E, 0x0F, 0x14, 0x15, 0x16, 0x17, 0x1D, 0x1E, 0x1F, 0x27, 0x37,
       0x38, 0x39, 0x3A, 0x3B, 0x3C, 0x3D, 0x3E, 0x3F] →
     decode ((w :: ws).flatMap bytes32) = .error (.illegal w))

/-- Words that the spec works out: 03 (li a1, 100), 08 (div, st, andi, ffma, ld.acq.die, waitc, srr, call and the F-I ld). -/
def Obligations.SampleWords : Prop :=
  decodeWords 0x01900110#32 [] = some (.li 1#5 100#14) ∧
  decodeWords 0x02082308#32 [] = some (.div 3#5 1#5 2#5) ∧
  decodeWords 0x00202264#32 [] = some (.st 2#5 1#5 8#14) ∧
  decodeWords 0x00402560#32 [] = some (.ld 5#5 1#5 16#14) ∧
  decodeWords 0x00800006#32 [0#32, 0xFF#32] = some (.andi 0#5 0#5 (.imm 0xFF#32)) ∧
  decodeWords 0x28082322#32 [4#32, 0#32] = some (.ffma 0#2 true 3#5 1#5 2#5 4#5) ∧
  decodeWords 0x00802562#32 [0x00114000#32, 0x10#32] = some (.ldX .i64 true 2#3 5#5 1#5 (.imm 0x10#32)) ∧
  decodeWords 0x01800072#32 [0#32, 0xFF00FFFF#32] = some (.waitc 0xFF00FFFF#32) ∧
  decodeWords 0x030000DA#32 [0#32, 0x10#32] = some (.srr 0#5 0x10#12) ∧
  decodeWords 0x00800047#32 [0x40000000#32, 0#32, 0x1234#32, 0#32] = some (.call 4#4 0x1234#64)

/-- 01 R18, 03 R58, R60, 11 R230: where task u issues (`State.AtIssue`) and the words fetched at its pc are those of an instruction i,
the step is i's meaning in the state after the fetch, in which the loads whose registers i names have returned (06 R129) and what i
consumes of poisoned words has its records (25 R440); where i orders loads that have returned bytes of the agenda, it waits until they
are performed (the model's own: log entry 122).

03 R70, R77, R78: where the words fetched are those of no instruction, the step takes ILL with the first word in tval and the pc
as its restart point; a first word whose major and length are no pair of the opcode map is so without the words behind it.

03 R60, 05 R124: a fetch whose translation is refused answers the refusal's trap with kind 3, and the step takes it with the pc
as its restart point, whether the first word or a later one is refused; a fetch that waits leaves the context waiting. -/
def Obligations.StepRunsDecoded : Prop :=
  (∀ (s sf s3 : State) (u : Nat) (i : Instr) (w0 : BitVec 32) (ws : List (BitVec 32)),
     s.AtIssue u sf → sf.Fetches w0 ws s3 → decode ((w0 :: ws).flatMap bytes32) = .ok (i, []) →
     (s3.noteStart.mustRedeem i = false → step s = exec i ((s3.noteStart.closeLoads i).consumeBad i)) ∧
     (s3.noteStart.mustRedeem i = true → step s = .next s3.noteStart.block)) ∧
  (∀ (s sf s3 : State) (u : Nat) (w0 : BitVec 32) (ws : List (BitVec 32)),
     s.AtIssue u sf → sf.Fetches w0 ws s3 → decode ((w0 :: ws).flatMap bytes32) = .error (.illegal w0) →
     let r := s3.noteStart
     let l := r.me.sy.trapLevel
     (r.provisional r.cur = false → l ≠ 3 →
       ∃ t, step s = .next t ∧ EntersLevel r l { r.me.sy.bank l with
         cause := 0x00F00001#64, ret := r.pc, tval := w0.setWidth 64, xval := 0#64 } (r.me.sy.bank l).tvec t) ∧
     (r.provisional r.cur = false → l = 3 →
       step s = .next (r.kill r.cur { code := 0x01#8, tval := w0.setWidth 64, level := r.me.sy.tl, reason := 0#2 })) ∧
     (r.provisional r.cur = true → step s = .next r.block)) ∧
  ((∀ (s s' : State) (va : Word) (n : Nat) (e : XFault), s.xlate (s.agentOf s.cur) { x := true } va (4 * n) = (.error e, s') →
     s.fetchWords va n = (.trap (refusalOf s e 3#4), s')) ∧
   ∀ (s sf s2 s3 : State) (u : Nat) (w0 : BitVec 32) (x : TrapInfo), s.AtIssue u sf →
     let more := lenBytes (w0.extractLsb' 0 2) / 4 - 1
     let first (o : Out (List (BitVec 32))) : Prop := sf.fetchWords sf.pc 1 = (o, s3)
     let later (o : Out (List (BitVec 32))) : Prop := headOk w0 = true ∧ lenBytes (w0.extractLsb' 0 2) ≠ 4 ∧
       sf.fetchWords sf.pc 1 = (.ok [w0], s2) ∧ s2.fetchWords (sf.pc + 4#64) more = (o, s3)
     let r := s3.noteStart
     let l := r.me.sy.trapLevel
     (first (.trap x) ∨ later (.trap x) →
       (r.provisional r.cur = false → l ≠ 3 → x.imp = false →
         ∃ t, step s = .next t ∧ EntersLevel r l { r.me.sy.bank l with
           cause := BitVec.ofNat 64 (x.wlev.toNat * 2 ^ 20 + x.kind.toNat * 2 ^ 16 + x.detail.toNat * 2 ^ 8 + x.code.toNat),
           ret := r.pc, tval := x.tval, xval := x.xval } (r.me.sy.bank l).tvec t) ∧
       (r.provisional r.cur = false → l = 3 →
         step s = .next (r.kill r.cur { code := x.code, tval := x.tval, level := r.me.sy.tl, reason := 0#2 })) ∧
       (r.provisional r.cur = true → step s = .next r.block)) ∧
     (first .wait ∨ later .wait → step s = .next s3.block))

/-- 03 R78 and 11 R230, the model's own outcomes: a step never refuses, and it faults only where the agenda names a task that holds no
running context (log entry 1) or has given a load bytes that it does not find when it is performed (log entry 122). Every instruction
and every step of the device goes on.

Every instruction and every step of the device answers a next state in every state: the model stops on none. -/
def Obligations.StepGoesOn : Prop :=
  (∀ s : State, (∃ t, step s = .next t) ∨
     (step s = .fault .noResidentTask ∧ ∃ u rest, s.nextPick = (.act (.issue u), rest) ∧
       ((rest.task u).pl.life ≠ .resident ∨ (rest.task u).pl.run = .out)) ∨
     (step s = .fault .wrongGuess ∧ ∃ k rest o, s.nextPick = (.act (.redeem k), rest) ∧ rest.ms.owed[k]? = some o ∧
       (rest.redeem k).1 = false)) ∧
  (∀ (i : Instr) (s : State), Runs (exec i s))

/-- The canonical form of memory is kept by every step from every state that has it (tier 3). -/
def Obligations.StepKeepsMemoryForm : Prop := ∀ s t : State, s.MemOk → step s = .next t → t.MemOk

/-- Right after reset no task, launch or partition is there, no queue or cache holds anything and no key slot is filled; memory lists
nothing, so that it has its canonical form and every byte reads 0, and task numbers are in order. The values of memory and of task
numbers, and those of clusters, cores, VFs and the hub that the spec gives no reset value for, are the model's own choice (log
entries 2, 5, 9, 10, 11). -/
def Obligations.ResetState : Prop :=
  let s := State.reset
  s.MemOk ∧ (∀ a, memGet s.mem a = 0#8) ∧ s.Numbered ∧ s.tasks = [] ∧ s.launches = [] ∧ (∀ v, (s.vf v).part = none ∧ (s.vf v).keys = [] ∧
    (s.vf v).mctl = 0#64 ∧ (s.vf v).trace.en = false) ∧ (∀ cl, s.cluster cl = {}) ∧ (∀ g, s.coreSt g = {}) ∧ s.msgs = [] ∧ s.ms.tlb = [] ∧
    s.ms.icache = [] ∧ s.hub.attached = false ∧ s.hub.record = {}

/-- Every step keeps task numbers apart: the acting task and every task lie below the number the next task gets. -/
def Obligations.StepKeepsTaskNumbers : Prop := ∀ s t : State, s.Numbered → step s = .next t → t.Numbered

/-- 08 R171: each register ALU variant writes what the table gives, modulo 2^64, with shift counts X(b)[5:0]; it sets no flag,
never traps, and changes nothing else.

08 R172, R173: the immediate variants and li, in every form: the operand is the sign-extended immediate or the literal,
a shift count is the immediate; Next is behind all the words. -/
def Obligations.IntegerAlu : Prop :=
  (∀ (s : State) (d a b : BitVec 5),
     Writes (.add d a b) s d (s.x a + s.x b) 0#5 4 ∧
     Writes (.sub d a b) s d (s.x a - s.x b) 0#5 4 ∧
     Writes (.and d a b) s d (s.x a &&& s.x b) 0#5 4 ∧
     Writes (.or d a b) s d (s.x a ||| s.x b) 0#5 4 ∧
     Writes (.xor d a b) s d (s.x a ^^^ s.x b) 0#5 4 ∧
     Writes (.andn d a b) s d (s.x a &&& ~~~(s.x b)) 0#5 4 ∧
     Writes (.sll d a b) s d (s.x a <<< ((s.x b).extractLsb' 0 6).toNat) 0#5 4 ∧
     Writes (.srl d a b) s d (s.x a >>> ((s.x b).extractLsb' 0 6).toNat) 0#5 4 ∧
     Writes (.sra d a b) s d ((s.x a).sshiftRight ((s.x b).extractLsb' 0 6).toNat) 0#5 4 ∧
     Writes (.addw d a b) s d (((s.x a + s.x b).extractLsb' 0 32).signExtend 64) 0#5 4 ∧
     Writes (.subw d a b) s d (((s.x a - s.x b).extractLsb' 0 32).signExtend 64) 0#5 4 ∧
     Writes (.min d a b) s d (if (s.x a).toInt ≤ (s.x b).toInt then s.x a else s.x b) 0#5 4 ∧
     Writes (.max d a b) s d (if (s.x a).toInt ≤ (s.x b).toInt then s.x b else s.x a) 0#5 4 ∧
     Writes (.minn d a b) s d (if (s.x a).toNat ≤ (s.x b).toNat then s.x a else s.x b) 0#5 4 ∧
     Writes (.maxn d a b) s d (if (s.x a).toNat ≤ (s.x b).toNat then s.x b else s.x a) 0#5 4) ∧
  (∀ (s : State) (d a : BitVec 5) (imm : BitVec 14) (v : BitVec 32) (lit : BitVec 64) (n : BitVec 6),
     Writes (.addi d a imm) s d (s.x a + imm.signExtend 64) 0#5 4 ∧
     Writes (.addiLit d a lit) s d (s.x a + lit) 0#5 12 ∧
     Writes (.andi d a (.imm v)) s d (s.x a &&& v.signExtend 64) 0#5 12 ∧
     Writes (.andi d a (.lit lit)) s d (s.x a &&& lit) 0#5 20 ∧
     Writes (.ori d a (.imm v)) s d (s.x a ||| v.signExtend 64) 0#5 12 ∧
     Writes (.ori d a (.lit lit)) s d (s.x a ||| lit) 0#5 20 ∧
     Writes (.xori d a (.imm v)) s d (s.x a ^^^ v.signExtend 64) 0#5 12 ∧
     Writes (.xori d a (.lit lit)) s d (s.x a ^^^ lit) 0#5 20 ∧
     Writes (.slli d a n) s d (s.x a <<< n.toNat) 0#5 12 ∧
     Writes (.srli d a n) s d (s.x a >>> n.toNat) 0#5 12 ∧
     Writes (.srai d a n) s d ((s.x a).sshiftRight n.toNat) 0#5 12 ∧
     Writes (.li d imm) s d (imm.signExtend 64) 0#5 4 ∧
     Writes (.liLit d lit) s d lit 0#5 12)

/-- 08 R174: products, and quotients and remainders for every divisor unless status.dz is set and the divisor is 0; for the
32-bit forms the operands are the low words.

08 R174, 07 R162, 03 R79: a division by 0 under status.dz takes DIVZ precisely, with the dividend as read in tval, unless
the task is ordered and above the horizon: then it waits. -/
def Obligations.MultiplyAndDivide : Prop :=
  (∀ (s : State) (d a b : BitVec 5),
     Writes (.mul d a b) s d (s.x a * s.x b) 0#5 4 ∧
     Writes (.mulh d a b) s d (((s.x a).signExtend 128 * (s.x b).signExtend 128).extractLsb' 64 64) 0#5 4 ∧
     Writes (.mulhn d a b) s d (((s.x a).setWidth 128 * (s.x b).setWidth 128).extractLsb' 64 64) 0#5 4 ∧
     Writes (.mulw d a b) s d (((s.x a * s.x b).extractLsb' 0 32).signExtend 64) 0#5 4 ∧
     (s.me.sy.dz = false ∨ s.x b ≠ 0#64 →
       Writes (.div d a b) s d (if s.x b = 0#64 then BitVec.allOnes 64 else (s.x a).sdiv (s.x b)) 0#5 4 ∧
       Writes (.divn d a b) s d (if s.x b = 0#64 then BitVec.allOnes 64 else s.x a / s.x b) 0#5 4 ∧
       Writes (.rem d a b) s d (if s.x b = 0#64 then s.x a else (s.x a).srem (s.x b)) 0#5 4 ∧
       Writes (.remn d a b) s d (if s.x b = 0#64 then s.x a else s.x a % s.x b) 0#5 4) ∧
     (s.me.sy.dz = false ∨ (s.x b).extractLsb' 0 32 ≠ 0#32 →
       Writes (.divw d a b) s d (if (s.x b).extractLsb' 0 32 = 0#32 then BitVec.allOnes 64
         else (((s.x a).extractLsb' 0 32).sdiv ((s.x b).extractLsb' 0 32)).signExtend 64) 0#5 4 ∧
       Writes (.remw d a b) s d (if (s.x b).extractLsb' 0 32 = 0#32 then ((s.x a).extractLsb' 0 32).signExtend 64
         else (((s.x a).extractLsb' 0 32).srem ((s.x b).extractLsb' 0 32)).signExtend 64) 0#5 4)) ∧
  (∀ (s : State) (d a b : BitVec 5) (i : Instr) (x : Word), s.me.sy.dz = true →
     (s.x b = 0#64 ∧ x = s.x a ∧ i ∈ [Instr.div d a b, Instr.divn d a b, Instr.rem d a b, Instr.remn d a b]) ∨
       ((s.x b).extractLsb' 0 32 = 0#32 ∧ x = ((s.x a).extractLsb' 0 32).signExtend 64 ∧
         i ∈ [Instr.divw d a b, Instr.remw d a b]) →
     (s.provisional s.cur = false → s.me.sy.trapLevel ≠ 3 →
       Traps i s s.me.sy.trapLevel 0x00F00008#64 s.pc x 0#64) ∧
     (s.provisional s.cur = true → Waits i s))

/-- 08 R175: counts, byte reversal and rotations; bext packs the bits under the mask from bit 0 upward and bdep places the low
bits under it, all other bits 0.

08 R176: the compares write 1 or 0, and sel reads d as its condition (zr reads 0). -/
def Obligations.BitsAndCompares : Prop :=
  (∀ (s : State) (d a b : BitVec 5),
     let x := s.x a
     let m := s.x b
     let ones (v : Word) (n : Nat) : Nat := (List.range n).countP (fun k => v.getLsbD k)
     (∃ n, Writes (.clz d a) s d (BitVec.ofNat 64 n) 0#5 4 ∧ n ≤ 64 ∧ (∀ k, 64 - n ≤ k → x.getLsbD k = false) ∧
       (n < 64 → x.getLsbD (63 - n) = true)) ∧
     (∃ n, Writes (.ctz d a) s d (BitVec.ofNat 64 n) 0#5 4 ∧ n ≤ 64 ∧ (∀ k, k < n → x.getLsbD k = false) ∧
       (n < 64 → x.getLsbD n = true)) ∧
     Writes (.popc d a) s d (BitVec.ofNat 64 (ones x 64)) 0#5 4 ∧
     (∃ v, Writes (.rev8 d a) s d v 0#5 4 ∧ ∀ k, k < 8 → v.extractLsb' (8 * k) 8 = x.extractLsb' (56 - 8 * k) 8) ∧
     Writes (.rotl d a b) s d (x.rotateLeft (m.extractLsb' 0 6).toNat) 0#5 4 ∧
     Writes (.rotr d a b) s d (x.rotateRight (m.extractLsb' 0 6).toNat) 0#5 4 ∧
     (∃ v, Writes (.bext d a b) s d v 0#5 4 ∧ (∀ k, k < 64 → m.getLsbD k = true → v.getLsbD (ones m k) = x.getLsbD k) ∧
       ∀ j, ones m 64 ≤ j → v.getLsbD j = false) ∧
     (∃ v, Writes (.bdep d a b) s d v 0#5 4 ∧ ∀ k, k < 64 → v.getLsbD k = (m.getLsbD k && x.getLsbD (ones m k)))) ∧
  (∀ (s : State) (d a b : BitVec 5),
     Writes (.seq d a b) s d (if s.x a = s.x b then 1#64 else 0#64) 0#5 4 ∧
     Writes (.sne d a b) s d (if s.x a = s.x b then 0#64 else 1#64) 0#5 4 ∧
     Writes (.slt d a b) s d (if (s.x a).toInt < (s.x b).toInt then 1#64 else 0#64) 0#5 4 ∧
     Writes (.sltn d a b) s d (if (s.x a).toNat < (s.x b).toNat then 1#64 else 0#64) 0#5 4 ∧
     Writes (.sel d a b) s d (if s.x d = 0#64 then s.x b else s.x a) 0#5 4)

/-- 08 R167, R177, R178: the arithmetic forms read f64 or the low 32 bits, compute by 04 R88-R95 and round once, write the
encoding (an f32 one under zeros) and OR the flags of the operation into fflags; fsgnj and fsgnjn move bits only.

08 R179-R181: conversions, rounding to an integral value, the one-hot class mask and the compares with their flags. -/
def Obligations.ScalarFloatingPoint : Prop :=
  (∀ (s : State) (rm : BitVec 2) (w : Bool) (d a b c : BitVec 5),
     let F := if w then Tag.f32 else Tag.f64
     let src (r : BitVec 5) : Nat := if w then ((s.x r).extractLsb' 0 32).toNat else (s.x r).toNat
     let gives (i : Instr) (r : Nat × BitVec 5) (n : Nat) : Prop := Writes i s d (BitVec.ofNat 64 r.1) r.2 n
     let top := if w then 31 else 63
     gives (.fadd rm w d a b) (fpAdd rm F (src a) (src b)) 4 ∧
     gives (.fsub rm w d a b) (fpSub rm F (src a) (src b)) 4 ∧
     gives (.fmul rm w d a b) (fpMul rm F (src a) (src b)) 4 ∧
     gives (.fdiv rm w d a b) (fpDiv rm F (src a) (src b)) 4 ∧
     gives (.fsqrt rm w d a) (fpSqrt rm F (src a)) 4 ∧
     gives (.fmin w d a b) (fpMinMax false F (src a) (src b)) 4 ∧
     gives (.fmax w d a b) (fpMinMax true F (src a) (src b)) 4 ∧
     gives (.ffma rm w d a b c) (fpFma rm F false false (src a) (src b) (src c)) 12 ∧
     gives (.ffms rm w d a b c) (fpFma rm F false true (src a) (src b) (src c)) 12 ∧
     gives (.ffnma rm w d a b c) (fpFma rm F true false (src a) (src b) (src c)) 12 ∧
     (∃ v, Writes (.fsgnj w d a b) s d v 0#5 4 ∧ v.getLsbD top = (s.x b).getLsbD top ∧
       (∀ k, k < top → v.getLsbD k = (s.x a).getLsbD k) ∧ ∀ k, top < k → v.getLsbD k = false) ∧
     (∃ v, Writes (.fsgnjn w d a b) s d v 0#5 4 ∧ v.getLsbD top = !(s.x b).getLsbD top ∧
       (∀ k, k < top → v.getLsbD k = (s.x a).getLsbD k) ∧ ∀ k, top < k → v.getLsbD k = false)) ∧
  (∀ (s : State) (rm : BitVec 2) (w : Bool) (d a b : BitVec 5),
     let F := if w then Tag.f32 else Tag.f64
     let src (v : Bool) (r : BitVec 5) : Nat := if v then ((s.x r).extractLsb' 0 32).toNat else (s.x r).toNat
     let int (i : Instr) (r : Int × BitVec 5) : Prop := Writes i s d (BitVec.ofInt 64 r.1) r.2 4
     let fp (i : Instr) (r : Nat × BitVec 5) : Prop := Writes i s d (BitVec.ofNat 64 r.1) r.2 4
     let rel (i : Instr) (r : Bool × BitVec 5) : Prop := Writes i s d (if r.1 then 1#64 else 0#64) r.2 4
     fp (.fcvt rm w d a) (fpConv rm (if w then .f64 else .f32) F (src (!w) a)) ∧
     int (.ftoi rm w d a) (fpToInt rm (-2 ^ 63) (2 ^ 63 - 1) (fpDecode F (src w a))) ∧
     int (.ftoiw rm w d a) (fpToInt rm (-2 ^ 31) (2 ^ 31 - 1) (fpDecode F (src w a))) ∧
     int (.fton rm w d a) (fpToInt rm 0 (2 ^ 64 - 1) (fpDecode F (src w a))) ∧
     int (.ftonw rm w d a) (fpToInt rm 0 (2 ^ 32 - 1) (fpDecode F (src w a))) ∧
     fp (.itof rm w d a) (fpOfInt rm F (s.x a).toInt) ∧
     fp (.ntof rm w d a) (fpOfInt rm F (s.x a).toNat) ∧
     fp (.fround rm w d a) (fpIntegral rm F (src w a)) ∧
     Writes (.fclass w d a) s d (1#64 <<< fpClass F (src w a)) 0#5 4 ∧
     rel (.feq w d a b) (fpEq F (src w a) (src w b)) ∧
     rel (.flt w d a b) (fpLt F (src w a) (src w b)) ∧
     rel (.fle w d a b) (fpLe F (src w a) (src w b)) ∧
     rel (.funord w d a b) (fpUnord F (src w a) (src w b)))

/-- 04 R88: sums and products of finite data are exact before they are rounded: as rational numbers the datum formed is the sum
or the product, with no flag.

04 R89, R90: rounding a nonzero exact value that does not overflow gives a datum of the format; to nearest, no other finite
datum of the format lies closer, and where another lies as close the result's least fraction bit is 0; toward zero, the result is the
largest magnitude that does not exceed the value; up, it is the least finite datum not below the value; down, the greatest not above. -/
def Obligations.RoundingIsCorrect : Prop :=
  (∀ (rm : BitVec 2) (n1 n2 : Bool) (m1 m2 : Nat) (e1 e2 : Int),
     let val (n : Bool) (m : Nat) (e : Int) : ℚ := (if n then -1 else 1) * (m : ℚ) * (2 : ℚ) ^ e
     (∃ n m e, fpSumV rm (.fin n1 m1 e1) (.fin n2 m2 e2) = (.fin n m e, 0#5) ∧ val n m e = val n1 m1 e1 + val n2 m2 e2) ∧
     (∃ n m e, fpMulV (.fin n1 m1 e1) (.fin n2 m2 e2) = (.fin n m e, 0#5) ∧ val n m e = val n1 m1 e1 * val n2 m2 e2)) ∧
  (∀ (t : Tag) (rm : BitVec 2) (neg : Bool) (m : Nat) (e : Int), t.isFp = true → m ≠ 0 →
     (fpRound rm t neg m e).2 &&& fOF = 0#5 →
     let mag (m : Nat) (e : Int) : ℚ := (m : ℚ) * (2 : ℚ) ^ e
     let val (n : Bool) (m : Nat) (e : Int) : ℚ := (if n then -1 else 1) * mag m e
     ∃ m' e', fpDecode t (fpRound rm t neg m e).1 = .fin neg m' e' ∧
       (rm = 2#2 → val neg m e ≤ val neg m' e') ∧ (rm = 3#2 → val neg m' e' ≤ val neg m e) ∧
       (∀ (y : Nat) (my : Nat) (ey : Int), y < 2 ^ fpWidth t → fpDecode t y = .fin neg my ey →
         (rm = 0#2 → |mag m' e' - mag m e| ≤ |mag my ey - mag m e| ∧
           (|mag my ey - mag m e| = |mag m' e' - mag m e| → mag my ey ≠ mag m' e' → (fpRound rm t neg m e).1 % 2 = 0)) ∧
         (rm = 1#2 → mag m' e' ≤ mag m e ∧ (mag my ey ≤ mag m e → mag my ey ≤ mag m' e'))) ∧
       ∀ (n : Bool) (y : Nat) (my : Nat) (ey : Int), y < 2 ^ fpWidth t → fpDecode t y = .fin n my ey →
         (rm = 2#2 → val neg m e ≤ val n my ey → val neg m' e' ≤ val n my ey) ∧
         (rm = 3#2 → val n my ey ≤ val neg m e → val n my ey ≤ val neg m' e'))

/-- 08 R170, R182, R183: the conditions of the eight compare-branches and of j, their targets, and where they are kill points. -/
def Obligations.BranchesAndJump : Prop :=
  ∀ (s : State) (a b : BitVec 5) (disp : BitVec 11) (far : BitVec 24),
    Branches (.beq a b disp) s (decide (s.x a = s.x b)) disp.toInt ∧
    Branches (.bne a b disp) s (decide (s.x a ≠ s.x b)) disp.toInt ∧
    Branches (.blt a b disp) s (decide ((s.x a).toInt < (s.x b).toInt)) disp.toInt ∧
    Branches (.bge a b disp) s (decide ((s.x b).toInt ≤ (s.x a).toInt)) disp.toInt ∧
    Branches (.bltn a b disp) s (decide ((s.x a).toNat < (s.x b).toNat)) disp.toInt ∧
    Branches (.bgen a b disp) s (decide ((s.x b).toNat ≤ (s.x a).toNat)) disp.toInt ∧
    Branches (.bany a b disp) s (decide (s.x a &&& s.x b ≠ 0#64)) disp.toInt ∧
    Branches (.bnone a b disp) s (decide (s.x a &&& s.x b = 0#64)) disp.toInt ∧
    Branches (.j far) s true far.toInt

/-- 08 R184, 07 R154: where the target is aligned, the new window lies within the stack and its lines are resident (s' is the
state after the spill and fill that R156 asks for), a call slides the window by n registers, so that the caller's a(k + n) is
the callee's a(k), writes the link into the new a15 and goes to the target.

08 R184, 07 R154: where a15 is a link, its target is aligned and the lines of the caller's window are resident (s' is the
state after the fill), ret slides the window back and goes to the link's address; no slot of the register stack is written.

08 R184, R60: the checks of call, callr, jr and ret in their order, for a task that is not above the horizon: IALIGN with the
target, RSOVF with the limit that was passed, LINK with a15. jr to an aligned target goes there.

07 R155, R156: a line is written at its image address, its 16 slots little-endian, and is then clean; a line is read there, and its
slots are what memory holds; a refused write takes SPILL and a refused read FILL, with the lowest address that faults. The memory
system is calm, and the line's address translates as one run.

07 R155, R156: which lines a call, a return or a trap return moves. Where the new window's lines are resident, nothing moves. A
call to a window with a line that is not fills each such line; where 32 lines are held, the four of lowest address outside the window
leave first, the dirty ones written in ascending order, the clean ones not. A return or trap return that lacks a line fills it; where
32 are held it frees one: the clean one of lowest address outside the window unwritten, or, where each outside is dirty, the lowest,
written. Where one of a call's accesses faults, the call takes its trap, and the window, the slots and the set of lines are as
before. -/
def Obligations.CallsAndReturns : Prop :=
  (∀ (s s' : State) (n : BitVec 4) (a : BitVec 5) (target : Word) (i : Instr) (size : Nat),
     (i = .call n target ∧ size = 20) ∨ (i = .callr n a ∧ target = s.x a ∧ size = 4) →
     n ≠ 0#4 → target.extractLsb' 0 2 = 0#2 →
     s.me.rf.wbase.toNat + 8 * n.toNat + 128 ≤ s.me.sy.stklim.toNat →
     s.callLines (s.me.rf.wbase + BitVec.ofNat 64 (8 * n.toNat)) = (.ok (), s') → s'.pc = s.pc → s'.me.rf.wbase = s.me.rf.wbase →
     ∃ t, exec i s = .next t ∧ RetiresTo target s' t ∧
       t.me.rf.wbase = s.me.rf.wbase + BitVec.ofNat 64 (8 * n.toNat) ∧
       t.me.x 15#5 = (n.setWidth 64 <<< 56) ||| (s.pc + BitVec.ofNat 64 size) ∧
       (∀ k, k < 15 → k + n.toNat < 16 → t.me.x (BitVec.ofNat 5 k) = s'.me.x (BitVec.ofNat 5 (k + n.toNat))) ∧
       (∀ r : BitVec 5, 16 ≤ r.toNat → t.me.x r = s'.me.x r) ∧
       SameVectors s' t ∧ SameTiles s' t ∧ SystemBut s'.me.sy.fflags s' t ∧ OnlyTasks s' t ∧ OtherTasks s' t ∧ SameQueues s' t) ∧
  (∀ (s s' : State),
     let k := s.x 15#5
     let back : Word := (k.extractLsb' 56 4).setWidth 64 * 8#64
     k.extractLsb' 60 4 = 0#4 → k.extractLsb' 56 4 ≠ 0#4 → k.extractLsb' 0 2 = 0#2 →
     s.me.sy.stkbase.toNat + back.toNat ≤ s.me.rf.wbase.toNat →
     s.retLines (s.me.rf.wbase - back) (s.me.rf.missing (s.me.rf.wbase - back)) = (.ok (), s') →
     ∃ t, exec .ret s = .next t ∧ RetiresTo ((k.extractLsb' 0 56).setWidth 64) s' t ∧
       t.me.rf.wbase = s.me.rf.wbase - back ∧ t.me.rf.slots = s'.me.rf.slots ∧ t.me.rf.g = s'.me.rf.g ∧
       SameVectors s' t ∧ SameTiles s' t ∧ SystemBut s'.me.sy.fflags s' t ∧ OnlyTasks s' t ∧ OtherTasks s' t ∧ SameQueues s' t) ∧
  (∀ (s : State) (n : BitVec 4) (a : BitVec 5) (target : Word), s.provisional s.cur = false → s.me.sy.trapLevel ≠ 3 →
     let l := s.me.sy.trapLevel
     let top := s.me.rf.wbase.toNat + 8 * n.toNat + 128
     let k := s.x 15#5
     let badLink := k.extractLsb' 60 4 ≠ 0#4 ∨ k.extractLsb' 56 4 = 0#4 ∨
       s.me.rf.wbase.toNat < s.me.sy.stkbase.toNat + 8 * (k.extractLsb' 56 4).toNat
     (target.extractLsb' 0 2 ≠ 0#2 → Traps (.call n target) s l 0x00F00002#64 s.pc target 0#64) ∧
     ((s.x a).extractLsb' 0 2 ≠ 0#2 → Traps (.callr n a) s l 0x00F00002#64 s.pc (s.x a) 0#64 ∧
       Traps (.jr a) s l 0x00F00002#64 s.pc (s.x a) 0#64) ∧
     (target.extractLsb' 0 2 = 0#2 → s.me.sy.stklim.toNat < top →
       Traps (.call n target) s l 0x00F0000C#64 s.pc (BitVec.ofNat 64 top) 0#64) ∧
     ((s.x a).extractLsb' 0 2 = 0#2 → s.me.sy.stklim.toNat < top →
       Traps (.callr n a) s l 0x00F0000C#64 s.pc (BitVec.ofNat 64 top) 0#64) ∧
     ((s.x a).extractLsb' 0 2 = 0#2 → GoesTo (.jr a) s (s.x a)) ∧
     (badLink → Traps .ret s l 0x00F0000D#64 s.pc k 0#64) ∧
     (¬ badLink → k.extractLsb' 0 2 ≠ 0#2 → Traps .ret s l 0x00F00002#64 s.pc ((k.extractLsb' 0 56).setWidth 64) 0#64)) ∧
  (∀ (s s1 : State) (line : Nat) (g : Seg) (e : XFault),
     let va := BitVec.ofNat 64 (128 * line)
     (s.xlate (s.agentOf s.cur) { w := true } va 128 = (.error e, s1) → s.writeLine line = (.trap (refusalOf s e 6#4), s1)) ∧
     (s.xlate (s.agentOf s.cur) { rd := true } va 128 = (.error e, s1) → s.fillLine line = (.trap (refusalOf s e 7#4), s1)) ∧
     (s.xlate (s.agentOf s.cur) { w := true } va 128 = (.ok [g], s1) → g.len = 128 → s1.Calm →
       ∃ t, s.writeLine line = (.ok (), t) ∧
         (∀ a, memGet t.mem a = bytesOver s1 ((locRange g.at_.loc 128).zip (s.me.rf.lineBytes line)) a) ∧
         t.me.rf = { s.me.rf with lines := s.me.rf.lines.map (fun p => if p.1 = line then (p.1, false) else p),
                                  bad := s.me.rf.bad.filter (fun k => k / 16 != line) } ∧ MemorySide s t ∧ OthersKept s t s.cur) ∧
     (s.xlate (s.agentOf s.cur) { rd := true } va 128 = (.ok [g], s1) → g.len = 128 → s1.Calm →
       ∃ t, s.fillLine line = (.ok (), t) ∧ t.mem = s1.mem ∧ t.me.rf.lines = (line, false) :: s.me.rf.lines ∧
         (∀ k, k < 16 → Map.get 0#64 t.me.rf.slots (16 * line + k) =
           BitVec.ofNat 64 (leNat ((locRange (g.at_.loc + 8 * k) 8).map (memGet s1.mem)))) ∧
         (∀ k, k / 16 ≠ line → Map.get 0#64 t.me.rf.slots k = Map.get 0#64 s.me.rf.slots k) ∧ MemorySide s t ∧ OthersKept s t s.cur)) ∧
  (∀ (s s1 t : State) (wb : Word) (l : Nat) (p : Nat × Bool) (ls : List (Nat × Bool)) (x : TrapInfo),
     let f := s.me.rf
     let out (q : Nat × Bool) : Prop := q ∈ f.lines ∧ q.1 ∉ linesOf wb
     let lower (l : Nat) : Nat := (f.lines.filter (fun q => decide (q.1 ∉ linesOf wb ∧ q.1 < l))).length
     linesOf wb = (if wb.toNat % 128 = 0 then [wb.toNat / 128] else [wb.toNat / 128, wb.toNat / 128 + 1]) ∧
     (f.missing wb = [] → s.callLines wb = (.ok (), s) ∧ s.retLines wb (f.missing wb) = (.ok (), s)) ∧
     (f.missing wb ≠ [] → s.callLines wb = (.ok (), t) →
       (∀ l, (∃ d, (l, d) ∈ t.me.rf.lines) ↔
         l ∈ linesOf wb ∨ ((∃ d, (l, d) ∈ f.lines) ∧ (f.lines.length < 32 ∨ 4 ≤ lower l)))) ∧
     (s.callLines wb = (.trap x, t) → t.me.rf = { f with lines := t.me.rf.lines, bad := t.me.rf.bad } ∧
       t.me.rf.lines.map (·.1) = f.lines.map (·.1)) ∧
     s.spillLines ((l, false) :: ls) = s.spillLines ls ∧
     (s.writeLine l = (.ok (), s1) → s.spillLines ((l, true) :: ls) = s1.spillLines ls) ∧
     (s.retLines wb [l] = (.ok (), t) →
       (f.lines.length < 32 → t.me.rf.lines = (l, false) :: f.lines) ∧
       (32 ≤ f.lines.length → (out p ∧ p.2 = false ∧ ∀ q, out q → q.2 = false → p.1 ≤ q.1) →
         t.me.rf.lines = (l, false) :: f.lines.filter (fun q => q.1 != p.1) ∧ SameBytes s t) ∧
       (32 ≤ f.lines.length → (out p ∧ ∀ q, out q → q.2 = true ∧ p.1 ≤ q.1) →
         t.me.rf.lines.map (·.1) = l :: (f.lines.filter (fun q => q.1 != p.1)).map (·.1) ∧
         ∃ s1, s.writeLine p.1 = (.ok (), s1) ∧ SameBytes s1 t)))

/-- 07 R162: a trap goes to the first level above status.tl that has a handler; the bank of the level takes the cause, the
restart point, tval and xval; status.tl becomes the level and the pc the handler's address; the whole of the other system registers,
every general, vector, mask and handle register, the queues and memory stay. With no such level the context is killed (R165).

08 R185: trap retires (r is the state after that) and takes TRAP with X(a) in tval and the restart point behind itself, as
`EntersLevel` says; with no handler at a higher level it kills the context (R165); above the horizon it waits. That it counts as a
retired instruction is the model's reading (log entry 66).

08 R185, 07 R162, R164: tret at level 0 takes SYSREG; above it, with no earlier store unresolved and no record queued, it
goes to ret of the level and lowers status.tl by 1, where the lines of the window are resident, and likewise from the state s' that
the fill of R156 leaves where some are not; no other system register changes but the budget that retirement lowers in dmodes 1 and 2.
With an earlier store unresolved it waits, and a queued record is reported instead. -/
def Obligations.TrapsAndReturns : Prop :=
  (∀ (s : State) (x : TrapInfo) (back : Word),
     let y := s.me.sy
     let count := if x.imp then s.me.io.sfq.length * 2 ^ 32 + 2 ^ 31 + (if s.me.io.ovf then 2 ^ 30 else 0) else 0
     let cause := BitVec.ofNat 64 (count + x.wlev.toNat * 2 ^ 20 + x.kind.toNat * 2 ^ 16 + x.detail.toNat * 2 ^ 8 + x.code.toNat)
     let enters (l : Nat) (b : Bank) : Prop :=
       EntersLevel s l { b with cause := cause, ret := back, tval := x.tval, xval := x.xval } b.tvec (s.takeTrap x back)
     (y.tl = 0#2 → y.b1.tvec ≠ 0#64 → enters 1 y.b1) ∧
     (y.tl.toNat ≤ 1 → (y.tl = 1#2 ∨ y.b1.tvec = 0#64) → y.b2.tvec ≠ 0#64 → enters 2 y.b2) ∧
     ((2 ≤ y.tl.toNat ∨ y.b2.tvec = 0#64) → (y.tl ≠ 0#2 ∨ y.b1.tvec = 0#64) →
       s.takeTrap x back = s.kill s.cur { code := x.code, tval := x.tval, level := y.tl, reason := 0#2 })) ∧
  (∀ (s : State) (a : BitVec 5),
     let l := s.me.sy.trapLevel
     (s.provisional s.cur = false → l ≠ 3 →
       ∃ r t, exec (.trap a) s = .next t ∧ RetiresTo (s.pc + 4#64) s r ∧ AllRegs s r ∧ SameVectors s r ∧ SameTiles s r ∧
         SystemBut s.me.sy.fflags s r ∧ Frame s r ∧
         EntersLevel r l { s.me.sy.bank l with cause := 0x00F00019#64, ret := s.pc + 4#64, tval := s.x a, xval := 0#64 }
           (s.me.sy.bank l).tvec t) ∧
     (s.provisional s.cur = false → l = 3 →
       exec (.trap a) s = .next ((s.retire 4).kill s.cur
         { code := 0x19#8, tval := s.x a, level := s.me.sy.tl, reason := 0#2 })) ∧
     (s.provisional s.cur = true → Waits (.trap a) s)) ∧
  (∀ (s s' : State),
     let l := s.me.sy.tl
     let lowers (s t : State) : Prop := t.me.sy = { s.me.sy with
       tl := BitVec.ofNat 2 (s.me.sy.tl.toNat - 1),
       budLeft := if s.det && s.me.sy.budOn then BitVec.ofNat 63 (s.me.sy.budLeft.toNat - 1) else s.me.sy.budLeft }
     (l = 0#2 → s.provisional s.cur = false → s.me.sy.trapLevel ≠ 3 →
       Traps .tret s s.me.sy.trapLevel 0x00F0001A#64 s.pc 0#64 0#64) ∧
     (l ≠ 0#2 → s.me.io.sq = [] → s.me.io.upds = [] → s.me.io.sfq = [] → s.me.rf.missing s.me.rf.wbase = [] →
       ∃ t, exec .tret s = .next t ∧ RetiresTo (s.me.sy.bank l.toNat).ret s t ∧ lowers s t ∧
         AllRegs s t ∧ SameVectors s t ∧ SameTiles s t ∧ Frame s t) ∧
     (l ≠ 0#2 → s.me.io.sq = [] → s.me.io.upds = [] → s.me.io.sfq = [] →
       s.retLines s.me.rf.wbase (s.me.rf.missing s.me.rf.wbase) = (.ok (), s') →
       ∃ t, exec .tret s = .next t ∧ RetiresTo (s'.me.sy.bank s'.me.sy.tl.toNat).ret s' t ∧ lowers s' t ∧
         AllRegs s' t ∧ SameVectors s' t ∧ SameTiles s' t ∧ SameWindow s' t ∧ SameQueues s' t ∧ OnlyTasks s' t ∧
         OtherTasks s' t) ∧
     (l ≠ 0#2 → s.me.io.sq ≠ [] → Waits .tret s) ∧
     (∀ r rs, l ≠ 0#2 → s.me.io.sq = [] → s.me.io.upds = [] → s.me.io.sfq = r :: rs → s.provisional s.cur = false →
       s.me.sy.trapLevel ≠ 3 → s.me.io.ovf = false → s.me.io.sfq.length ≤ 8 →
       ∃ cause, Traps .tret s s.me.sy.trapLevel cause s.pc r.q1 r.q3 ∧ cause.extractLsb' 0 8 = r.q2.extractLsb' 0 8 ∧
         cause.getLsbD 31 = true ∧ (cause.extractLsb' 32 16).toNat = s.me.io.sfq.length))

/-- 07 R165: a kill ends the task: it is nowhere any more, its record (lid, code, level reached and reason, ret and tval of the last
bank; 0 with no bank taken, the model's choice of log entry 82) is in the launch's status and its launch counts one kill more, up to
0xFFFF. In dmodes 1 and 2 the record of a task of a lower lid that the same phase left there stays (01 R30; the model's reading of
log entry 97). The record enters the queue of the task's core for the launch, of four entries, which krec0-krec3 read, and the lid is posted to
p31 of that core: where nothing holds it there, no value is present and no binding is on it, it is its value. -/
def Obligations.KillRecords : Prop :=
  ∀ (s : State) (u : Nat) (t : Task) (x : Launch) (k : PendKill),
    Map.get? s.tasks u = some t → Map.get? s.launches t.tid.launch = some x →
    let y := (s.kill u k).launch t.tid.launch
    Map.get? (s.kill u k).tasks u = none ∧
    let lower : Prop := dmodeOf x.mode ≠ 0 ∧ x.kills ≠ 0 ∧ x.krecIn = x.phase ∧ x.krec.q0.toNat < t.tid.lid.toNat
    (lower → y.krec = x.krec) ∧
    (¬ lower →
      y.krec.q0 = t.tid.lid ∧ y.krec.q1 = BitVec.ofNat 64 (k.code.toNat + 256 * k.level.toNat + 1024 * k.reason.toNat) ∧
      (t.sy.lastBank ≠ 1#2 → t.sy.lastBank ≠ 2#2 → y.krec.q2 = 0#64 ∧ y.krec.q3 = 0#64) ∧
      (t.sy.lastBank = 1#2 → y.krec.q2 = t.sy.b1.ret ∧ y.krec.q3 = t.sy.b1.tval) ∧
      (t.sy.lastBank = 2#2 → y.krec.q2 = t.sy.b2.ret ∧ y.krec.q3 = t.sy.b2.tval)) ∧
    y.kills = min 0xFFFF (x.kills + 1) ∧
    let c := s.coreSt t.pl.core
    let d := (s.kill u k).coreSt t.pl.core
    let q := Map.get [] c.killq t.tid.launch
    (t.tid.handler = false → Map.get [] d.killq t.tid.launch = if q.length < 4 then q ++ [killRec t k.code k.level k.reason] else q) ∧
    (t.tid.ord = false → t.io.upds = [] → t.tid.bind = none → t.tid.cell = none → t.tid.handler = false → t.pl.life = .resident →
      s.halted t.pl.core t.tid.launch = false → Map.get? c.posts 31 = none → Map.get? c.binds 31 = none →
      ∃ m, Map.get? d.posts 31 = some m ∧ m.val = t.tid.lid.setWidth 1024 ∧ m.kill = true ∧ m.launch = t.tid.launch)

/-- 05 R119, R120: the walk in a calm memory system reads, level by level, the 8 bytes at the table's base plus 8 × the index of the
level: VA[55:39], VA[38:30], VA[29:21], VA[20:16], the first table at xroot and each other where the entry before it says. An entry
that is not valid or malformed at its level stops the walk with that level; a leaf ends it. The walk changes nothing.

05 R120: what makes an entry malformed at a level: a reserved field; of a leaf level 0, cache 3, w without rd, nb or bits of the page
base below the page size; of an entry that names a table level 3, its alignment at levels 0 and 1, or a table that is not wholly in
device DRAM that the partition owns.

05 R109, R119-R124, 06 R132, R147: a translation changes no register and no byte of memory but by lifting pins and combining
update-only copies of the entries it walks; where there are none and one key is in use it changes nothing but the cached translations
and the counter of free values. What an access that is refused names is the last clause's matter.

05 R109, R118-R121, R124, for an access that lies in one 64 KiB block and whose translation no TLB holds and no poisoned word stands
in the way of. An address that the selector refuses takes ADDR. A CLM address below the queue area is its cluster's, untranslated. A
walk that stops takes XLATE with the level of its entry. With a leaf at level 1, 2 or 3, of 1 GiB, 2 MiB or 64 KiB, an access that the
leaf does not permit takes PERM (a write in dmodes 1 and 2 needs det), one under an empty key slot PERM with detail 1 (23 R418), one
beyond what the link has PHYS at the first byte that is not there, each with the leaf's level; any other is granted at its place in the
page. That detail is 0 for the other PERM is the choice of log entry 81. -/
def Obligations.Translation : Prop :=
  (∀ (s : State) (vf : Nat) (va : Word), s.Calm →
     let p := s.part vf
     let entry (base i : Nat) : Word := BitVec.ofNat 64 (leNat ((locRange (p.locOf (base + 8 * i)) 8).map (memGet s.mem)))
     let next (e : Word) : Nat := (e.extractLsb' 16 36).toNat * 2 ^ 16 + (e.extractLsb' 8 8).toNat * 2 ^ 8
     let bad (lv : Nat) (e : Word) : Prop := e.getLsbD 0 = false ∨ s.malformed p lv e = true
     let e0 := entry p.xroot.toNat (va.extractLsb' 39 17).toNat
     let e1 := entry (next e0) (va.extractLsb' 30 9).toNat
     let e2 := entry (next e1) (va.extractLsb' 21 9).toNat
     let e3 := entry (next e2) (va.extractLsb' 16 5).toNat
     (bad 0 e0 → s.walk vf va = (.error 0, s)) ∧
     (¬ bad 0 e0 → e0.getLsbD 1 = false ∧
       (bad 1 e1 → s.walk vf va = (.error 1, s)) ∧
       (¬ bad 1 e1 → e1.getLsbD 1 = true → s.walk vf va = (.ok (e1, 1), s)) ∧
       (¬ bad 1 e1 → e1.getLsbD 1 = false →
         (bad 2 e2 → s.walk vf va = (.error 2, s)) ∧
         (¬ bad 2 e2 → e2.getLsbD 1 = true → s.walk vf va = (.ok (e2, 2), s)) ∧
         (¬ bad 2 e2 → e2.getLsbD 1 = false →
           (bad 3 e3 → s.walk vf va = (.error 3, s)) ∧ (¬ bad 3 e3 → e3.getLsbD 1 = true ∧ s.walk vf va = (.ok (e3, 3), s)))))) ∧
  (∀ (s : State) (p : Part) (lv : Nat) (e : Word), lv ≤ 3 →
     let next := (e.extractLsb' 16 36).toNat * 2 ^ 16 + (e.extractLsb' 8 8).toNat * 2 ^ 8
     let owned (a n : Nat) : Prop := a < 2 ^ 45 ∧ a % 2 ^ 39 + n ≤ s.linkBytes p (a / 2 ^ 39)
     (s.malformed p lv e = true ↔
       e.extractLsb' 52 4 ≠ 0#4 ∨ e.extractLsb' 6 2 ≠ 0#2 ∨ e.getLsbD 2 = true ∨
       (e.getLsbD 1 = true ∧ (lv = 0 ∨ e.extractLsb' 56 2 = 3#2 ∨ (e.getLsbD 4 = true ∧ e.getLsbD 3 = false) ∨
         e.extractLsb' 8 8 ≠ 0#8 ∨ (lv = 2 ∧ e.extractLsb' 16 5 ≠ 0#5) ∨ (lv = 1 ∧ e.extractLsb' 16 14 ≠ 0#14))) ∨
       (e.getLsbD 1 = false ∧ (lv = 3 ∨ (lv ≤ 1 ∧ e.extractLsb' 8 4 ≠ 0#4) ∨ ¬ owned next (if lv = 2 then 256 else 4096))))) ∧
  (∀ (s s' : State) (who : Agent) (need : Need) (va : Word) (n : Nat) (r : Except XFault (List Seg)),
     s.xlate who need va n = (r, s') →
       MemorySide s s' ∧ SameBytes s s' ∧ (∀ u, TaskKept s s' u) ∧ (s.MemOk → s'.MemOk) ∧
       (s.ms.pins = [] → s.ms.reds = [] → s.OneKey →
         s' = { s with ms := { s.ms with tlb := s'.ms.tlb }, freeCtr := s'.freeCtr }) ∧
       ∀ gs, r = .ok gs → (segLocs gs).length = n ∧ (segVas gs).length = n) ∧
  (∀ (s s1 : State) (who : Agent) (need : Need) (va e : Word) (n lv c off : Nat), 0 < n → va.toNat % 65536 + n ≤ 65536 →
     let p := s.part who.vf
     let fails (x : XFault) : Prop := ∃ t, s.xlate who need va n = (.error x, t)
     (selectVa p who.cl va = .bad → fails { va := va, code := 0x03#8 }) ∧
     (selectVa p who.cl va = .clm c off → off + n ≤ 2 ^ 21 - 64 * p.qunits →
       s.xlate who need va n = (.ok [{ va := va, at_ := { loc := clmBase c + off, clm := true, det := true }, len := n }], s)) ∧
     (selectVa p who.cl va = .xlat → s.tlbFind who.vf who.core va = [] → s.ms.poison = [] →
       (s.walk who.vf va = (.error lv, s1) → fails { va := va, code := 0x04#8, wlev := BitVec.ofNat 4 lv }) ∧
       (s.walk who.vf va = (.ok (e, lv), s1) → 1 ≤ lv → lv ≤ 3 →
         let allowed : Bool := (!need.rd || pteRd e) && (!need.w || pteW e) && (!need.x || pteX e) &&
           (!need.w || !who.det || pteDet e)
         let pa := ptePage e + va.toNat % (if lv = 1 then 2 ^ 30 else if lv = 2 then 2 ^ 21 else 2 ^ 16)
         let room := s.physRoom p pa
         (allowed = false → fails { va := va, code := 0x05#8, wlev := BitVec.ofNat 4 lv, detail := 0#8 }) ∧
         (allowed = true → s.keyReady who.vf (pteKey e) = false →
           fails { va := va, code := 0x05#8, wlev := BitVec.ofNat 4 lv, detail := 1#8 }) ∧
         (allowed = true → s.keyReady who.vf (pteKey e) = true → room < n →
           fails { va := va + BitVec.ofNat 64 room, code := 0x06#8, wlev := BitVec.ofNat 4 lv }) ∧
         (allowed = true → s.keyReady who.vf (pteKey e) = true → n ≤ room →
           ∃ g t, s.xlate who need va n = (.ok [g], t) ∧ g.va = va ∧ g.len = n ∧ g.at_.loc = p.locOf pa ∧
             g.at_.clm = false ∧ g.at_.det = pteDet e ∧ g.at_.sysatom = pteSysatom e ∧ g.at_.cache = pteCache e ∧
             g.at_.key = pteKey e))))

/-- 06 R128-R131, R147: a read of memory answers as many bytes as it asks for; no byte of memory changes but by the combining of
update-only copies and the lifting of pins; every other task is kept and the reader's registers do not change.

06 R128, 03 R81: where the memory system is calm and the launch runs in dmode 0, a task that is not ordered reads at
each translated location the byte that its own latest queued store writes there, else memory's byte.

03 R58, R59, R62: in a calm memory system the words that a fetch delivers are those of memory at the translated locations, where
the core's instruction cache holds no word of them, the task's store queue no byte of them, nothing holds the fetch and it is not
tracked; fetching changes no register, no memory byte and no other task. That a word which the core holds no copy of is memory's
present contents is the model's choice (log entry 21). -/
def Obligations.ReadsAndFetches : Prop :=
  (∀ (s s' : State) (kind : BitVec 4) (va : Word) (n : Nat) (bs : List Byte), s.MemOk →
     s.readMem kind va n = (.ok bs, s') → bs.length = n ∧ s'.MemOk ∧ SameBytes s s' ∧ MemorySide s s' ∧ OthersKept s s' s.cur ∧ s'.me.rf = s.me.rf ∧ s'.me.sy = s.me.sy ∧
     s'.me.tid = s.me.tid ∧ s'.me.io.lq.length = s.me.io.lq.length ∧ s'.me.io.sq.Sublist s.me.io.sq ∧
     s'.me.io = { s.me.io with
       reads := s'.me.io.reads, unord := s'.me.io.unord, lq := s'.me.io.lq, early := s'.me.io.early, sq := s'.me.io.sq }) ∧
  (∀ (s s1 : State) (kind : BitVec 4) (va : Word) (n : Nat) (gs : List Seg),
     s.xlate (s.agentOf s.cur) { rd := true } va n = (.ok gs, s1) → s.Calm → s.det = false → s.me.tid.ord = false →
     s1.mustWait false (segLocs gs) = false →
     ∃ t, s.readMem kind va n = (.ok ((segLocs gs).map (fun l => (forwarded s.me.io.sq l).getD (memGet s.mem l))), t) ∧
       t = { s1 with ms := t.ms, tasks := t.tasks } ∧ t.mem = s.mem ∧ OtherTasks s1 t ∧
       t.me = { s1.me with io := { s1.me.io with lq := t.me.io.lq, early := t.me.io.early } }) ∧
  (∀ (s s1 : State) (va : Word) (n : Nat) (g : Seg),
     s.xlate (s.agentOf s.cur) { x := true } va (4 * n) = (.ok [g], s1) →
     s1.Calm → (s1.tracks = false ∨ (g.at_.clm = false ∧ g.at_.det = false)) → g.len = 4 * n →
     (∀ k, k < n → Map.get? (Map.get [] s1.ms.icache s1.me.pl.core) (g.at_.loc + 4 * k) = none) →
     (∀ e ∈ s1.me.io.sq, ∀ c ∈ e.cells, c.1 < g.at_.loc ∨ g.at_.loc + 4 * n ≤ c.1) →
     s1.hostBusy (locRange g.at_.loc (4 * n)) = false → s1.tileBlocks (locRange g.at_.loc (4 * n)) = false → (s1.provisional s1.cur = false ∨ isHost g.at_.loc = false) →
     ∃ t, s.fetchWords va n = (.ok ((List.range n).map (fun k =>
         BitVec.ofNat 32 (leNat ((locRange (g.at_.loc + 4 * k) 4).map (memGet s1.mem))))), t) ∧
       t = { s1 with ms := t.ms, tasks := t.tasks } ∧ OtherTasks s1 t ∧
       t.me = { s1.me with io := { s1.me.io with reads := t.me.io.reads } })

/-- 08 R186: a load whose read of memory answers bytes (s' is the state after it) writes them to X(d), extended with sign for
i tags and with zeros for the others, little-endian; L counts one more. The three forms compute their address from X(a) and
imm14, imm32, the literal or a shifted X(b). That the entry of L may be performed again later, until the register is used, is the
model's reading (log entry 16).

08 R187, R163, 07 R162, 05 R124: a load of each form that its translation refuses takes the precise trap of the refusal, with the
lowest address that faults in tval and kind 1; an acquire form that is not aligned takes ALIGN.

03 R75, 06 R129, R140: LOAD_RETURN of a load with nothing left to read lowers L by 1 and changes nothing else; an AMO's write that
the host agent still has to make is made; a load that may still be performed, of one element and of a task that is not ordered, in a
calm memory system, is performed now: its register, or the stack slot that it named where the window has moved, takes, extended by its
tag, what the task's queued stores or memory hold, and L is lowered by 1. It may take what was read ahead instead, and bytes of the
agenda, which are then still to be found; reading ahead changes no register and no memory byte. That a load may be performed so, and
words be read ahead, is the model's reading (log entries 16, 122). -/
def Obligations.LoadValues : Prop :=
  (∀ (s s' : State) (t : Tag) (acq : Bool) (scope : BitVec 3) (d a b : BitVec 5) (imm : BitVec 14) (disp : Src) (sh : BitVec 2)
     (bs : List Byte), s.me.io.lq.length < 64 →
     let value (t : Tag) : Word := if t.isSigned then (BitVec.ofNat t.width (leNat bs)).signExtend 64
       else (BitVec.ofNat t.width (leNat bs)).setWidth 64
     let off : Word := match disp with | .imm v => v.signExtend 64 | .lit v => v
     let ok (va : Word) : Prop := acq = true → va.toNat % (t.width / 8) = 0
     (s.readMem 1#4 (s.x a + imm.signExtend 64) 8 = (.ok bs, s') →
       Loads (.ld d a imm) s s' d (BitVec.ofNat 64 (leNat bs)) 0#5 4) ∧
     (ok (s.x a + off) → s.readMem 1#4 (s.x a + off) (t.width / 8) (s.wideAcq acq scope) = (.ok bs, s') →
       Loads (.ldX t acq scope d a disp) s s' d (value t) 0#5 (match disp with | .imm _ => 12 | .lit _ => 20)) ∧
     (ok (s.x a + (s.x b <<< sh.toNat)) →
       s.readMem 1#4 (s.x a + (s.x b <<< sh.toNat)) (t.width / 8) (s.wideAcq acq scope) = (.ok bs, s') →
       Loads (.ldIndexed t acq scope d a b sh) s s' d (value t) 0#5 12)) ∧
  (∀ (s s' : State) (i : Instr) (va : Word) (w n : Nat) (d : BitVec 5) (t : Tag) (acq : Bool) (scope : BitVec 3) (e : XFault),
     loadForm s i va w n d t acq scope → s.me.io.lq.length < 64 → s.provisional s.cur = false → s.me.sy.trapLevel ≠ 3 →
     ((acq = true → va.toNat % w = 0) → s.xlate (s.agentOf s.cur) { rd := true } va w = (.error e, s') →
       exec i s = .next (s'.takeTrap (refusalOf s e 1#4) s.pc)) ∧
     (acq = true → va.toNat % w ≠ 0 → Traps i s s.me.sy.trapLevel 0x00F00007#64 s.pc va 0#64)) ∧
  ((∀ (s : State) (u k i j : Nat) (t : Task) (e : LoadEnt), Map.get? s.tasks u = some t → s.loadPlaces[k]? = some (u, i, j) →
     t.io.lq[i]? = some e →
     (e.parts = [] → e.write = [] → exec (.loadReturn k) s = .next { s with
       tasks := Map.set s.tasks u { t with io := { t.io with lq := t.io.lq.eraseIdx i } } }) ∧
     (e.parts = [] → s.MemOk → ∃ r, exec (.loadReturn k) s = .next r ∧ (∀ a, memGet r.mem a = bytesOver s e.write a) ∧
       (r.task u).rf = t.rf ∧ (r.task u).io.lq = t.io.lq.eraseIdx i ∧ OthersKept s r u ∧ MemorySide s r) ∧
     (∀ p tg d, e.parts = [p] → p.idx = 0 → e.bytes.length = p.locs.length → e.dst = .x d tg → s.Calm → t.tid.ord = false →
       s.hostBusy p.locs = false →
       ∃ r, exec (.loadReturn k) s = .next r ∧ r.mem = s.mem ∧ (r.task u).io = { t.io with lq := t.io.lq.eraseIdx i } ∧
         (r.task u).sy = t.sy ∧ OthersKept s r u ∧ MemorySide s r ∧
         loaded e t (r.task u) d (asLoaded tg (leNat (p.locs.map (fun l => (forwarded t.io.sq l).getD (memGet s.mem l))))))) ∧
   (∀ (s : State) (u k i j : Nat) (t : Task) (e : LoadEnt) (p : LoadPart) (tg : Tag) (d : BitVec 5), Map.get? s.tasks u = some t →
     s.loadPlaces[k]? = none → s.earlyPlaces[k - s.loadPlaces.length]? = some (u, i, j) → t.io.lq[i]? = some e →
     e.parts = [p] → p.idx = 0 → e.bytes.length = p.early.length → e.dst = .x d tg →
     ((p.due = true ∧ (e.acq = true ∨ e.fenced = true)) → exec (.loadReturn k) s = .next s) ∧
     (p.due = false ∨ (e.acq = false ∧ e.fenced = false) →
       ∃ r, exec (.loadReturn k) s = .next r ∧ loaded e t (r.task u) d (asLoaded tg (leNat p.early)) ∧
         (r.task u).io = { t.io with lq := t.io.lq.eraseIdx i } ∧ (r.task u).sy = t.sy ∧ OthersKept s r u ∧
         r = { s with tasks := r.tasks, ms := { s.ms with owed := if p.due then s.ms.owed ++
           [{ owner := u, core := t.pl.core, vf := t.tid.vf, locs := p.locs, bytes := p.early, keys := e.keys }] else s.ms.owed } })) ∧
   ∀ (s : State) (k : Nat), s.loadPlaces.length + s.earlyPlaces.length ≤ k →
     ∃ r, exec (.loadReturn k) s = .next r ∧ SameBytes s r ∧ MemorySide s r ∧
       ∀ v, (r.task v).tid = (s.task v).tid ∧ (r.task v).rf = (s.task v).rf ∧ (r.task v).sy = (s.task v).sy ∧
         (r.task v).io.lq.length = (s.task v).io.lq.length)

/-- 08 R186, 06 R131: a store whose translation is granted (s' is the state after it) enters the store queue with the low bytes
of X(d) at its locations, little-endian, for every tag and form; a release form carries its scope. Memory does not change at
issue. The address is that of the form. That its locations are computed at issue, and that a store waits for bytes of the agenda that
an earlier load of its task has taken there, is the model's reading (log entries 17, 122).

06 R130, 07 R164: a store of each form that its translation refuses (s' is the state after it) changes no location and retires;
its record (its address, the lowest faulting address or for a poisoned entry the lid, cause, width, kind 2 and walk level) enters the
store-fault queue behind those of earlier instructions, or sets ovf where eight are held. Above the horizon the task waits at the access
(05 R124); a release form that is not aligned takes ALIGN.

06 R131, R145, 05 R115: STORE_PERFORMED of bytes of a plain store of a task that is not ordered and is no unreleased quorum
member, not tracked, without a release, in a calm memory system. To a page with cache 0 in dmode 0 they enter the L1 of the
task's core, or of its cluster with fl1 = 1, and memory does not change; else they are written at their locations, which were
computed at issue, and no other byte of memory changes. They leave the queue; no register changes. That stores are performed piece by
piece, and the pieces of an L1, are the model's reading (log entries 17, 18).

05 R115, 06 R131, R134: STORE_PERFORMED of bytes that the L1 holds, older than any others that it holds of their lines, with no
pin, no update-only copy and no other key than slot 0's about: they are written at their locations and no other byte of memory changes; the L1 holds them no
longer. The pieces of an L1 and their order are the model's reading (log entry 18). -/
def Obligations.StoreEntries : Prop :=
  (∀ (s s' : State) (i : Instr) (va : Word) (w n : Nat) (d : BitVec 5) (rel : Option (BitVec 3)) (gs : List Seg),
     storeForm s i va w n d rel →
     (rel ≠ none → va.toNat % w = 0 ∧ s.tilesPending = false) → s.me.io.sq.length < 64 →
     s.xlate (s.agentOf s.cur) { w := true } va w = (.ok gs, s') → s'.tileBlocks (segLocs gs) = false →
     s'.owesAt s'.cur (segLocs gs) = false →
     (s.provisional s.cur = true → (segLocs gs).all (fun l => !isClm l && !isHost l) = true) →
     ∃ e, Stores i s s' e n ∧ e.op = .plain ∧ e.va = va ∧ e.width = w ∧ e.pc = s.pc ∧
       e.cells = (segLocs gs).zip (leBytes w (s.x d).toNat) ∧ e.rel = rel ∧ SameBytes s s' ∧ MemorySide s s') ∧
  (∀ (s s' : State) (i : Instr) (va : Word) (w n : Nat) (d : BitVec 5) (rel : Option (BitVec 3)) (e : XFault),
     storeForm s i va w n d rel → s.me.io.sq.length < 64 →
     (rel ≠ none → va.toNat % w ≠ 0 → s.provisional s.cur = false → s.me.sy.trapLevel ≠ 3 →
       Traps i s s.me.sy.trapLevel 0x00F00007#64 s.pc va 0#64) ∧
     ((rel ≠ none → va.toNat % w = 0 ∧ s.tilesPending = false) →
       s.xlate (s.agentOf s.cur) { w := true } va w = (.error e, s') →
       (∀ q ∈ s.me.io.sfq, q.issued ≤ s.me.pl.retired) →
       (s'.provisional s'.cur = true → s'.me.pl.pend = none →
         exec i s = .next (s'.setMe { s'.me with pl := { s'.me.pl with run := .wait } })) ∧
       (s'.provisional s'.cur = false → ∃ t, exec i s = .next t ∧ RetiresTo (s.pc + BitVec.ofNat 64 n) s' t ∧ t.mem = s'.mem ∧
         SameBytes s t ∧ AllRegs s t ∧ t.me.io.sq = s'.me.io.sq ∧ OnlyTasks s' t ∧ OtherTasks s' t ∧
         (s.me.io.sfq.length < 8 → t.me.io.ovf = s.me.io.ovf ∧ ∃ r, t.me.io.sfq = s.me.io.sfq ++ [r] ∧ r.q0 = s.pc ∧
           r.q1 = (refusalOf s e 2#4).tval ∧ r.q2 = BitVec.ofNat 64 (e.code.toNat + w * 2 ^ 8 + 2 * 2 ^ 16 + e.wlev.toNat * 2 ^ 20) ∧
           r.q3 = 0#64 ∧ r.detail = e.detail) ∧
         (s.me.io.sfq.length = 8 → t.me.io.sfq = s.me.io.sfq ∧ t.me.io.ovf = true)))) ∧
  (∀ (s : State) (u j k : Nat) (e : StoreEnt) (cells : List Host.Cell), (Map.get? s.tasks u).isSome = true →
     (s.storeParts u)[j]? = some ⟨k, cells, none⟩ → (s.task u).io.sq[k]? = some e → e.op = .plain → e.tracked = false →
     e.rel = none → s.storeReady u k cells = true → s.hostBusy (cells.map (·.1)) = false → s.Calm → (s.task u).tid.ord = false →
     s.quorumOf u = none →
     ∃ t, exec (.storePerformed u j) s = .next t ∧ LeftQueue s t u k e cells ∧ (t.task u).rf = (s.task u).rf ∧
       (t.task u).sy = (s.task u).sy ∧ OthersKept s t u ∧ MemorySide s t ∧
       (s.toL1 u e = true → t.mem = s.mem ∧ (cells ≠ [] →
         ∃ p, t.ms.l1 = [p] ∧ p.owner = u ∧ p.cells = cells ∧
           p.unit = if (s.launchOf u).mode.getLsbD 3 then 5120 + (s.task u).pl.core / 8 else (s.task u).pl.core)) ∧
       (s.toL1 u e = false → t.ms.l1 = [] ∧ ∀ a, memGet t.mem a = bytesOver s cells a)) ∧
  (∀ (s : State) (u j k : Nat) (cells : List Host.Cell) (q : L1Piece), s.MemOk → (s.storeParts u)[j]? = some ⟨k, cells, some q⟩ →
     s.ms.pins = [] → s.ms.reds = [] → s.ms.keyed = [] → q.keys = [] →
     (∀ p ∈ s.ms.l1.takeWhile (· != q), p.unit = q.unit → ∀ c ∈ p.cells, ∀ d ∈ q.cells, c.1 / 512 ≠ d.1 / 512) →
     ∃ t, exec (.storePerformed u j) s = .next t ∧ (∀ a, memGet t.mem a = bytesOver s q.cells a) ∧
       t.ms.l1 = s.ms.l1.filter (· ≠ q) ∧ MemorySide s t ∧ ∀ v, TaskKept s t v)

/-- 08 R188, 06 R139, R140, 23 R416: an AMO that is aligned and granted, of a task that is not ordered, in dmode 0 and a calm memory
system, reads the old value at its location, writes Op(old, X(b)) there and no other byte, and writes the old value, extended by its
tag, to X(d); amofadd ORs its flags. To host memory on a page without SYSATOM its write is still to be made when it has read; on a
page with SYSATOM it takes PERM while AtomicOp Requester Enable is clear.

08 R188: amocas writes X(b) where the old value equals the low bits of X(c), and else writes nothing; either way X(d) becomes
the old value. -/
def Obligations.Atomics : Prop :=
  (∀ (s s1 : State) (t : Tag) (acq rel : Bool) (scope : BitVec 3) (d a b : BitVec 5) (disp : Src) (g : Seg) (i : Instr)
     (op : Nat → Nat → Nat) (f : Nat → Nat → BitVec 5), (i, op, f) ∈ amoForms t acq rel scope d a b disp →
     AmoGranted s s1 t rel scope (s.x a + disp.sext) g →
     let old := oldOf s g.at_.loc t
     let x := (s.x b).toNat % 2 ^ t.width
     let new := (locRange g.at_.loc (t.width / 8)).zip (leBytes (t.width / 8) (op old x))
     let done (u : State) : Prop := u.me.x d = (if d.toNat < 24 then asLoaded t old else 0#64) ∧ AmoFrame s u d (f old x) disp.size
     (isHost g.at_.loc = false ∨ (g.at_.sysatom = true ∧ s.hub.atomicReq = true) →
       ∃ u, exec i s = .next u ∧ done u ∧ ∀ c, memGet u.mem c = bytesOver s new c) ∧
     (isHost g.at_.loc = true → g.at_.sysatom = false →
       ∃ u e, exec i s = .next u ∧ done u ∧ u.mem = s.mem ∧ u.me.io.lq.getLast? = some e ∧ e.write = new) ∧
     (isHost g.at_.loc = true → g.at_.sysatom = true → s.hub.atomicReq = false →
       exec i s = .next (s1.takeTrap { code := 0x05#8, tval := s.x a + disp.sext, kind := 4#4 } s.pc))) ∧
  (∀ (s s1 : State) (t : Tag) (acq rel : Bool) (scope : BitVec 3) (d a b c : BitVec 5) (disp : Src) (g : Seg),
     AmoGranted s s1 t rel scope (s.x a + disp.sext) g →
     isHost g.at_.loc = false ∨ (g.at_.sysatom = true ∧ s.hub.atomicReq = true) →
     let old := oldOf s g.at_.loc t
     let new := (s.x b).toNat % 2 ^ t.width
     ∃ u, exec (.amocas t acq rel scope d a b c disp) s = .next u ∧
       u.me.x d = (if d.toNat < 24 then asLoaded t old else 0#64) ∧ AmoFrame s u d 0#5 disp.size ∧
       ∀ l, memGet u.mem l = if old = (s.x c).toNat % 2 ^ t.width
         then bytesOver s ((locRange g.at_.loc (t.width / 8)).zip (leBytes (t.width / 8) new)) l else memGet s.mem l)

/-- 08 R189: a RED that is aligned and granted (s' is the state after its translation) enters the store queue with its
combining operation and the low bytes of X(b); it reads nothing for the task. redfadd does so in dmode 0 only.

08 R168, R188, R189: a misaligned AMO or RED of every form takes ALIGN, and an aligned redfadd in dmodes 1 and 2 takes ORDSENS,
precisely.

06 R146, R147, 08 R189: STORE_PERFORMED of a RED of a task that is not ordered, not tracked, without a release, in a calm memory
system. On a page with cache 0 it starts an update-only copy, of the task's core or with fl1 = 1 of the core of the line's column,
that holds the operand combined with the identity, and memory does not change; else, but for host memory without SYSATOM, the
combined value is written at the location and no other byte changes. The entry leaves the queue.

06 R147: UPDATE_COPY_EVICTION returns a core's copy of a line: where it is of one word, Op(memory, copy) is written at the copy's
location and, where one key is in use, no other byte changes; the core has no copy of the line any more, and no other copy is gone. -/
def Obligations.Reductions : Prop :=
  (∀ (s s' : State) (t : Tag) (rel : Bool) (scope : BitVec 3) (a b : BitVec 5) (disp : Src) (gs : List Seg) (i : Instr) (op : RedOp),
     let va := s.x a + disp.sext
     let w := t.width / 8
     (i, op) ∈ [(Instr.redadd t rel scope a b disp, RedOp.add), (.redmin t rel scope a b disp, .min),
       (.redmax t rel scope a b disp, .max), (.redand t rel scope a b disp, .and), (.redor t rel scope a b disp, .or),
       (.redxor t rel scope a b disp, .xor)] ∨ (i = .redfadd t rel scope a b disp ∧ op = .fadd ∧ s.det = false) →
     va.toNat % w = 0 → (rel = true → s.tilesPending = false) → s.me.io.sq.length < 64 → s.provisional s.cur = false →
     s.xlate (s.agentOf s.cur) { rd := true, w := true } va w = (.ok gs, s') → s'.tileBlocks (segLocs gs) = false →
     s'.owesAt s'.cur (segLocs gs) = false →
     ∃ e, Stores i s s' e disp.size ∧ e.op = .red op t (s.x b) ∧ e.kind = 5 ∧ e.va = va ∧
       e.cells.map (·.1) = (segLocs gs).take w ∧ e.rel = (if rel then some scope else none) ∧ MemorySide s s' ∧ SameBytes s s') ∧
  (∀ (s : State) (t : Tag) (acq rel : Bool) (scope : BitVec 3) (d a b c : BitVec 5) (disp : Src),
     let va := s.x a + disp.sext
     let l := s.me.sy.trapLevel
     s.provisional s.cur = false → l ≠ 3 →
     (va.toNat % (t.width / 8) ≠ 0 →
       ∀ i ∈ [Instr.amoadd t acq rel scope d a b disp, .amoand t acq rel scope d a b disp, .amoor t acq rel scope d a b disp,
           .amoxor t acq rel scope d a b disp, .amoswap t acq rel scope d a b disp, .amocas t acq rel scope d a b c disp,
           .amomin t acq rel scope d a b disp, .amomax t acq rel scope d a b disp, .amominn t acq rel scope d a b disp,
           .amomaxn t acq rel scope d a b disp, .amofadd t acq rel scope d a b disp, .redadd t rel scope a b disp,
           .redmin t rel scope a b disp, .redmax t rel scope a b disp, .redand t rel scope a b disp, .redor t rel scope a b disp,
           .redxor t rel scope a b disp, .redfadd t rel scope a b disp],
         Traps i s l 0x00F00007#64 s.pc va 0#64) ∧
     (va.toNat % (t.width / 8) = 0 → s.det = true →
       Traps (.redfadd t rel scope a b disp) s l 0x00F00011#64 s.pc va 0#64)) ∧
  (∀ (s : State) (u j k : Nat) (e : StoreEnt) (op : RedOp) (t : Tag) (x : Word), (Map.get? s.tasks u).isSome = true →
     (s.storeParts u)[j]? = some ⟨k, e.cells, none⟩ → (s.task u).io.sq[k]? = some e → e.op = .red op t x → e.tracked = false →
     e.rel = none → s.storeReady u k e.cells = true → s.hostBusy (e.cells.map (·.1)) = false → s.Calm →
     (s.task u).tid.ord = false → e.cells ≠ [] →
     let loc := (e.cells.map (·.1)).headD 0
     let n := t.width / 8
     let old := leNat ((locRange loc n).map (memGet s.mem))
     let v := x.toNat % 2 ^ t.width
     let core := (s.task u).pl.core
     let kept (r : State) : Prop := LeftQueue s r u k e e.cells ∧ (r.task u).rf = (s.task u).rf ∧ (r.task u).sy = (s.task u).sy ∧
       OthersKept s r u ∧ MemorySide s r
     (e.direct = true → e.split = false → ∃ r, exec (.storePerformed u j) s = .next r ∧ kept r ∧ r.ms.reds = [] ∧
       ∀ a, memGet r.mem a = bytesOver s (cellsAt loc n (redApply op t old v)) a) ∧
     (e.direct = false → ∃ r, exec (.storePerformed u j) s = .next r ∧ kept r ∧ r.mem = s.mem ∧
       r.ms.reds = [RedCopy.mk (if (s.launchOf u).mode.getLsbD 3 then 8 * (core / 8) + loc / 512 % 8 else core) loc op t
         (BitVec.ofNat 64 (redApply op t (redIdentity op t) v)) none])) ∧
  (∀ (s : State) (k : Nat) (c : RedCopy), s.MemOk → s.ms.reds[k]? = some c →
     let mine (d : RedCopy) : Prop := d.core = c.core ∧ d.loc / 512 = c.loc / 512
     let n := c.t.width / 8
     let v := leNat ((locRange c.loc n).map (memGet s.mem))
     ∃ t, exec (.updateCopyEviction k) s = .next t ∧ (∀ d, d ∈ t.ms.reds ↔ d ∈ s.ms.reds ∧ ¬ mine d) ∧ (∀ u, TaskKept s t u) ∧
       MemorySide s t ∧ (s.ms.keyed = [] → c.key = none → s.ms.reds.Nodup → (∀ d ∈ s.ms.reds, mine d → d = c) →
         ∀ a, memGet t.mem a = bytesOver s (cellsAt c.loc n (redApply c.op c.t v c.part.toNat)) a))

/-- 08 R190, R191, R170, 07 R164: fence and drainst. With a kill pending they are killed; with an earlier store or Garnet update
unresolved they wait; with a record queued they report it; else drainst only retires, and so does an acquire fence with no tile
load or store pending. One with rel waits until what it orders is performed at its scope (06 R127, R134, R138); then, at core scope,
it pins the lines that the task has written. At any wider scope a fence lifts the task's pins. One with acq at a scope that the L1 is
not within finds what its core's L1 held written back, and waits where that is pinned to another core (R127, R132, R135). No register
changes, and no byte of memory but those that are so written. The write-back of the L1 by an acquire and the wait at a pin are the
model's reading (log entry 18).

03 R75, R76, 08 R192: waitc goes on when each of L, S, C and T is at or below its limit (255 bounds nothing, and a limit at the
counter's maximum is met) with no Garnet update on its way (20 R372), no store-fault record is queued and no copy fault record that its C limit needs is unreported; until
the limits are met it waits; a pending kill is taken. Which copy fault record it reports, and after the store-fault records, is the
model's reading (log entry 43).

08 R193, R195, R196: nop and kpoint retire with no effect; icinv empties the instruction cache of the task's core; tlbinv
discards every cached translation of the partition, or those that cover X(a); kpoint and tlbinv are kill points.

08 R194, 24 R425: brk stops the context under an attached debugger and lmode.dstop: the context and its core are marked
stopped, a trace record is made where the partition traces, and no register changes; without tracing nothing else changes.
Otherwise it takes BRK with tval and ret its own address. That the core is marked stopped too is the model's reading (log entry 65). -/
def Obligations.FencesAndSystemForms : Prop :=
  (∀ (s : State) (acq rel : Bool) (scope : BitVec 3),
     KilledAt .drainst s ∧ KilledAt (.fence acq rel scope) s ∧
     (s.me.io.sq ≠ [] ∨ s.me.io.upds ≠ [] → Waits .drainst s ∧ Waits (.fence acq rel scope) s) ∧
     (∀ r rs, s.me.pl.pend = none → s.me.io.sq = [] → s.me.io.upds = [] → s.me.io.sfq = r :: rs →
       exec .drainst s = .next (s.fault r.report) ∧ exec (.fence acq rel scope) s = .next (s.fault r.report)) ∧
     (s.me.pl.pend = none → s.me.io.sq = [] → s.me.io.upds = [] → s.me.io.sfq = [] →
       GoesTo .drainst s (s.pc + 12#64) ∧
       (s.tilesPending = true → Waits (.fence acq rel scope) s) ∧
       (let g := s.me.pl.core
        let seen (p : L1Piece) : Prop := p.unit = g ∨ p.unit = 5120 + g / 8
        let wide := acq = true ∧ scope ≠ 0#3 ∧ (scope ≠ 1#3 ∨ s.lmode.getLsbD 3 = false) ∧ ∃ p ∈ s.ms.l1, seen p
        s.tilesPending = false →
         (¬ wide → (scope = 0#3 ∨ ∀ p ∈ s.ms.pins, p.owner ≠ s.cur) → GoesTo (.fence acq false scope) s (s.pc + 12#64)) ∧
         (wide → (∃ p ∈ s.ms.l1, seen p ∧ s.pinnedAway g (p.cells.map (·.1)) = true) → Waits (.fence acq false scope) s) ∧
         ((∀ p ∈ s.ms.l1, seen p → s.pinnedAway g (p.cells.map (·.1)) = false) ∨ ¬ wide → scope ≠ 0#3 →
           ∃ t, exec (.fence acq false scope) s = .next t ∧ t.me.rf.pc = s.pc + 12#64 ∧ t.me.pl.retired = s.me.pl.retired + 1 ∧
             t.me.pl.run = .ready ∧ AllRegs s t ∧ SameVectors s t ∧ SameTiles s t ∧ SameWindow s t ∧
             SystemBut s.me.sy.fflags s t ∧ OthersKept s t s.cur ∧ MemorySide s t ∧ SameBytes s t ∧
             (∀ p ∈ t.ms.pins, p.owner ≠ s.cur) ∧ (wide → ∀ p ∈ t.ms.l1, ¬ seen p))) ∧
       (let g := s.me.pl.core
        let reached := s.me.io.lq.all (fun e => e.write.isEmpty) = true ∧
          (scope = 0#3 ∨ (scope = 1#3 ∧ s.lmode.getLsbD 3 = true) ∨ ∀ p ∈ s.ms.l1, p.unit ≠ g ∧ p.unit ≠ 5120 + g / 8) ∧
          (3 ≤ scope.toNat → s.flightsPending (g / 80) = false)
        s.tilesPending = false →
         (¬ reached → Waits (.fence acq true scope) s) ∧
         (reached → scope = 0#3 → ∃ t, exec (.fence acq true scope) s = .next t ∧ RetiresTo (s.pc + 12#64) s t ∧ AllRegs s t ∧
           SameVectors s t ∧ SameTiles s t ∧ SameWindow s t ∧ SystemBut s.me.sy.fflags s t ∧ OtherTasks s t ∧
           t = { s with tasks := t.tasks, ms := { s.ms with pins := t.ms.pins } } ∧
           ∀ l ∈ s.me.io.wrote, { core := g, owner := s.cur, line := l } ∈ t.ms.pins) ∧
         (reached → scope ≠ 0#3 → ∃ t, exec (.fence acq true scope) s = .next t ∧ t.me.rf.pc = s.pc + 12#64 ∧
           t.me.pl.retired = s.me.pl.retired + 1 ∧ t.me.pl.run = .ready ∧ AllRegs s t ∧ SameVectors s t ∧ SameTiles s t ∧
           SameWindow s t ∧ SystemBut s.me.sy.fflags s t ∧ OthersKept s t s.cur ∧ MemorySide s t ∧ SameBytes s t ∧
           (∀ p ∈ t.ms.pins, p.owner ≠ s.cur) ∧ t.me.io.wrote = [])))) ∧
  (∀ (s : State) (lim : BitVec 32),
     let within (i maximum count : Nat) : Prop :=
       let l := (lim.extractLsb' (8 * i) 8).toNat
       l = 255 ∨ maximum ≤ l ∨ count ≤ l
     let met := within 0 64 s.me.io.lq.length ∧ within 1 64 s.me.io.sq.length ∧
       within 2 32 (s.me.io.crecs.countP (fun r => r.st == .busy)) ∧ within 3 32 s.me.io.tiles ∧ s.me.io.upds = []
     KilledAt (.waitc lim) s ∧ (¬ met → Waits (.waitc lim) s) ∧
     (met → s.me.pl.pend = none → s.me.io.sfq = [] → (∀ r ∈ s.me.io.crecs, r.unreported = false) →
       GoesTo (.waitc lim) s (s.pc + 12#64))) ∧
  (∀ (s : State) (a : BitVec 5),
     GoesTo .nop s (s.pc + 4#64) ∧
     KilledAt .kpoint s ∧ (s.me.pl.pend = none → GoesTo .kpoint s (s.pc + 4#64)) ∧
     RetiresFrom .icinv s { s with ms := { s.ms with
       icache := Map.del s.ms.icache s.me.pl.core, ibad := s.ms.ibad.filter (fun p => p.1 != s.me.pl.core) } } (s.pc + 4#64) ∧
     KilledAt (.tlbinv a) s ∧
     (s.me.pl.pend = none → ∃ l, (∀ e, e ∈ l ↔ e ∈ s.ms.tlb ∧ ¬ (e.vf = s.me.tid.vf ∧
         (a = 24#5 ∨ (s.x a).toNat / 2 ^ e.size = e.page / 2 ^ e.size))) ∧
       RetiresFrom (.tlbinv a) s { s with ms := { s.ms with tlb := l } } (s.pc + 4#64))) ∧
  (∀ s : State,
     (s.hub.attached = true → s.lmode.getLsbD 8 = true → (Map.get? s.tasks s.cur).isSome = true →
       ∃ t, exec .brk s = .next t ∧ t.me.pl.stopped = true ∧ (t.coreSt s.me.pl.core).stopped = true ∧
         t.me.rf = s.me.rf ∧ t.me.sy = s.me.sy ∧ t.me.io = s.me.io ∧
         ((s.vf s.me.tid.vf).trace.en = false → t = { s with
           tasks := Map.set s.tasks s.cur { s.me with pl := { s.me.pl with stopped := true } },
           cores := Map.set s.cores s.me.pl.core { s.coreSt s.me.pl.core with stopped := true } })) ∧
     ((s.hub.attached = false ∨ s.lmode.getLsbD 8 = false) → s.provisional s.cur = false → s.me.sy.trapLevel ≠ 3 →
       Traps .brk s s.me.sy.trapLevel 0x00F0001B#64 s.pc s.pc 0#64))

/-- 08 R197, 07 R157-R159, 11 R235-R237, 15 R308, 22 R396, 24 R431: what srr reads, register by register. That the count in cfault
stops at 255 is the model's choice (log entry 106).

08 R168, R197, 07 R157, 01 R30: srr of a number that no chapter assigns, or of a kill record by a helper of a core-launch, takes
SYSREG with the number in tval; srr of dtime in dmodes 1 and 2 without status.timeok takes TIME with 0x030. -/
def Obligations.SystemRegisterReads : Prop :=
  (∀ (s : State) (d : BitVec 5) (n : BitVec 12) (v : Word),
     let t := s.me
     let b (x : Bool) (k : Nat) : Nat := if x then 2 ^ k else 0
     let bank (y : Bank) (n : Nat) : List (Nat × Word) :=
       [(n, y.cause), (n + 1, y.ret), (n + 2, y.tval), (n + 3, y.save), (n + 4, y.scr), (n + 5, y.tvec), (n + 6, y.xval)]
     let record (r : FaultRec) (n : Nat) : List (Nat × Word) := [(n, r.q0), (n + 1, r.q1), (n + 2, r.q2), (n + 3, r.q3)]
     let l := s.launch t.tid.launch
     ((n.toNat, v) ∈ [(0x000, BitVec.ofNat 64 (t.pl.ctx * 2 ^ 12 + b (t.pl.ctx == 0) 11 + b l.waived 8 + b t.sy.timeok 3 +
         b t.sy.dz 2 + t.sy.tl.toNat)),
         (0x001, l.mode.setWidth 64), (0x002, t.sy.fflags.setWidth 64), (0x003, t.tid.lid), (0x004, t.sy.stkbase),
         (0x005, t.sy.stklim), (0x006, t.rf.wbase)] ++ bank t.sy.b1 0x010 ++ bank t.sy.b2 0x018 ++
         record (t.io.sfq.headD {}) 0x020 ++
         [(0x100, t.sy.key), (0x101, BitVec.ofNat 64 (b t.sy.budOn 63 + t.sy.budLeft.toNat)),
         (0x102, t.sy.budInit.setWidth 64), (0x103, BitVec.ofNat 64 (t.tid.kind.toNat + b t.tid.ord 4)),
         (0x104, t.sy.cre.setWidth 64), (0x105, t.tid.cw),
         (0x140, t.sy.cfault ||| BitVec.ofNat 64 (min 255 (t.io.crecs.countP (·.unreported)) * 2 ^ 32)), (0x141, t.sy.cdone), (0x142, t.io.cc.setWidth 64),
         (0x180, l.ext), (0x181, t.sy.lcoord), (0x1C0, t.sy.mdsel.setWidth 64)] →
       Writes (.srr d n) s d v 0#5 12) ∧
     ((s.det = false ∨ t.sy.timeok = true) → Writes (.srr d 0x030#12) s d s.dtime 0#5 12) ∧
     ((l.core = false ∨ t.pl.ctx = 0) →
       (n.toNat, v) ∈ record ((Map.get [] (s.coreSt t.pl.core).killq t.tid.launch).headD {}) 0x040 →
       Writes (.srr d n) s d v 0#5 12) ∧
     (s.det = false ∨ t.sy.timeok = true → s.delayEntry = none → 0x1C1 ≤ n.toNat → n.toNat ≤ 0x1C4 →
       Writes (.srr d n) s d 0#64 0#5 12) ∧
     (∀ e, s.det = false ∨ t.sy.timeok = true → s.delayEntry = some e →
       (e.sender ≠ 5120 → Writes (.srr d 0x1C1#12) s d
         (BitVec.ofNat 64 (e.count % 2 ^ 32 * 2 ^ 32) ||| BitVec.ofNat 64 e.sender) 0#5 12) ∧
       Writes (.srr d 0x1C2#12) s d (BitVec.ofNat 64 e.transit) 0#5 12 ∧
       Writes (.srr d 0x1C3#12) s d (BitVec.ofNat 64 e.queue) 0#5 12 ∧
       Writes (.srr d 0x1C4#12) s d (BitVec.ofNat 64 e.run) 0#5 12)) ∧
  (∀ (s : State) (d : BitVec 5) (n : BitVec 12), s.provisional s.cur = false → s.me.sy.trapLevel ≠ 3 →
     let m := n.toNat
     let l := s.launch s.me.tid.launch
     ((0x007 ≤ m ∧ m ≤ 0x00F) ∨ m = 0x017 ∨ m = 0x01F ∨ (0x024 ≤ m ∧ m ≤ 0x02F) ∨ (0x031 ≤ m ∧ m ≤ 0x03F) ∨
         (0x044 ≤ m ∧ m ≤ 0x0FF) ∨ (0x106 ≤ m ∧ m ≤ 0x13F) ∨ (0x143 ≤ m ∧ m ≤ 0x17F) ∨ (0x182 ≤ m ∧ m ≤ 0x1BF) ∨
         0x1C5 ≤ m ∨ (0x040 ≤ m ∧ m ≤ 0x043 ∧ l.core = true ∧ s.me.pl.ctx ≠ 0) →
       Traps (.srr d n) s s.me.sy.trapLevel 0x00F0001A#64 s.pc (n.setWidth 64) 0#64) ∧
     (s.det = true → s.me.sy.timeok = false →
       Traps (.srr d 0x030#12) s s.me.sy.trapLevel 0x00F00012#64 s.pc 0x030#64 0#64))

/-- 08 R198, 07 R158-R160: what srw writes. status takes dz and timeok and ignores bits [63:16]; fflags takes 5 bits; the banks take
the value, ret and tvec with bits [1:0] cleared, cause where its RO fields stay 0; mdsel takes 0 to 64. Nothing else changes.

08 R198, 07 R164: srw of sfq0 pops the head store-fault record whatever the value, and popping the last clears ovf; srw of krec0,
by a task that may, pops the head kill record of its launch on its core.

08 R198: srw to a read-only register, to a number that no chapter assigns, or one that would change a read-only field takes
SYSREG with the number in tval, and nothing is written.

08 R198, 01 R30: setting status.timeok in dmode 1 or 2 also marks the launch as waived. -/
def Obligations.SystemRegisterWrites : Prop :=
  (∀ (s : State) (a : BitVec 5),
     let v := s.x a
     let t := s.me
     let sets (n : Nat) (y : Sys) : Prop := RetiresFrom (.srw a (BitVec.ofNat 12 n)) s
       { s with tasks := Map.set s.tasks s.cur { t with sy := y } } (s.pc + 12#64)
     let whole := v &&& ~~~3#64
     sets 0x002 { t.sy with fflags := v.extractLsb' 0 5 } ∧
     (v.extractLsb' 0 2 = t.sy.tl → v.extractLsb' 4 12 = s.statusWord.extractLsb' 4 12 → s.det = false →
       (v.getLsbD 3 = t.sy.timeok ∨ s.provisional s.cur = false) →
       sets 0x000 { t.sy with timeok := v.getLsbD 3, dz := v.getLsbD 2 }) ∧
     (v.extractLsb' 48 16 = 0#16 → v.extractLsb' 24 6 = 0#6 →
       sets 0x010 { t.sy with b1 := { t.sy.b1 with cause := v } } ∧ sets 0x018 { t.sy with b2 := { t.sy.b2 with cause := v } }) ∧
     sets 0x011 { t.sy with b1 := { t.sy.b1 with ret := whole } } ∧ sets 0x019 { t.sy with b2 := { t.sy.b2 with ret := whole } } ∧
     sets 0x012 { t.sy with b1 := { t.sy.b1 with tval := v } } ∧ sets 0x01A { t.sy with b2 := { t.sy.b2 with tval := v } } ∧
     sets 0x013 { t.sy with b1 := { t.sy.b1 with save := v } } ∧ sets 0x01B { t.sy with b2 := { t.sy.b2 with save := v } } ∧
     sets 0x014 { t.sy with b1 := { t.sy.b1 with scr := v } } ∧ sets 0x01C { t.sy with b2 := { t.sy.b2 with scr := v } } ∧
     sets 0x015 { t.sy with b1 := { t.sy.b1 with tvec := whole } } ∧
     sets 0x01D { t.sy with b2 := { t.sy.b2 with tvec := whole } } ∧
     sets 0x016 { t.sy with b1 := { t.sy.b1 with xval := v } } ∧ sets 0x01E { t.sy with b2 := { t.sy.b2 with xval := v } } ∧
     (v.toNat ≤ 64 → sets 0x1C0 { t.sy with mdsel := v.extractLsb' 0 7 })) ∧
  (∀ (s : State) (a : BitVec 5),
     let t := s.me
     let g := t.pl.core
     RetiresFrom (.srw a 0x020#12) s { s with tasks := Map.set s.tasks s.cur { t with io := { t.io with
       sfq := t.io.sfq.tail, ovf := decide (1 < t.io.sfq.length) && t.io.ovf } } } (s.pc + 12#64) ∧
     ((s.launch t.tid.launch).core = false ∨ t.pl.ctx = 0 →
       RetiresFrom (.srw a 0x040#12) s { s with cores := Map.set s.cores g { s.coreSt g with
         killq := Map.set (s.coreSt g).killq t.tid.launch (Map.get [] (s.coreSt g).killq t.tid.launch).tail } } (s.pc + 12#64))) ∧
  (∀ (s : State) (a : BitVec 5) (n : BitVec 12), s.provisional s.cur = false → s.me.sy.trapLevel ≠ 3 →
     let m := n.toNat
     let v := s.x a
     m = 0x001 ∨ (0x003 ≤ m ∧ m ≤ 0x00F) ∨ m = 0x017 ∨ m = 0x01F ∨ (0x021 ≤ m ∧ m ≤ 0x03F) ∨ (0x041 ≤ m ∧ m ≤ 0x1BF) ∨
         0x1C1 ≤ m ∨ (m = 0x1C0 ∧ 64 < v.toNat) ∨
         ((m = 0x010 ∨ m = 0x018) ∧ (v.extractLsb' 48 16 ≠ 0#16 ∨ v.extractLsb' 24 6 ≠ 0#6)) ∨
         (m = 0x000 ∧ (v.extractLsb' 0 2 ≠ s.me.sy.tl ∨ v.extractLsb' 4 12 ≠ s.statusWord.extractLsb' 4 12)) →
     Traps (.srw a n) s s.me.sy.trapLevel 0x00F0001A#64 s.pc (n.setWidth 64) 0#64) ∧
  (∀ (s : State) (a : BitVec 5) (x : Launch), s.det = true → s.provisional s.cur = false →
     (s.x a).extractLsb' 0 2 = s.me.sy.tl → (s.x a).extractLsb' 4 12 = s.statusWord.extractLsb' 4 12 →
     (s.x a).getLsbD 3 = true → Map.get? s.launches s.me.tid.launch = some x →
     ∃ t, exec (.srw a 0x000#12) s = .next t ∧ t.me.sy.timeok = true ∧ (t.launch s.me.tid.launch).waived = true ∧
       t.me.sy.dz = (s.x a).getLsbD 2 ∧ AllRegs s t ∧ SameVectors s t ∧ OtherTasks s t ∧ t.mem = s.mem)

/-- 08 R199: perf.start clears the capture and starts it for the group at the present dtime; perf.stop ends it and stores eight
words at X(a): group, flags, switched-out time, start and the counters, or zeros with flag 2 where none was active. In dmodes 1
and 2 without status.timeok both take TIME; that they do so before ALIGN is the model's choice (log entry 85). A group whose events the
model counts none of reads its counters as they are. The words are queued one behind the other as stores of 8 bytes: each that is
granted adds an entry with its bytes, little-endian, at its location, and one that is refused adds none. -/
def Obligations.CounterCapture : Prop :=
  ∀ (s s' : State) (group : BitVec 8) (a : BitVec 5),
    (s.det = false ∨ s.me.sy.timeok = true → s.provisional s.cur = false →
      ∃ t, exec (.perfStart group) s = .next t ∧ RetiresTo (s.pc + 12#64) s t ∧ AllRegs s t ∧ SameVectors s t ∧ OnlyTasks s t ∧
        OtherTasks s t ∧ t.me.io = { s.me.io with perf := t.me.io.perf } ∧
        t.me.io.perf.active = true ∧ t.me.io.perf.group = group ∧ t.me.io.perf.start = s.dtime ∧ t.me.io.perf.c1 = 0#64 ∧
        t.me.io.perf.c2 = 0#64 ∧ t.me.io.perf.c3 = 0#64 ∧ t.me.io.perf.wrapped = false ∧ t.me.io.perf.switched = false ∧
        t.me.io.perf.outTime = 0#64) ∧
    (s.det = true → s.me.sy.timeok = false → s.provisional s.cur = false → s.me.sy.trapLevel ≠ 3 →
      Traps (.perfStart group) s s.me.sy.trapLevel 0x00F00012#64 s.pc 0#64 0#64 ∧
      Traps (.perfStop a) s s.me.sy.trapLevel 0x00F00012#64 s.pc 0#64 0#64) ∧
    (∀ ws s1, s.perfWords = (ws, s1) →
      let p := s.me.io.perf
      ws.length = 8 ∧ s1 = { s with freeCtr := s1.freeCtr } ∧
      (p.active = false → ws = [0#64, 4#64, 0#64, 0#64, 0#64, 0#64, 0#64, 0#64]) ∧
      (p.active = true → ws.take 4 = [p.group.setWidth 64, (if p.switched then 1#64 else 0#64) |||
        (if p.wrapped then 2#64 else 0#64), p.outTime, p.start]) ∧
      (p.active = true → 2 ≤ p.group.toNat → ws.drop 4 = [p.c0, p.c1, p.c2, p.c3]) ∧
      (s.det = false ∨ s.me.sy.timeok = true → (s.x a).toNat % 64 = 0 → s.provisional s.cur = false → s.me.io.sq.length ≤ 56 →
        s1.storeWords (s.x a) ws = (.ok (), s') →
        RetiresFrom (.perfStop a) s { s' with tasks := Map.set s'.tasks s'.cur { s'.me with io := { s'.me.io with
          perf := { s'.me.io.perf with active := false } } } } (s.pc + 12#64))) ∧
    (∀ (r r1 : State) (va w : Word) (ws : List Word) (g : Seg) (e : XFault), r.me.io.sq.length < 64 → r.provisional r.cur = false →
      r.storeWords va [] = (.ok (), r) ∧
      (r.xlate (r.agentOf r.cur) { w := true } va 8 = (.ok [g], r1) → r1.tileBlocks (locRange g.at_.loc g.len) = false →
        r1.owesAt r1.cur (locRange g.at_.loc g.len) = false →
        ∃ t q, r.storeWords va (w :: ws) = t.storeWords (va + 8#64) ws ∧ t.me.io.sq = r.me.io.sq ++ [q] ∧ q.op = .plain ∧
          q.va = va ∧ q.width = 8 ∧ q.pc = r.pc ∧ q.rel = none ∧ q.cells = (locRange g.at_.loc 8).zip (leBytes 8 w.toNat) ∧
          t = { r1 with tasks := t.tasks } ∧ OtherTasks r1 t ∧ t.me.rf = r.me.rf ∧ t.me.sy = r.me.sy) ∧
      (r.xlate (r.agentOf r.cur) { w := true } va 8 = (.error e, r1) →
        ∃ t, r.storeWords va (w :: ws) = t.storeWords (va + 8#64) ws ∧ t.me.io.sq = r.me.io.sq ∧ t = { r1 with tasks := t.tasks } ∧
          OtherTasks r1 t ∧ t.me.rf = r.me.rf ∧ t.me.sy = r.me.sy))

/-- 10 R205, R206, R210, R214: the integer and logical element-wise forms, over every tag, register or channel head, with a vector
or a scalar second operand, under every mask: each active element becomes what the table gives, modulo its width. -/
def Obligations.VectorInteger : Prop :=
  ∀ (s : State) (t : Tag) (sc : Bool) (mask : BitVec 3) (d a b : BitVec 5) (x y : BitVec 1024),
    s.vsrc a = some (x, t) → (sc = false → s.vsrc b = some (y, t)) → maskedOk s d t mask →
    let w := t.width
    let X := velem x t
    let Y (j : Nat) : BitVec t.width := if sc then (s.x b).setWidth w else velem y t j
    let clamp (lo hi v : Int) : BitVec t.width := BitVec.ofInt w (max lo (min hi v))
    let range (v : Int) : BitVec t.width :=
      if t.isSigned then clamp (-2 ^ (w - 1)) (2 ^ (w - 1) - 1) v else clamp 0 (2 ^ w - 1) v
    let val (e : BitVec t.width) : Int := if t.isSigned then e.toInt else e.toNat
    let gives (i : Instr) (f : Nat → BitVec t.width) : Prop :=
      WritesElems i s d t (fun j => active (s.me.mask mask) w j) f (fun _ => 0#5) (a :: if sc then [] else [b]) 12
    gives (.vadd t sc mask d a b) (fun j => X j + Y j) ∧
    gives (.vsub t sc mask d a b) (fun j => X j - Y j) ∧
    gives (.vmul t sc mask d a b) (fun j => X j * Y j) ∧
    gives (.vmulh t sc mask d a b) (fun j => BitVec.ofInt w (val (X j) * val (Y j) / 2 ^ w)) ∧
    gives (.vmin t sc mask d a b) (fun j => if val (X j) ≤ val (Y j) then X j else Y j) ∧
    gives (.vmax t sc mask d a b) (fun j => if val (X j) ≤ val (Y j) then Y j else X j) ∧
    gives (.vand t sc mask d a b) (fun j => X j &&& Y j) ∧
    gives (.vor t sc mask d a b) (fun j => X j ||| Y j) ∧
    gives (.vxor t sc mask d a b) (fun j => X j ^^^ Y j) ∧
    gives (.vsll t sc mask d a b) (fun j => X j <<< ((Y j).toNat % w)) ∧
    gives (.vsrl t sc mask d a b) (fun j => X j >>> ((Y j).toNat % w)) ∧
    gives (.vsra t sc mask d a b) (fun j => (X j).sshiftRight ((Y j).toNat % w)) ∧
    gives (.vaddsat t sc mask d a b) (fun j => range (val (X j) + val (Y j))) ∧
    gives (.vsubsat t sc mask d a b) (fun j => range (val (X j) - val (Y j)))

/-- 10 R216, R205-R210: the floating-point element-wise forms: each active element is the rounded result of its elements, and the
flags of the active elements are ORed into fflags. -/
def Obligations.VectorFloatingPoint : Prop :=
  ∀ (s : State) (rm : BitVec 2) (t : Tag) (sc : Bool) (mask : BitVec 3) (d a b c : BitVec 5) (x y z : BitVec 1024),
    s.vsrc a = some (x, t) → maskedOk s d t mask →
    let w := t.width
    let X (j : Nat) : Nat := (velem x t j).toNat
    let Y (j : Nat) : Nat := if sc then (s.x b).toNat % 2 ^ w else (velem y t j).toNat
    let Z (j : Nat) : Nat := (velem z t j).toNat
    let gives (i : Instr) (f : Nat → Nat × BitVec 5) (srcs : List (BitVec 5)) : Prop :=
      WritesElems i s d t (fun j => active (s.me.mask mask) w j) (fun j => BitVec.ofNat w (f j).1) (fun j => (f j).2) srcs 12
    let two := a :: if sc then [] else [b]
    gives (.vfsqrt rm t mask d a) (fun j => fpSqrt rm t (X j)) [a] ∧
    ((sc = false → s.vsrc b = some (y, t)) →
      gives (.vfadd rm t sc mask d a b) (fun j => fpAdd rm t (X j) (Y j)) two ∧
      gives (.vfsub rm t sc mask d a b) (fun j => fpSub rm t (X j) (Y j)) two ∧
      gives (.vfmul rm t sc mask d a b) (fun j => fpMul rm t (X j) (Y j)) two ∧
      gives (.vfdiv rm t sc mask d a b) (fun j => fpDiv rm t (X j) (Y j)) two ∧
      gives (.vfmin t sc mask d a b) (fun j => fpMinMax false t (X j) (Y j)) two ∧
      gives (.vfmax t sc mask d a b) (fun j => fpMinMax true t (X j) (Y j)) two ∧
      (s.vsrc c = some (z, t) →
        gives (.vffma rm t sc mask d a b c) (fun j => fpFma rm t false false (X j) (Y j) (Z j)) (two ++ [c])))

/-- 10 R215, R218, R225: moves, immediates, selection, permutation, broadcast and slides. vsel and an unmasked write write every
element; vperm reads modulo the number of elements; vslide fills with zeros. -/
def Obligations.VectorMoves : Prop :=
  ∀ (s : State) (t u : Tag) (mask : BitVec 3) (d a b : BitVec 5) (x y : BitVec 1024) (src : Src) (amount : BitVec 32),
    let w := t.width
    let on := fun j => active (s.me.mask mask) w j
    let none5 : Nat → BitVec 5 := fun _ => 0#5
    (maskedOk s d t mask →
      WritesElems (.vli t mask d src) s d t on
        (fun _ => (if t.isSigned || t == .bits then src.sext else src.zext).setWidth w) none5 [] src.size ∧
      WritesElems (.vbcast t mask d a) s d t on (fun _ => (s.x a).setWidth w) none5 [] 12) ∧
    (maskedOk s d t mask → s.vsrc a = some (x, u) → u ≠ .empty → (u.width = w ∨ u = .bits ∨ t = .bits) →
      WritesElems (.vmov t mask d a) s d t on (velem x t) none5 [a] 12) ∧
    (s.vsrc a = some (x, t) → s.vsrc b = some (y, t) →
      WritesElems (.vsel t mask d a b) s d t (fun _ => true) (fun j => if on j then velem x t j else velem y t j) none5 [a, b] 12) ∧
    (maskedOk s d t mask → s.vsrc a = some (x, t) → s.vsrc b = some (y, u) → (u.isSigned = true ∨ u.isUnsigned = true) →
      u.width = w →
      WritesElems (.vperm t mask d a b) s d t on (fun j => velem x t ((velem y t j).toNat % t.elems)) none5 [a, b] 12) ∧
    (maskedOk s d t mask → s.vsrc a = some (x, t) →
      WritesElems (.vslide t mask d a amount) s d t on
        (fun (j : Nat) => if 0 ≤ (j : Int) + amount.toInt ∧ (j : Int) + amount.toInt < t.elems
          then velem x t ((j : Int) + amount.toInt).toNat else 0#t.width) none5 [a] 12)

/-- 10 R217, R219, R220, R205: compares write a mask bit per element (two of 64-bit ones), 0 for inactive elements; medge compares
X(a) + j with X(b) exactly; the mask operations are bitwise and mpop counts. m0 reads as all ones. -/
def Obligations.VectorMasks : Prop :=
  ∀ (s : State) (t : Tag) (sc : Bool) (mask d p q : BitVec 3) (r a b : BitVec 5) (x y : BitVec 1024),
    let w := t.width
    let on := fun j => active (s.me.mask mask) w j
    let X (j : Nat) : Nat := (velem x t j).toNat
    let Y (j : Nat) : Nat := if sc then (s.x b).toNat % 2 ^ w else (velem y t j).toNat
    let val (e : Nat) : Int := if t.isSigned then (BitVec.ofNat w e).toInt else e
    let lanes (f : Nat → Bool) (m : BitVec 32) : Prop := ∀ k, k < 32 → m.getLsbD k = f (k * 32 / w)
    let two := a :: if sc then [] else [b]
    let gives (i : Instr) (f : Nat → Bool × BitVec 5) : Prop :=
      WritesLanes i s d (maskOf w ((List.range t.elems).map (fun j => on j && (f j).1))) (flagsOver t on (fun j => (f j).2)) two
    (s.vsrc a = some (x, t) → (sc = false → s.vsrc b = some (y, t)) →
      (t.isFp = false →
        gives (.vcmpeq t sc mask d a b) (fun j => (decide (X j = Y j), 0#5)) ∧
        gives (.vcmpne t sc mask d a b) (fun j => (decide (X j ≠ Y j), 0#5)) ∧
        gives (.vcmplt t sc mask d a b) (fun j => (decide (val (X j) < val (Y j)), 0#5)) ∧
        gives (.vcmple t sc mask d a b) (fun j => (decide (val (X j) ≤ val (Y j)), 0#5))) ∧
      (t.isFp = true →
        gives (.vcmpeq t sc mask d a b) (fun j => fpEq t (X j) (Y j)) ∧
        gives (.vcmpne t sc mask d a b) (fun j => (!(fpEq t (X j) (Y j)).1, (fpEq t (X j) (Y j)).2)) ∧
        gives (.vcmplt t sc mask d a b) (fun j => fpLt t (X j) (Y j)) ∧
        gives (.vcmple t sc mask d a b) (fun j => fpLe t (X j) (Y j)))) ∧
    WritesLanes (.medge t d a b) s d (maskOf w ((List.range t.elems).map
      (fun (j : Nat) => decide ((s.x a).toInt + (j : Int) < (s.x b).toInt)))) 0#5 [] ∧
    (∀ f : Nat → Bool, (w = 32 ∨ w = 64) → lanes f (maskOf w ((List.range t.elems).map f))) ∧
    WritesLanes (.mand d p q) s d (s.me.mask p &&& s.me.mask q) 0#5 [] ∧
    WritesLanes (.mor d p q) s d (s.me.mask p ||| s.me.mask q) 0#5 [] ∧
    WritesLanes (.mandn d p q) s d (s.me.mask p &&& ~~~(s.me.mask q)) 0#5 [] ∧
    WritesLanes (.mxor d p q) s d (s.me.mask p ^^^ s.me.mask q) 0#5 [] ∧
    WritesScalar (.mpop r p) s r (BitVec.ofNat 64 ((List.range 32).countP (fun k => (s.me.mask p).getLsbD k))) 0#5 [] ∧
    s.me.mask 0#3 = 0xFFFFFFFF#32

/-- 10 R226, R227, 04 R103, R105: reductions run over a balanced tree of the elements of a 32- or 64-bit tag, inactive ones entering
as the identity; for integer tags the sum is the sum modulo the width and minimum and maximum are those of the active elements;
vext extracts one element. The result is extended by the tag into X(d).

10 R228, 04 R94: vcvt converts each active element of its part: widening takes part p of the source, narrowing fills part p of
the destination and keeps the rest, and equal widths convert element by element. -/
def Obligations.VectorReductionsAndConversion : Prop :=
  (∀ (s : State) (rm : BitVec 2) (t : Tag) (mask : BitVec 3) (d a : BitVec 5) (idx : BitVec 32) (x : BitVec 1024),
     s.vsrc a = some (x, t) → (t.width = 32 ∨ t.width = 64) → t ≠ .empty →
     let w := t.width
     let on := fun j => active (s.me.mask mask) w j
     let ext (v : Nat) : Word := if t.isSigned then (BitVec.ofNat w v).signExtend 64 else (BitVec.ofNat w v).setWidth 64
     let X (j : Nat) : Nat := (velem x t j).toNat
     let es (unit : Nat) : List Nat := (List.range t.elems).map (fun j => if on j then X j else unit)
     let k := if w = 64 then 4 else 5
     let val (e : Nat) : Int := if t.isSigned then (BitVec.ofNat w e).toInt else e
     WritesScalar (.vext t d a idx) s d (ext (vget x w idx.toNat)) 0#5 [a] ∧
     (t.isFp = true →
       let sum := pairTree (fpAdd rm t) k (es (fpSigned t true 0))
       let lo := pairTree (fpMinMax false t) k (es (fpSigned t false (fpInfMag t)))
       let hi := pairTree (fpMinMax true t) k (es (fpSigned t true (fpInfMag t)))
       WritesScalar (.vredsum rm t mask d a) s d (ext sum.1) sum.2 [a] ∧
       WritesScalar (.vredmin t mask d a) s d (ext lo.1) lo.2 [a] ∧ WritesScalar (.vredmax t mask d a) s d (ext hi.1) hi.2 [a]) ∧
     (t.isFp = false →
       WritesScalar (.vredsum rm t mask d a) s d (ext (es 0).sum) 0#5 [a] ∧
       ((∃ j, j < t.elems ∧ on j = true) →
         ∃ lo hi, WritesScalar (.vredmin t mask d a) s d (ext lo) 0#5 [a] ∧ WritesScalar (.vredmax t mask d a) s d (ext hi) 0#5 [a] ∧
           (∃ j, j < t.elems ∧ on j = true ∧ X j = lo) ∧ (∃ j, j < t.elems ∧ on j = true ∧ X j = hi) ∧
           ∀ j, j < t.elems → on j = true → val lo ≤ val (X j) ∧ val (X j) ≤ val hi))) ∧
  (∀ (s : State) (t u : Tag) (rm : BitVec 2) (mask : BitVec 3) (d a : BitVec 5) (p : BitVec 3) (sat : Bool) (x : BitVec 1024),
     s.vsrc a = some (x, u) → u ≠ .empty → u ≠ .bits →
     let wd := t.width
     let ws := u.width
     let on := fun j => active (s.me.mask mask) wd j
     let cv (j : Nat) : Nat × BitVec 5 := cvtElem rm sat u t (velem x u j).toNat
     (ws = wd → p = 0#3 → maskedOk s d t mask →
       WritesElems (.vcvt t rm mask d a p sat) s d t on (fun j => BitVec.ofNat wd (cv j).1) (fun j => (cv j).2) [a] 12) ∧
     (ws < wd → p.toNat < wd / ws → maskedOk s d t mask →
       WritesElems (.vcvt t rm mask d a p sat) s d t on (fun j => BitVec.ofNat wd (cv (p.toNat * t.elems + j)).1)
         (fun j => (cv (p.toNat * t.elems + j)).2) [a] 12) ∧
     (wd < ws → p.toNat < ws / wd → (s.me.vtag d = t ∨ s.me.vtag d = .empty) →
       WritesElems (.vcvt t rm mask d a p sat) s d t
         (fun j => on j && decide (p.toNat * u.elems ≤ j) && decide (j < (p.toNat + 1) * u.elems))
         (fun j => BitVec.ofNat wd (cv (j - p.toNat * u.elems)).1) (fun j => (cv (j - p.toNat * u.elems)).2) [a] 12))

/-- 10 R206, R208, of every vector form: where a channel that a source field names is empty the instruction waits; where every source
is there, the first in the order of operand codes whose tag it does not admit takes FORMAT, with its code and the tag found in detail;
where all are admitted, a write that leaves elements of a register of another tag unwritten takes FORMAT with code 4, a narrowing vcvt
whatever its mask. A channel head that is read is popped from its core's channel as the instruction retires. -/
def Obligations.VectorSources : Prop :=
  ∀ (s : State) (i : Instr),
    let g := s.me.pl.core
    let l := s.me.sy.trapLevel
    let srcs := vecSources i
    let format (code : Nat) (found : Tag) : Prop :=
      Traps i s l (BitVec.ofNat 64 (0x00F00009 + code * 0x1000 + found.code.toNat * 256)) s.pc 0#64 0#64
    let admitted := ∀ q ∈ srcs, ∃ x, s.vsrc q.r = some x ∧ q.ok x.2 = true
    ((∃ q ∈ srcs, s.vsrc q.r = none) → Waits i s) ∧
    (s.provisional s.cur = false → l ≠ 3 →
      (∀ before q after x u, srcs = before ++ q :: after → (∀ p ∈ srcs, s.vsrc p.r ≠ none) →
        (∀ p ∈ before, ∀ y, s.vsrc p.r = some y → p.ok y.2 = true) → s.vsrc q.r = some (x, u) → q.ok u = false →
        format q.op u) ∧
      (∀ d t mask, vecDest i = some (d, t, mask) → admitted → ¬ maskedOk s d t mask → format 4 (s.me.vtag d)) ∧
      (∀ t rm mask d a p sat x u, i = .vcvt t rm mask d a p sat → admitted → s.vsrc a = some (x, u) → t.width < u.width →
        s.me.vtag d ≠ t → s.me.vtag d ≠ .empty → format 4 (s.me.vtag d))) ∧
    (∀ a : BitVec 5, a.toNat < 28 → s.vsrc a = some (s.me.vreg a, s.me.vtag a)) ∧
    (∀ (a : BitVec 5) (q : Nat), q < 4 → a.toNat = 28 + q →
      (Map.get [] (s.coreSt g).chans q = [] → s.vsrc a = none) ∧
      ∀ m rest, Map.get [] (s.coreSt g).chans q = m :: rest →
        s.vsrc a = some (m.val, m.tag) ∧
        (Map.get [] ((s.popNamed [a]).coreSt g).chans q).map (fun e => (e.val, e.tag, e.lid)) =
          rest.map (fun e => (e.val, e.tag, e.lid)) ∧
        ∀ k, k ≠ q → Map.get [] ((s.popNamed [a]).coreSt g).chans k = Map.get [] (s.coreSt g).chans k)

/-- 10 R221-R223: a vector load whose active elements are granted (es lists them with their runs, s1 is the state after the
translations) of a task that is not ordered, in dmode 0 and a calm memory system: each active element is the little-endian value
of its bytes, the others are kept, and L counts one. The element addresses are those of the form; no byte of memory changes.

10 R221-R224: a vector store whose active elements are granted enters the store queue as one entry that holds the elements'
bytes at their locations, of several at one location the highest element's; memory does not change at issue (s1 is the state after
the translations).

10 R222, R211, 07 R161, R163, 05 R124: the active elements are checked in ascending order, alignment before translation; `vaddrs`
answers those below the first that fails, and its trap, with the element in detail (where the fault has no detail of its own, as that of
an empty key slot has; log entry 84, DEDUCED) and its address in tval. A load of a task that is not ordered, in dmode 0 and a calm
memory system, then takes that trap with the elements below written, if there are any, and else nothing: no counter moves and no channel
is popped. A store takes it with an entry of the elements below in the queue; but a poisoned page-table entry becomes a record, for a
store's machine check is not precise. -/
def Obligations.VectorMemory : Prop :=
  (∀ (s s1 : State) (t : Tag) (acq : Bool) (scope mask : BitVec 3) (d a b : BitVec 5) (disp : Src) (sh : BitVec 2)
     (i : Instr) (va : Nat → Word) (srcs : List (BitVec 5)) (es : List VElem) (y : BitVec 1024) (u : Tag),
     let w := t.width
     let on := fun j => active (s.me.mask mask) w j
     let idx (j : Nat) : Word := if u.isSigned then (velem y u j).signExtend 64 else (velem y u j).setWidth 64
     (i = .vld t acq scope mask d a disp ∧ srcs = [] ∧ va = fun j => s.x a + disp.sext + BitVec.ofNat 64 (j * (w / 8))) ∨
       (i = .vlds t acq scope mask d a b disp ∧ srcs = [] ∧ va = fun j => s.x a + disp.sext + BitVec.ofNat 64 j * s.x b) ∨
       (i = .vgath t acq scope mask d a b disp sh ∧ srcs = [b] ∧ s.vsrc b = some (y, u) ∧ (u.isSigned || u.isUnsigned) = true ∧
         u.width = w ∧ va = fun j => s.x a + disp.sext + (idx j <<< sh.toNat)) →
     maskedOk s d t mask → s.me.io.lq.length < 64 → s.Calm → s.det = false → s.me.tid.ord = false →
     s.vaddrs { rd := true } 8#4 (w / 8) (((List.range t.elems).filter on).map (fun j => (j, va j))) = (es, none, s1) →
     s1.mustWait false (es.flatMap (fun e => segLocs e.gs)) = false →
     ∃ r, exec i s = .next r ∧ r.me.vtag d = t ∧
       (∀ e ∈ es, velem (r.me.vreg d) t e.j =
         BitVec.ofNat w (leNat ((segLocs e.gs).map (fun l => (forwarded s.me.io.sq l).getD (memGet s.mem l))))) ∧
       (∀ j, j < t.elems → on j = false → velem (r.me.vreg d) t j = keptElem s d t j) ∧
       es.map (·.j) = (List.range t.elems).filter on ∧
       (∀ k, k ≠ d → r.me.vreg k = s.me.vreg k ∧ r.me.vtag k = s.me.vtag k) ∧ r.me.rf.m = s.me.rf.m ∧ AllRegs s r ∧
       RetiresTo (s.pc + BitVec.ofNat 64 disp.size) s r ∧ r.me.io.lq.length = s.me.io.lq.length + 1 ∧ r.me.io.sq = s.me.io.sq ∧
       r.mem = s.mem ∧ OtherTasks s r) ∧
  (∀ (s s1 : State) (t : Tag) (rel : Bool) (scope mask : BitVec 3) (d a b : BitVec 5) (disp : Src) (sh : BitVec 2)
     (i : Instr) (va : Nat → Word) (srcs : List (BitVec 5)) (es : List VElem) (x y : BitVec 1024) (u : Tag),
     let w := t.width
     let on := fun j => active (s.me.mask mask) w j
     let idx (j : Nat) : Word := if u.isSigned then (velem y u j).signExtend 64 else (velem y u j).setWidth 64
     (i = .vst t rel scope mask d a disp ∧ srcs = [d] ∧ va = fun j => s.x a + disp.sext + BitVec.ofNat 64 (j * (w / 8))) ∨
       (i = .vsts t rel scope mask d a b disp ∧ srcs = [d] ∧ va = fun j => s.x a + disp.sext + BitVec.ofNat 64 j * s.x b) ∨
       (i = .vscat t rel scope mask d a b disp sh ∧ srcs = [b, d] ∧ s.vsrc b = some (y, u) ∧
         (u.isSigned || u.isUnsigned) = true ∧ u.width = w ∧ va = fun j => s.x a + disp.sext + (idx j <<< sh.toNat)) →
     s.vsrc d = some (x, t) → s.me.io.sq.length < 64 → (rel = true → s.tilesPending = false) → s.provisional s.cur = false →
     s.vaddrs { w := true } 9#4 (w / 8) (((List.range t.elems).filter on).map (fun j => (j, va j))) = (es, none, s1) →
     s1.tileBlocks (es.flatMap (fun e => segLocs e.gs)) = false →
     s1.owesAt s1.cur (es.flatMap (fun e => segLocs e.gs)) = false →
     ∃ r e, exec i s = .next r ∧ r.me.io.sq = s1.me.io.sq ++ [e] ∧ e.op = .plain ∧ e.kind = 9 ∧ e.width = w / 8 ∧
       e.rel = (if rel then some scope else none) ∧
       e.cells = (lastElems (es.map (fun v => ElemStore.mk ((segLocs v.gs).zip (leBytes (w / 8) (vget x w v.j)))
         (locRange v.va.toNat (w / 8))))).flatMap (·.cells) ∧
       (∀ c ∈ e.cells, ∃ v ∈ es, c ∈ (segLocs v.gs).zip (leBytes (w / 8) (vget x w v.j))) ∧
       MemorySide s s1 ∧ SameBytes s s1 ∧ r.mem = s1.mem ∧ AllRegs s r ∧ SameVectors s r ∧ SameTiles s r ∧
       RetiresTo (s.pc + BitVec.ofNat 64 disp.size) s1 r ∧ OtherTasks s1 r) ∧
  ((∀ (s s1 : State) (need : Need) (kind : BitVec 4) (n j : Nat) (va : Word) (rest : List (Nat × Word)) (e : XFault) (gs : List Seg),
     let named (d : Nat) : BitVec 8 := if e.detail = 0#8 then BitVec.ofNat 8 d else e.detail
     (va.toNat % n ≠ 0 → s.vaddrs need kind n ((j, va) :: rest) =
       ([], some { code := 0x07#8, tval := va, kind := kind, detail := BitVec.ofNat 8 j }, s)) ∧
     (va.toNat % n = 0 → s.xlate (s.agentOf s.cur) need va n = (.error e, s1) → s.vaddrs need kind n ((j, va) :: rest) =
       ([], some { refusalOf s e kind with detail := named j }, s1)) ∧
     (va.toNat % n = 0 → s.xlate (s.agentOf s.cur) need va n = (.ok gs, s1) → s.vaddrs need kind n ((j, va) :: rest) =
       (⟨j, va, gs⟩ :: (s1.vaddrs need kind n rest).1, (s1.vaddrs need kind n rest).2))) ∧
   ∀ (s s1 : State) (t : Tag) (acq rel : Bool) (scope mask : BitVec 3) (d a b : BitVec 5) (disp : Src) (sh : BitVec 2)
     (i : Instr) (va : Nat → Word) (es : List VElem) (v : BitVec 1024) (x : TrapInfo),
     let w := t.width
     let on := fun j => active (s.me.mask mask) w j
     let l := s.me.sy.trapLevel
     let bank : Bank := { s.me.sy.bank l with
       cause := BitVec.ofNat 64 (x.wlev.toNat * 2 ^ 20 + x.kind.toNat * 2 ^ 16 + x.detail.toNat * 2 ^ 8 + x.code.toNat),
       ret := s.pc, tval := x.tval, xval := x.xval }
     let unit (j : Nat) : Word := s.x a + disp.sext + BitVec.ofNat 64 (j * (w / 8))
     let strided (j : Nat) : Word := s.x a + disp.sext + BitVec.ofNat 64 j * s.x b
     let indexed (va : Nat → Word) : Prop := ∃ y u, s.vsrc b = some (y, u) ∧ (u.isSigned || u.isUnsigned) = true ∧ u.width = w ∧
       va = fun j => s.x a + disp.sext +
         ((if u.isSigned then (velem y u j).signExtend 64 else (velem y u j).setWidth 64) <<< sh.toNat)
     let checked (need : Need) (kind : BitVec 4) : Prop :=
       s.vaddrs need kind (w / 8) (((List.range t.elems).filter on).map (fun j => (j, va j))) = (es, some x, s1)
     s.provisional s.cur = false → l ≠ 3 →
     ((i = .vld t acq scope mask d a disp ∧ va = unit) ∨ (i = .vlds t acq scope mask d a b disp ∧ va = strided) ∨
         (i = .vgath t acq scope mask d a b disp sh ∧ indexed va) →
       maskedOk s d t mask → s.me.io.lq.length < 64 → s.Calm → s.det = false → s.me.tid.ord = false → checked { rd := true } 8#4 →
       s1.mustWait false (es.flatMap (fun e => segLocs e.gs)) = false →
       ∃ q r, exec i s = .next r ∧ EntersLevel q l bank (s.me.sy.bank l).tvec r ∧
         (es = [] → SameVectors s q) ∧ (es ≠ [] → q.me.vtag d = t) ∧
         (∀ e ∈ es, velem (q.me.vreg d) t e.j =
           BitVec.ofNat w (leNat ((segLocs e.gs).map (fun k => (forwarded s.me.io.sq k).getD (memGet s.mem k))))) ∧
         (es ≠ [] → ∀ j, j < t.elems → (∀ e ∈ es, e.j ≠ j) → velem (q.me.vreg d) t j = keptElem s d t j) ∧
         (∀ k, k ≠ d → q.me.vreg k = s.me.vreg k ∧ q.me.vtag k = s.me.vtag k) ∧ q.me.rf.m = s.me.rf.m ∧ AllRegs s q ∧
         q.me.sy = s.me.sy ∧ q.me.pl = s.me.pl ∧ q.me.io.lq.length = s.me.io.lq.length ∧ q.me.io.sq = s.me.io.sq ∧ q.mem = s.mem ∧
         q.cores = s.cores ∧ OtherTasks s q) ∧
     ((i = .vst t rel scope mask d a disp ∧ va = unit) ∨ (i = .vsts t rel scope mask d a b disp ∧ va = strided) ∨
         (i = .vscat t rel scope mask d a b disp sh ∧ indexed va) →
       s.vsrc d = some (v, t) → s.me.io.sq.length < 64 → (rel = true → s.tilesPending = false) → checked { w := true } 9#4 →
       s1.tileBlocks (es.flatMap (fun e => segLocs e.gs)) = false → s1.owesAt s1.cur (es.flatMap (fun e => segLocs e.gs)) = false →
       let entered (q : State) : Prop :=
         (es = [] → q.me.io.sq = s.me.io.sq) ∧
         (es ≠ [] → ∃ e, q.me.io.sq = s.me.io.sq ++ [e] ∧ e.op = .plain ∧ e.kind = 9 ∧ e.width = w / 8 ∧
           (∀ c, c ∈ e.cells → ∃ k ∈ es, c ∈ (segLocs k.gs).zip (leBytes (w / 8) (vget v w k.j))) ∧
           ∀ k ∈ es, ∀ n ∈ segLocs k.gs, ∃ c ∈ e.cells, c.1 = n) ∧
         q.mem = s1.mem ∧ AllRegs s q ∧ SameVectors s q ∧ SameTiles s q ∧ OtherTasks s1 q
       (x.code ≠ 0x1C#8 → ∃ q r, exec i s = .next r ∧ EntersLevel q l bank (s.me.sy.bank l).tvec r ∧ entered q ∧
         q.me.sy = s.me.sy ∧ q.me.pl = s.me.pl ∧ q.cores = s1.cores) ∧
       (x.code = 0x1C#8 → s.me.io.sfq.length < 8 → (∀ q ∈ s.me.io.sfq, q.issued ≤ s.me.pl.retired) →
         ∃ r, exec i s = .next r ∧ entered r ∧ RetiresTo (s.pc + BitVec.ofNat 64 disp.size) s r ∧
           ∃ f, r.me.io.sfq = s.me.io.sfq ++ [f] ∧ f.q0 = s.pc ∧ f.q1 = x.tval ∧ f.detail = x.detail)))

/-- 16 R315-R317, 17 R332: tclaim takes the lowest base of br * bc free slots of the task's cluster, in the launch's name, clears
them, and leaves a LIVE Onyx handle of the tag and shape; no other slot, handle register or byte of memory changes. Where no run
is free it takes SLOTS.

17 R333-R336, R338, 16 R318-R321: tfree of an Onyx tile of no split that no accepted instruction names frees its slots and
empties the register; hmov moves the value and leaves MOVED-FROM; hdup makes both registers Shared handles of one tile and
counts a reference; hinfo reads a register's value; kset writes a scale register. -/
def Obligations.TileClaimAndHandles : Prop :=
  (∀ (s : State) (t : Tag) (d : BitVec 4) (br bc : BitVec 3), s.MatrixReady → s.MemOk → s.roomIn d →
     let cl := clusterOf s.me.pl.core
     let n := (br.toNat + 1) * (bc.toNat + 1)
     let free (b : Nat) : Prop := ∀ i, i < n → Map.get? (s.cluster cl).slots (b + i) = none
     (∀ b, b + n ≤ 512 → free b → (∀ c, c < b → ¬ free c) →
       ∃ r, exec (.tclaim t d br bc) s = .next r ∧
         (∀ x, Map.get? (r.cluster cl).slots x = if b ≤ x ∧ x < b + n then some s.me.tid.launch else Map.get? (s.cluster cl).slots x) ∧
         (∀ a, memGet r.mem a = if opmBase cl b ≤ a ∧ a < opmBase cl (b + n) then 0#8 else memGet s.mem a) ∧
         (let v := r.me.hreg d
          hSt v = 1 ∧ hOnyx v = true ∧ hTag v = t ∧ hLk v = false ∧ hSteps v = 0 ∧ hBase v = b ∧ hBr v = br.toNat + 1 ∧
          hBc v = bc.toNat + 1 ∧ hPitch v = bc.toNat + 1) ∧
         OtherHandles [d] s r ∧ TileFrame s r ∧ SameQueues s r) ∧
     ((∀ b, b + n ≤ 512 → ¬ free b) → s.me.sy.trapLevel ≠ 3 →
       Traps (.tclaim t d br bc) s s.me.sy.trapLevel (BitVec.ofNat 64 (0x00F0001D + 0x4000)) s.pc (d.setWidth 64) 0#64)) ∧
  (∀ (s : State) (d a : BitVec 4) (x b : BitVec 5) (imm : BitVec 32), s.MatrixReady →
     let cl := clusterOf s.me.pl.core
     let v := s.me.hreg a
     (s.onyxIn a → hLk v = false → s.slotsBusy cl (hSlots v) = false →
       ∃ r, exec (.tfree a) s = .next r ∧ r.me.hreg a = 0#64 ∧ OtherHandles [a] s r ∧ TileFrame s r ∧
         (∀ k, Map.get? (r.cluster cl).slots k = if k ∈ hSlots v then none else Map.get? (s.cluster cl).slots k) ∧
         r.mem = s.mem ∧ (r.cluster cl).refs = (s.cluster cl).refs ∧ (r.cluster cl).lineage = (s.cluster cl).lineage) ∧
     (s.liveIn a → s.roomIn d →
       ∃ r, exec (.hmov d a) s = .next r ∧ r.me.hreg d = v ∧ r.me.hreg a = 0xC000000000000000#64 ∧ OtherHandles [d, a] s r ∧
         TileFrame s r ∧ OnlyTasks s r ∧ SameQueues s r) ∧
     (s.liveIn a → s.roomIn d → hLk v = false → (hOnyx v = true ∨ Map.get 1 (s.cluster cl).refs (hBase v) < 1024) →
       ∃ r, exec (.hdup d a) s = .next r ∧ r.me.hreg d = r.me.hreg a ∧ hOnyx (r.me.hreg a) = false ∧
         hSt (r.me.hreg a) = 1 ∧ hBase (r.me.hreg a) = hBase v ∧ hTag (r.me.hreg a) = hTag v ∧ hSlots (r.me.hreg a) = hSlots v ∧
         Map.get? (r.cluster cl).refs (hBase v) =
           some (if hOnyx v then 2 else Map.get 1 (s.cluster cl).refs (hBase v) + 1) ∧
         (r.cluster cl).slots = (s.cluster cl).slots ∧ OtherHandles [d, a] s r ∧ TileFrame s r ∧ r.mem = s.mem) ∧
     ((s.det = false ∨ hSt v ≠ 2) → Writes (.hinfo x a) s x v 0#5 12) ∧
     (∃ r, exec (.kset d (.imm imm)) s = .next r ∧ r.me.kreg d = imm ∧ (∀ k, k ≠ d → r.me.kreg k = s.me.kreg k) ∧
       r.me.rf.h = s.me.rf.h ∧ AllRegs s r ∧ SameVectors s r ∧ SystemBut s.me.sy.fflags s r ∧ RetiresTo (s.pc + 12#64) s r ∧
       Frame s r) ∧
     (∃ r, exec (.kset d (.reg b)) s = .next r ∧ r.me.kreg d = (s.x b).setWidth 32 ∧ (∀ k, k ≠ d → r.me.kreg k = s.me.kreg k) ∧
       r.me.rf.h = s.me.rf.h ∧ AllRegs s r ∧ SameVectors s r ∧ SystemBut s.me.sy.fflags s r ∧ RetiresTo (s.pc + 12#64) s r ∧
       Frame s r))

/-- 16 R321, 17 R337: hsend to a task that holds a context of the launch that the sender's cluster may reach, running or OUT, where
the accesses that the release orders are performed. To a task but itself it is a kill point (its wait for an answer is one, 08 R170). To
another register of the task itself the value moves. To another context of its
own cluster it puts the value into the target's register, LIVE where no accepted instruction of the sender keeps the tile on its way
and PENDING else, and leaves MOVED-FROM; to another cluster it claims slots there by first fit, leaves the target PENDING and queues
the transfer, and T counts one more until the transfer lands.

16 R322, R323, 17 R345, R346: tsplit cuts an Onyx tile in two child tiles of one lineage entry, rows or columns, and leaves the
parent's register MOVED-FROM; trejoin of the two children of an entry gives the parent back with its tag, and the entry is free
again. No byte of memory changes. -/
def Obligations.HandleSendAndSplit : Prop :=
  (∀ (s : State) (core : BitVec 5) (k n a : BitVec 4) (u : Nat) (t : Task), s.MatrixReady → s.liveIn a →
     let g := (s.x core).toNat
     let cl := clusterOf s.me.pl.core
     let v := s.me.hreg a
     s.placeOk (s.x core) = true → s.holderOf g k.toNat = some u →
     (u = s.cur → n ≠ a → s.roomIn n →
       ∃ r, exec (.hsend core k n a) s = .next r ∧ r.me.hreg n = v ∧ r.me.hreg a = 0xC000000000000000#64 ∧ OtherHandles [n, a] s r ∧
         TileFrame s r ∧ OnlyTasks s r ∧ SameQueues s r) ∧
     (u ≠ s.cur → KilledAt (.hsend core k n a) s) ∧
     (u ≠ s.cur → s.me.pl.pend = none → Map.get? s.tasks u = some t → (hSt (t.hreg n) = 0 ∨ hSt (t.hreg n) = 3) → s.me.io.sq = [] →
       (∀ e ∈ s.me.io.lq, e.write = []) → s.ms.flights = [] → s.ms.l1 = [] →
       (clusterOf g = cl →
         ∃ r, exec (.hsend core k n a) s = .next r ∧ r.me.hreg a = 0xC000000000000000#64 ∧ OtherHandles [a] s r ∧
           (r.task u).hreg n = hWithSt v (if s.sendPending cl s.cur v then 2 else 1) ∧
           (∀ m, m ≠ n → (r.task u).hreg m = t.hreg m) ∧ AllRegs s r ∧ r.me.rf.pc = s.pc + 12#64 ∧
           (t.pl.saved = false → r.mem = s.mem)) ∧
       (∀ b, clusterOf g ≠ cl → hLk v = false → (s.cluster cl).copyq.length < 128 →
         firstFit (s.cluster (clusterOf g)).slots (hBr v * hBc v) = some b →
         ∃ r w, exec (.hsend core k n a) s = .next r ∧ r.me.hreg a = 0xC000000000000000#64 ∧ (r.task u).hreg n = w ∧
           hSt w = 2 ∧ hBase w = b ∧ hTag w = hTag v ∧ hBr w = hBr v ∧ hBc w = hBc v ∧ hOnyx w = hOnyx v ∧
           r.me.io.tiles = s.me.io.tiles + 1 ∧
           (∃ q, (r.cluster cl).copyq = (s.cluster cl).copyq ++ [q] ∧ q.what = .hsend v w (clusterOf g) u n ∧ q.owner = s.cur) ∧
           (∀ i, i < hBr v * hBc v → Map.get? (r.cluster (clusterOf g)).slots (b + i) = some s.me.tid.launch) ∧
           AllRegs s r ∧ r.me.rf.pc = s.pc + 12#64 ∧ (t.pl.saved = false → r.mem = s.mem)))) ∧
  (∀ (s : State) (axis : Bool) (d a b : BitVec 4) (cut : BitVec 3) (i : Nat), s.MatrixReady →
     let cl := clusterOf s.me.pl.core
     let p := s.me.hreg a
     let q := s.me.hreg b
     let c := cut.toNat
     (s.onyxIn a → (d = a ∨ s.roomIn d) → (b = a ∨ s.roomIn b) → d ≠ b → 0 < c → c < (if axis then hBc p else hBr p) → i < 1024 →
       Map.get? (s.cluster cl).lineage i = none → (∀ j, j < i → (Map.get? (s.cluster cl).lineage j).isSome = true) →
       ∃ r, exec (.tsplit axis d a b cut) s = .next r ∧ r.mem = s.mem ∧ TileFrame s r ∧ OtherHandles [d, b, a] s r ∧
         (d ≠ a → b ≠ a → r.me.hreg a = 0xC000000000000000#64) ∧
         Map.get? (r.cluster cl).lineage i = some { parent := p, axis := axis, cut := cut, launch := s.me.tid.launch } ∧
         (let x := r.me.hreg d
          let y := r.me.hreg b
          hSt x = 1 ∧ hSt y = 1 ∧ hLk x = true ∧ hLk y = true ∧ hSide x = false ∧ hSide y = true ∧ hLin x = i ∧ hLin y = i ∧
          hTag x = hTag p ∧ hTag y = hTag p ∧ hBase x = hBase p ∧
          (if axis then hBr x = hBr p ∧ hBr y = hBr p ∧ hBc x = c ∧ hBc y = hBc p - c ∧ (hBase p + c < 512 → hBase y = hBase p + c)
           else hBc x = hBc p ∧ hBc y = hBc p ∧ hBr x = c ∧ hBr y = hBr p - c ∧
             (hBase p + c * hPitch p < 512 → hBase y = hBase p + c * hPitch p)))) ∧
     (∀ e, s.onyxIn a → s.onyxIn b → s.me.pl.reserve = none → (d = a ∨ d = b ∨ s.roomIn d) → hLk p = true → hLk q = true →
       hLin p = hLin q → hSide p = false → hSide q = true → hTag p = hTag q →
       Map.get? (s.cluster cl).lineage (hLin p) = some e → e.launch = s.me.tid.launch →
       ∃ r, exec (.trejoin d a b) s = .next r ∧ r.mem = s.mem ∧ TileFrame s r ∧ OtherHandles [d, a, b] s r ∧
         r.me.hreg d = hWithTag e.parent (hTag p) (max (hSteps p) (hSteps q)) ∧
         (d ≠ a → r.me.hreg a = 0xC000000000000000#64) ∧ (d ≠ b → r.me.hreg b = 0xC000000000000000#64) ∧
         Map.get? (r.cluster cl).lineage (hLin p) = none))

/-- 16 R325, 17 R339-R344: what the data instructions accept. Each checks its handles, then enters its core's tile queue; tzero,
tcvt, tld and tmma leave the destination's new tag and step count in its handle at once, and its data when they complete. tld and
tst are given for a task in dmode 0 and a calm memory system whose image is granted (s1 is the state after its translations).

16 R325, R328: an accepted tile instruction does not complete before an older one of its core that names a slot of its tiles;
and MOVED-FROM, EMPTY and PENDING operands fault or wait before anything else: a PENDING source waits, a MOVED-FROM source takes
MOVED with its register in tval, an EMPTY source HSTATE, and so does a destination that is LIVE, or PENDING for a transfer on its
way in. -/
def Obligations.TileAcceptance : Prop :=
  (∀ (s s1 : State) (t : Tag) (d a b rs cs : BitVec 4) (rm : BitVec 2) (int4 acq rel : Bool) (scope : BitVec 3) (x c : BitVec 5)
     (disp : BitVec 32) (gs : List Seg), s.MatrixReady →
     let va := s.me.hreg a
     let vb := s.me.hreg b
     let vd := s.me.hreg d
     let op (what : TileKind) (w : Word) (acq : Bool) : TileOp :=
       { owner := s.cur, pc := s.pc, what := what, dst := w, vf := s.me.tid.vf, launch := s.me.tid.launch, acq := acq }
     let store (locs vas : List Nat) : TileOp :=
       { op (.store locs vas [] [] t) vd false with rel := if rel then some scope else none }
     let zeroed := hWithTag vd t 0
     let base := s.x x + disp.signExtend 64
     let image (w : Nat) : List (Word × Nat) :=
       imageBlocks base.toNat (if c = 24#5 then hBc vd * 128 * w else (s.x c).toNat) w (hBr vd) (hBc vd)
     let aligned := base.toNat % 512 = 0 ∧ (c = 24#5 ∨ (s.x c).toNat % 512 = 0)
     (s.onyxIn d → Accepts (.tzero t d) s (op .zero zeroed false) d zeroed) ∧
     (s.liveIn a → s.liveIn b → s.onyxIn d → mmaTags (hTag va) (hTag vb) (hTag vd) = none →
       hBr va = hBr vd → hBc vb = hBc vd → hBc va = hBr vb → (hTag vd = .bits → hSteps vd + hBc va ≤ 2 ^ 20) →
       let w := if hTag vd = .bits then hWithTag vd .bits (hSteps vd + hBc va) else vd
       Accepts (.tmma d a b) s (op (.mma va vb) w false) d w) ∧
     (s.liveIn a → s.onyxIn d → (hTag va).isFp = true → rs = 0#4 → cs = 0#4 → hBr va = hBr vd → hBc va = hBc vd →
       Accepts (.tcvt t rm d a rs cs) s (op (.cvt va [] rm) zeroed false) d zeroed) ∧
     (s.liveIn a → s.onyxIn d → hTag va = .bits → resTarget t = true → hBr va = hBr vd → hBc va = hBc vd →
       rs.toNat + hBr va ≤ 16 → cs.toNat + hBc va ≤ 16 → (∀ k, badScale (s.me.kreg k) = false) →
       Accepts (.tcvt t 0#2 d a rs cs) s (op (.cvt va (s.scales rs cs va) 0#2) zeroed false) d zeroed) ∧
     (s.onyxIn d → aligned → s.Calm → s.det = false → s.me.tid.ord = false →
       s.xlateBlocks { rd := true } (image (if int4 then 4 else if t = .bits then 64 else t.width)) = (.ok gs, s1) →
       s1.imageWaits (segLocs gs) = false →
       let w := hWithTag vd t (if t = .bits then 2 ^ 19 else 0)
       let wide := acq && (scope != 0#3) && (scope != 1#3 || !s.lmode.getLsbD 3)
       Accepts (.tld t int4 acq scope d x c disp) s { op (.load t int4 (segLocs gs)) w acq with wide := wide } d w) ∧
     (s.liveIn d → aligned → s.Calm → s.det = false → s.me.tid.ord = false → t = hTag vd →
       (rel = true → s.releaseWaits scope = false) →
       s.xlateBlocks { w := true } (image (if t = .bits then 64 else t.width)) = (.ok gs, s1) →
       s1.imageWaits (segLocs gs) = false →
       Accepts (.tst t rel scope d x c rs cs disp) s (store (segLocs gs) (segVas gs)) d vd)) ∧
  (∀ (s : State) (g k : Nat) (o p : TileOp) (d a : BitVec 4),
     ((s.coreSt g).tileq[k]? = some o → o.wrote = false → p ∈ (s.coreSt g).tileq.take k →
       (∃ x ∈ p.names, ∃ y ∈ o.names, hOverlap x y = true) → exec (.tileComplete g k) s = .next s) ∧
     (s.MatrixReady → hSt (s.me.hreg a) = 2 → Waits (.hmov d a) s) ∧
     (s.MatrixReady → s.me.sy.trapLevel ≠ 3 → hSt (s.me.hreg d) ≠ 2 →
       (hSt (s.me.hreg a) = 3 →
         Traps (.hmov d a) s s.me.sy.trapLevel (BitVec.ofNat 64 (0x00F00015 + 0x1000)) s.pc (a.setWidth 64) 0#64) ∧
       (hSt (s.me.hreg a) = 0 →
         Traps (.hmov d a) s s.me.sy.trapLevel (BitVec.ofNat 64 (0x00F0001E + 0x1000)) s.pc (a.setWidth 64) 0#64)) ∧
     (s.MatrixReady → s.me.sy.trapLevel ≠ 3 → hSt (s.me.hreg a) = 1 →
       (hSt (s.me.hreg d) = 1 ∨ (hSt (s.me.hreg d) = 2 ∧ s.commandHolds s.cur d.toNat = false)) →
       Traps (.hmov d a) s s.me.sy.trapLevel (BitVec.ofNat 64 (0x00F0001E + 0x4000)) s.pc (d.setWidth 64) 0#64))

/-- 16 R325, 04 R85, R97-R104, 17 R340, R341: TILE_COMPLETE of the first entry of a core's queue. tzero, tmma and tcvt write the elements
of the destination's slots as the tile path computes them from the operands' elements (tcvt of a res tile reconstructs each with the
scales of its block's row and column), tld the elements of the image, of INT4 the nibbles, low first, as i8; tst writes each element,
little-endian, at its place in the image: of a res tile stored as res its 64 bits unchanged, stored in another format its reconstruction.
The flags are ORed into the owner's fflags, its T counts one less, and the entry is gone. A tcvt between equal formats copies (log entry
83), and an image is read or written in one step (log entry 121). Other memory changes only in the images of tasks that are OUT. A tst with rel that has made its writes ends, and T counts one
less, only when a write of its die is no longer on its way elsewhere (06 R142).

16 R315: the elements of a tile are kept in its slots: what putTile writes is what tileElems reads, and no other byte of memory
changes. -/
def Obligations.TileCompletion : Prop :=
  (∀ (s : State) (g : Nat) (o : TileOp) (rest : List TileOp) (t : Task), (s.coreSt g).tileq = o :: rest →
     Map.get? s.tasks o.owner = some t → s.ms.poison = [] →
     let fresh := o.wrote = false ∧ o.rel = none
     let cl := clusterOf g
     let h := o.dst
     let C := s.tileElems cl h (hTag h)
     let ends (r : State) (f : BitVec 5) : Prop :=
       (r.coreSt g).tileq = rest ∧ (r.task o.owner).io.tiles = t.io.tiles - 1 ∧ (r.task o.owner).sy.fflags = t.sy.fflags ||| f ∧
       (r.task o.owner).rf.v = t.rf.v ∧ (∀ x, (r.task o.owner).x x = t.x x) ∧ (r.task o.owner).rf.pc = t.rf.pc
     let done (r : State) (blocks : List (List Nat)) (f : BitVec 5) : Prop :=
       ends r f ∧ ((∀ p ∈ s.tasks, p.2.pl.saved = false) → r.mem = (s.putTile cl h blocks).mem)
     let scaled (scales : List (BitVec 32)) (v : Word) (k : Nat) (tag : Tag) : Nat → Nat × BitVec 5 :=
       reconstruct tag ((scales[k / hBc v]?).getD 0#32) ((scales[hBr v + k % hBc v]?).getD 0#32)
     let flags (out : List (List (Nat × BitVec 5))) : BitVec 5 := out.foldl (fun f es => es.foldl (fun e p => e ||| p.2) f) 0#5
     let values (out : List (List (Nat × BitVec 5))) : List (List Nat) := out.map (fun es => es.map (·.1))
     let nibble (x : Nat) : Nat := if x < 8 then x else x + 240
     (o.wrote = true → ∀ sc, o.rel = some sc →
       (3 ≤ sc.toNat → s.flightsPending (g / 80) = true → exec (.tileComplete g 0) s = .next s) ∧
       (sc.toNat < 3 ∨ s.flightsPending (g / 80) = false → ∃ r, exec (.tileComplete g 0) s = .next r ∧ (r.coreSt g).tileq = rest ∧
         (r.task o.owner).io.tiles = t.io.tiles - 1 ∧ ((∀ p ∈ s.tasks, p.2.pl.saved = false) → r.mem = s.mem))) ∧
     (fresh → o.what = .zero → ∃ r, exec (.tileComplete g 0) s = .next r ∧
       done r ((hSlots h).map (fun _ => List.replicate 1024 0)) 0#5) ∧
     (∀ a b, fresh → o.what = .mma a b → ∃ r, exec (.tileComplete g 0) s = .next r ∧
       let block (k : Nat) (c : List Nat) : List Nat × BitVec 5 :=
         mmaChain (hTag a) (hTag b) ((List.range (hBc a)).map (fun q =>
           (((s.tileElems cl a (hTag a))[k / hBc h * hBc a + q]?).getD [],
             ((s.tileElems cl b (hTag b))[q * hBc b + k % hBc h]?).getD []))) (c, 0#5)
       done r (C.mapIdx (fun k c => (block k c).1)) ((C.mapIdx (fun k c => (block k c).2)).foldl (· ||| ·) 0#5)) ∧
     (∀ src rm, fresh → o.what = .cvt src [] rm → hTag src ≠ .bits → hTag src = hTag h → ∃ r, exec (.tileComplete g 0) s = .next r ∧
       done r (s.tileElems cl src (hTag src)) 0#5) ∧
     (∀ src rm, fresh → o.what = .cvt src [] rm → hTag src ≠ .bits → hTag src ≠ hTag h → ∃ r, exec (.tileComplete g 0) s = .next r ∧
       let out := (s.tileElems cl src (hTag src)).map (fun es => es.map (fpConv rm (hTag src) (hTag h)))
       done r (values out) (flags out)) ∧
     (∀ src scales rm, fresh → o.what = .cvt src scales rm → hTag src = .bits → ∃ r, exec (.tileComplete g 0) s = .next r ∧
       let out := (s.tileElems cl src .bits).mapIdx (fun k es => es.map (scaled scales src k (hTag h)))
       done r (values out) (flags out)) ∧
     (∀ tag locs, fresh → o.what = .load tag true locs → tag ≠ .bits → s.Calm →
       ∃ r, exec (.tileComplete g 0) s = .next r ∧
         done r ((chunks 512 64 (locs.map (memGet s.mem))).map (fun bs =>
           bs.flatMap (fun x => [nibble (x.toNat % 16), nibble (x.toNat / 16)]))) 0#5) ∧
     (∀ locs vas scales tag, fresh → o.what = .store locs vas [] scales tag → s.Calm → t.tid.ord = false →
       dmodeOf (s.launchOf o.owner).mode = 0 → s.quorumOf o.owner = none →
       ∃ r, exec (.tileComplete g 0) s = .next r ∧
         let res := hTag h = .bits ∧ resTarget tag = true
         let out := C.mapIdx (fun k es => es.map (scaled scales h k tag))
         let bytes := (if res then values out else C).flatMap (fun es => es.flatMap (leBytes (tileWidth tag / 8)))
         ends r (if res then flags out else 0#5) ∧
         ((∀ p ∈ s.tasks, p.2.pl.saved = false) → ∀ a, memGet r.mem a = bytesOver s (locs.zip bytes) a)) ∧
     (∀ tag locs, fresh → o.what = .load tag false locs → s.Calm →
       ∃ r, exec (.tileComplete g 0) s = .next r ∧
         done r ((chunks (128 * tileWidth tag) 64 (locs.map (memGet s.mem))).map (fun bs =>
           (groupBytes (tileWidth tag / 8) 1024 bs).map (fun e => if tag = .bits then resCanon e else e))) 0#5)) ∧
  (∀ (s : State) (cl : Nat) (h : Word) (blocks : List (List Nat)), s.MemOk →
     blocks.length = (hSlots h).length → (hSlots h).Nodup →
     (∀ es ∈ blocks, es.length = 1024 ∧ ∀ e ∈ es, e < 2 ^ tileWidth (hTag h)) →
     (s.putTile cl h blocks).tileElems cl h (hTag h) = blocks ∧ (s.putTile cl h blocks).MemOk ∧
     ∀ a, (∀ sl ∈ hSlots h, a < opmBase cl sl ∨ opmBase cl (sl + 1) ≤ a) → memGet (s.putTile cl h blocks).mem a = memGet s.mem a)

/-- 15 R296-R302: what each shape, fill and tile command asks of the engine: bytes, endpoints and transfer. c2d and c3d read their
descriptor as one load (s' is the state after it), of words that may have been read ahead (log entry 16); a tile command takes a tile of which no word is poisoned and
holds its handle PENDING while it runs.

15 R303, R304, 23 R421: cunseal takes slot, first counter and chunk count from X(c) and the key of the slot at issue; 4,096
bytes a chunk at half the rate, to memory or to an Onyx tile of that size with no poisoned word; an empty key slot takes CKEY with
the slot in tval. -/
def Obligations.CopyCommandsAccepted : Prop :=
  (∀ (s s' : State) (acq rel : Bool) (scope : BitVec 3) (d a b c e : BitVec 5) (h : BitVec 4) (r : List Byte × List Seg) (l1 l2 : Nat),
     s.CopyReady acq rel scope →
     (s.pathOf (s.x a) = some l1 → s.pathOf (s.x b) = some l2 → 0 < (s.x c).toNat → (s.x c).toNat < 2 ^ 32 →
       CopyAccepted (.c1d acq rel scope d a b c e) s d e 1#8 (s.x c).toNat 128 (BitVec.ofNat 64 (max l1 l2))
         (.shape (s.x b) (s.x a) (s.x c).toNat 1 1 0#64 0#64 0#64 0#64) acq rel scope) ∧
     (s.pathOf (s.x a) = some l1 → 0 < (s.x c).toNat → (s.x c).toNat < 2 ^ 32 →
       CopyAccepted (.cfill acq rel scope d a b c e) s d e 5#8 (s.x c).toNat 128 (BitVec.ofNat 64 l1)
         (.fill (s.x a) (s.x b) (s.x c).toNat) acq rel scope) ∧
     (s.Calm → s.det = false → s.me.tid.ord = false → (s.x c).toNat % 8 = 0 → s.readRun 1#4 (s.x c) 48 = (.ok r, s') →
       let bs := s'.takeEarly s.me.io.early r
       let word (i : Nat) : Nat := leNat ((bs.drop (8 * i)).take 8)
       let n1 := word 1 % 2 ^ 24
       let n2 := word 1 / 2 ^ 24
       let what := CopyKind.shape (s.x b) (s.x a) (word 0) n1 n2 (BitVec.ofNat 64 (word 2)) (BitVec.ofNat 64 (word 3))
         (BitVec.ofNat 64 (word 4)) (BitVec.ofNat 64 (word 5))
       s'.pathOf (s.x a) = some l1 → s'.pathOf (s.x b) = some l2 →
       1 ≤ word 0 → word 0 ≤ 2 ^ 24 → 1 ≤ n1 → n1 ≤ 65536 → 1 ≤ n2 → n2 ≤ 65536 →
       (n2 = 1 → CopyAccepted (.c2d acq rel scope d a b c e) s d e 2#8 (word 0 * n1 * n2) 128 (BitVec.ofNat 64 (max l1 l2)) what
         acq rel scope) ∧
       CopyAccepted (.c3d acq rel scope d a b c e) s d e 3#8 (word 0 * n1 * n2) 128 (BitVec.ofNat 64 (max l1 l2)) what
         acq rel scope) ∧
     (s.ms.poison = [] → s.onyxIn h → hTag (s.me.hreg h) ≠ .empty → (s.x a).toNat % 512 = 0 → s.pathOf (s.x a) = some l1 →
       let v := s.me.hreg h
       let w := if hTag v = .bits then hWithTag v .bits (2 ^ 19) else v
       CopyAccepted (.ctileLd acq rel scope d a h e) s d e 4#8 (hBr v * hBc v * (128 * tileWidth (hTag v))) 128
         (BitVec.ofNat 64 (max l1 20)) (.tileLd h w (s.x a)) acq rel scope (some (h, w))) ∧
     (s.ms.poison = [] → s.liveIn h → hTag (s.me.hreg h) ≠ .empty → (s.x a).toNat % 512 = 0 → s.pathOf (s.x a) = some l1 →
       let v := s.me.hreg h
       CopyAccepted (.ctileSt acq rel scope d a h e) s d e 4#8 (hBr v * hBc v * (128 * tileWidth (hTag v))) 128
         (BitVec.ofNat 64 (max l1 20)) (.tileSt h v (s.x a)) acq rel scope (some (h, v)))) ∧
  (∀ (s : State) (acq rel : Bool) (scope : BitVec 3) (d a b c e : BitVec 5) (key : BitVec 256) (model : Word) (l1 l2 : Nat),
     let x := (s.x c).toNat
     let slot := x % 16
     let k := x / 2 ^ 16 % 2 ^ 16
     slot ≠ 0 → x / 16 % 2 ^ 12 = 0 → k ≠ 0 → (s.x a).toNat % 128 = 0 → (s.x b).toNat % 64 = 0 →
     (s.CopyReady acq rel scope → Map.get? (s.vf s.me.tid.vf).keys slot = some (key, model) →
       s.pathOf (s.x b) = some l1 → s.pathOf (s.x a) = some l2 →
       CopyAccepted (.cunseal acq rel scope false d a b c e) s d e 6#8 (k * 4096) 64 (BitVec.ofNat 64 (max l1 l2))
         (.unseal (s.x a) none (s.x b) slot (x / 2 ^ 32) k key) acq rel scope) ∧
     (let h : BitVec 4 := a.setWidth 4
      let v := s.me.hreg h
      s.CopyReady acq rel scope → Map.get? (s.vf s.me.tid.vf).keys slot = some (key, model) → s.pathOf (s.x b) = some l1 →
       s.onyxIn h → s.ms.poison = [] → hBr v * hBc v * (128 * tileWidth (hTag v)) = k * 4096 →
       CopyAccepted (.cunseal acq rel scope true d a b c e) s d e 6#8 (k * 4096) 64 (BitVec.ofNat 64 (max l1 20))
         (.unseal (s.x a) (some (h, v)) (s.x b) slot (x / 2 ^ 32) k key) acq rel scope (some (h, v))) ∧
     (Map.get? (s.vf s.me.tid.vf).keys slot = none → s.provisional s.cur = false → s.me.sy.trapLevel ≠ 3 →
       Traps (.cunseal acq rel scope false d a b c e) s s.me.sy.trapLevel 0x00F00033#64 s.pc (BitVec.ofNat 64 slot) 0#64))

/-- 15 R310, R311, R307, 08 R170: cwait goes on when the command is DONE and waits while it is BUSY; cstat writes 0, 1 or 2 for BUSY,
DONE and FAULT; sleepu goes on at DONE, waits for a BUSY command up to its promise plus slack, and then takes PROMISE in dmode 0; an
identifier without a record takes CID, cstat before TIME by the model's choice (log entry 104). cwait and sleepu are kill points.

16 R321, 15 R311, 06 R138: HSEND_LANDED of a transfer that no tile instruction accepted before the hsend keeps on its way, and across dies no write of the sender's die that is still to be applied at another, makes the target's
register LIVE and lowers the sender's T. PROMISE_EXPIRY lets a waiting sleepu whose words are fetched (s' is the state after the
fetch) issue again: it takes PROMISE where the promise plus slack has passed in dmode 0, goes on where the command is DONE, and
waits on before; for a task that does not wait in one it changes nothing. -/
def Obligations.CopyWaits : Prop :=
  (∀ (s : State) (a d : BitVec 5) (slack : BitVec 32) (r : CopyRec) (p : Word),
     KilledAt (.cwait a) s ∧ KilledAt (.sleepu a slack) s ∧
     (s.me.io.copyRec (s.x a) = some r → r.unreported = false → (∀ q ∈ s.me.io.crecs, q.id = r.id → q = r) →
       (r.st = .done → s.me.pl.pend = none → GoesTo (.cwait a) s (s.pc + 4#64) ∧ GoesTo (.sleepu a slack) s (s.pc + 12#64)) ∧
       (r.st = .busy → Waits (.cwait a) s ∧ (r.promise = none → Waits (.sleepu a slack) s)) ∧
       (s.det = false ∨ s.me.sy.timeok = true →
         Writes (.cstat d a) s d (match r.st with | .busy => 0#64 | .done => 1#64 | .fault => 2#64) 0#5 4) ∧
       (r.st = .busy → r.promise = some p → (s.det = true ∨ s.dtime.toNat < p.toNat + slack.toNat) → Waits (.sleepu a slack) s) ∧
       (r.st = .busy → r.promise = some p → s.det = false → p.toNat + slack.toNat ≤ s.dtime.toNat → s.me.pl.pend = none →
         s.provisional s.cur = false → s.me.sy.trapLevel ≠ 3 →
         ∃ t, exec (.sleepu a slack) s = .next t ∧ t.me.rf.pc = (s.me.sy.bank s.me.sy.trapLevel).tvec ∧
           (t.me.sy.bank s.me.sy.trapLevel).cause = 0x00F00018#64 ∧ (t.me.sy.bank s.me.sy.trapLevel).tval = s.x a ∧
           (t.me.sy.bank s.me.sy.trapLevel).ret = s.pc ∧ AllRegs s t ∧ t.mem = s.mem)) ∧
     (s.me.io.copyRec (s.x a) = none → s.me.pl.pend = none → s.provisional s.cur = false → s.me.sy.trapLevel ≠ 3 →
       Traps (.cwait a) s s.me.sy.trapLevel 0x00F00034#64 s.pc (s.x a) 0#64 ∧
       Traps (.cstat d a) s s.me.sy.trapLevel 0x00F00034#64 s.pc (s.x a) 0#64 ∧
       Traps (.sleepu a slack) s s.me.sy.trapLevel 0x00F00034#64 s.pc (s.x a) 0#64)) ∧
  (∀ (s : State) (k cl i u : Nat) (q : CopyCmd) (hv w : Word) (c : Nat) (v : Nat) (n : BitVec 4) (t t' : Task),
     (s.carriedCopies[k]? = some (cl, i, q) → q.what = .hsend hv w c v n →
       ((∃ o ∈ s.tileOps cl, (v, n.toNat) ∈ o.holds) ∨ (cl / 10 ≠ c / 10 ∧ s.flightsPending (cl / 10) = true) →
         exec (.hsendLanded k) s = .next s)) ∧
     (s.carriedCopies[k]? = some (cl, i, q) → q.what = .hsend hv w c v n → Map.get? s.tasks v = some t →
       Map.get? s.tasks q.owner = some t' → v ≠ q.owner → (∀ o ∈ s.tileOps cl, (v, n.toNat) ∉ o.holds) →
       (cl / 10 = c / 10 ∨ s.flightsPending (cl / 10) = false) → t.pl.life ≠ .exited → t.pl.saved = false →
       ∃ r, exec (.hsendLanded k) s = .next r ∧ (r.task v).hreg n = hWithSt w 1 ∧ (∀ m, m ≠ n → (r.task v).hreg m = t.hreg m) ∧
         (r.task q.owner).io.tiles = t'.io.tiles - 1 ∧ (r.cluster cl).copyq = (s.cluster cl).copyq.eraseIdx i ∧ r.mem = s.mem ∧
         r.cores = s.cores ∧ ∀ x, x ≠ v → x ≠ q.owner → Map.get? r.tasks x = Map.get? s.tasks x) ∧
     ((s.task u).live = false ∨ (s.task u).pl.run ≠ .wait ∨ (s.task u).pl.saved = true ∨ (s.task u).pl.answer = true → exec (.promiseExpiry u) s = .next s) ∧
     (∀ a slack s' x, (s.task u).live = true → (s.task u).pl.run = .wait → (s.task u).pl.saved = false →
       (s.task u).pl.answer = false → ({ s with cur := u }).fetchDecode = (.ok (.sleepu a slack), s') → s'.me.pl.pend = none →
       s'.me.io.copyRec (s'.x a) = some x →
       (∀ p l, x.st = .busy → x.promise = some p → s'.det = false → p.toNat + slack.toNat ≤ s'.dtime.toNat →
         s'.provisional s'.cur = false → s'.me.sy.trapLevel = l → l ≠ 3 →
         ∃ t, exec (.promiseExpiry u) s = .next t ∧ t.me.rf.pc = (s'.me.sy.bank l).tvec ∧ t.me.sy.tl = BitVec.ofNat 2 l ∧
           (t.me.sy.bank l).cause = 0x00F00018#64 ∧ (t.me.sy.bank l).tval = s'.x a ∧ (t.me.sy.bank l).ret = s'.pc ∧ AllRegs s' t ∧
           t.mem = s'.mem) ∧
       (∀ p, x.st = .busy → x.promise = some p → s'.det = true ∨ s'.dtime.toNat < p.toNat + slack.toNat →
         exec (.promiseExpiry u) s = .next (s'.setMe { s'.me with pl := { s'.me.pl with run := .wait } })) ∧
       (x.st = .done → (∀ y ∈ s'.me.io.crecs, y.id = x.id → y.unreported = false) →
         ∃ t, exec (.promiseExpiry u) s = .next t ∧ RetiresTo (s'.pc + 12#64) s' t ∧ AllRegs s' t ∧ SameVectors s' t ∧
           SameTiles s' t ∧ SystemBut s'.me.sy.fflags s' t ∧ Frame s' t)))

/-- 15 R295, R300, R301, R307, R312: COPY_BEAT of a fill at the head of its cluster's queue, for a task that still runs, in dmode 0
and a calm memory system: it writes what is left of the pattern, or up to 512 bytes of it so that no aligned word of 8 bytes is cut
(R305), byte (pos + k) mod 8 of it at byte pos + k, and no other byte; in the CLM it writes those before the next 128-byte boundary,
and the rest in later turns; the last beat makes the record DONE and takes the command off the queue; a refused destination makes the
record FAULT with cause, address and bytes written, and writes nothing.

15 R295, R300-R307, 05 R111, 16 R321: COPY_BEAT of every kind of command, under the same conditions. A new beat takes what is left, or
up to 512 bytes of it so that no aligned word of 8 destination bytes is cut, byte by byte from its sources to its destinations, which the
last clause names; where none of the sources has been overwritten it moves them, a beat in hand its next access. A refused source, then a
refused destination, then for an unseal one that neither is on-chip nor has the key's page (R304) makes the record FAULT. An unseal takes
its plaintext from the chunk that it holds, or opens the next. Where beats and accesses are cut is log entry 38's reading.

15 R304: the record of a chunk that lies whole outside the CLM is read in one turn, at the source address plus 4,160 times the chunk's
number: 4,096 bytes of ciphertext, 12 of nonce, 4 of index, 16 of tag and 32 that are ignored; nonce and index are authenticated with it.
Where the index is not the first one plus the chunk's number, or the tag does not verify, the command's record is FAULT with CUNSEAL
(0x32) and the record's address.

15 R300, R302: the bytes of a stream. Byte i of a shape is byte i mod len of row (i / len) mod n1 of plane
i / (len * n1), at both ends; byte i of a tile transfer lies at offset i mod the block's bytes in the slot of block i / the block's
bytes, and at address + i in memory. -/
def Obligations.CopyBeats : Prop :=
  (∀ (s s1 : State) (cl : Nat) (q : CopyCmd) (dst pat : Word) (gs : List Seg) (t : Task) (f : XFault),
     s.PlainCopy cl q t → q.what = .fill dst pat q.size → q.todo = [] → (∃ r ∈ t.io.crecs, r.id = q.id) →
     let n := if q.pos + 512 < q.size then 512 - (dst + BitVec.ofNat 64 (q.pos + 512)).toNat % 8 else q.size - q.pos
     let at_ := dst + BitVec.ofNat 64 q.pos
     let put := (segLocs gs).zip ((List.range n).map (fun k => ((leBytes 8 pat.toNat)[(q.pos + k) % 8]?).getD 0#8))
     let cuts (k : Nat) : Bool := match (segLocs gs)[k]? with | some l => decide (0 < k) && isClm l && l % 128 == 0 | none => false
     let m := ((List.range n).find? cuts).getD n
     (s.xlate (s.copyAgent q) { w := true } at_ n = (.ok gs, s1) → (∀ l ∈ segLocs gs, isOpm l = false) → (segLocs gs).Nodup →
       s1.hostBusy (segLocs gs) = false →
       ∃ r, exec (.copyBeat cl) s = .next r ∧ (∀ a, memGet r.mem a = bytesOver s (put.take m) a) ∧
         (∀ u, (r.task u).rf = (s.task u).rf ∧ (r.task u).sy = (s.task u).sy) ∧
         (m < n → ∃ q', (r.cluster cl).copyq = [q'] ∧ q'.pos = q.pos ∧ q'.upto = q.pos + n ∧
           q'.todo = (put.drop m).map (fun c => (Sum.inr c.2, c.1)) ∧ q'.what = q.what ∧ q'.id = q.id) ∧
         (m = n → q.pos + n < q.size → ∃ q', (r.cluster cl).copyq = [q'] ∧ q'.pos = q.pos + n ∧ q'.what = q.what ∧ q'.id = q.id ∧
           (r.task q.owner).io.crecs = t.io.crecs) ∧
         (m = n → q.pos + n = q.size → (r.cluster cl).copyq = [] ∧
           ∀ x ∈ (r.task q.owner).io.crecs, x.id = q.id → x.st = .done ∧ x.written = BitVec.ofNat 64 q.size)) ∧
     (s.xlate (s.copyAgent q) { w := true } at_ n = (.error f, s1) →
       ∃ r, exec (.copyBeat cl) s = .next r ∧ BeatFails s r cl q { detail := f.code, tval := f.va, wlev := f.wlev })) ∧
  (∀ (s : State) (cl : Nat) (q : CopyCmd) (t : Task), s.PlainCopy cl q t →
     (q.todo ≠ [] → MovesApart q q.todo → s.hostBusy (q.todo.flatMap (fun p => match p.1 with | .inl l => [l, p.2] | .inr _ => [p.2])) = false →
       ∃ r, exec (.copyBeat cl) s = .next r ∧ AccessDone s r cl q t q.todo q.upto) ∧
     (q.todo = [] → ∀ (q1 : CopyCmd) (s0 : State),
       ((q1, s0) = (q, s) ∧ (∀ dst tile src slot f k key, q.what = .unseal dst tile src slot f k key → q.pos % 4096 ≠ 0 ∨ q.plain ≠ [])) ∨
       (∃ dst tile src slot f k key, q.what = .unseal dst tile src slot f k key ∧ q.pos % 4096 = 0 ∧ q.plain = [] ∧
         s.openChunk q src f key = (.ok q1, s0) ∧ q1.plain ≠ []) →
       let n := if q.pos + 512 < q.total then q1.beatLen cl q.pos 512 else q.total - q.pos
       let ps := q1.pieces cl 512 q.pos n
       ∀ (ends : Except CopyFault (List Placed)) (s1 : State),
         s0.placeEnds (s0.copyAgent q) { rd := true } (ps.map (fun p => (p.src, p.n))) = (ends, s1) →
         (∀ f, ends = .error f → ∃ r, exec (.copyBeat cl) s = .next r ∧ BeatFails s r cl q f) ∧
         ∀ srcs, ends = .ok srcs → ∀ (ends2 : Except CopyFault (List Placed)) (s2 : State),
           s1.placeEnds (s0.copyAgent q) { w := true } (ps.map (fun p => (p.dst, p.n))) = (ends2, s2) →
           (∀ f, ends2 = .error f → ∃ r, exec (.copyBeat cl) s = .next r ∧ BeatFails s r cl q f) ∧
           ∀ dsts, ends2 = .ok dsts →
             let todo := (takeAhead q.ahead { old := q.old } (wordRuns 513 (pairUp srcs dsts))).flatMap id
             (∀ dst tile src slot f k key g, q.what = .unseal dst tile src slot f k key →
               (dsts.flatMap (·.gs)).find? (fun g => !(g.at_.clm || (!isHost g.at_.loc && g.at_.key.toNat == slot))) = some g →
               ∃ r, exec (.copyBeat cl) s = .next r ∧ BeatFails s r cl q { detail := 0x33#8, tval := g.va }) ∧
             ((∀ dst tile src slot f k key, q.what = .unseal dst tile src slot f k key → sealFault slot dsts = none) →
               s2.copyWaits cl q (srcs ++ dsts) = false → MovesApart q todo →
               ∃ r, exec (.copyBeat cl) s = .next r ∧ AccessDone s r cl q t todo (q.pos + n)))) ∧
  (∀ (s s1 : State) (cl : Nat) (q : CopyCmd) (t : Task) (dst src : Word) (tile : Option (BitVec 4 × Word)) (slot f k : Nat) (key : BitVec 256)
     (gs : List Seg),
     s.PlainCopy cl q t → q.what = .unseal dst tile src slot f k key → q.todo = [] → q.pos % 4096 = 0 → q.plain = [] → q.sealed = [] →
     let j := q.pos / 4096
     let at_ := src + BitVec.ofNat 64 (4160 * j)
     s.xlate (s.copyAgent q) { rd := true } at_ 4160 = (.ok gs, s1) → (∀ l ∈ segLocs gs, isClm l = false) →
     s1.hostBusy (segLocs gs) = false →
     let bs := (segLocs gs).map (memGet s.mem)
     let part (i n : Nat) : List Byte := (bs.drop i).take n
     let opened := gcmOpen (leBytes 32 key.toNat) (part 4096 12) (part 4096 16) (part 0 4096) (part 4112 16)
     (∀ pt, leNat (part 4108 4) = (f + j) % 2 ^ 32 → opened = some pt →
       ∃ s2, s.openChunk q src f key = (.ok { q with plain := pt }, s2) ∧ s2.mem = s.mem ∧ ∀ u, TaskKept s s2 u) ∧
     (leNat (part 4108 4) ≠ (f + j) % 2 ^ 32 ∨ opened = none →
       ∃ r, exec (.copyBeat cl) s = .next r ∧ BeatFails s r cl q { detail := 0x32#8, tval := at_ })) ∧
  (∀ (q : CopyCmd) (cl i m : Nat) (src dst srow drow splane dplane addr hv : Word) (len n1 n2 : Nat) (h : BitVec 4), 0 < m →
     (q.what = .shape src dst len n1 n2 srow drow splane dplane → 0 < len → 0 < n1 →
       let p := q.piece cl i m
       let at_ (base row plane : Word) : Word :=
         base + BitVec.ofNat 64 (i / (len * n1)) * plane + BitVec.ofNat 64 (i / len % n1) * row + BitVec.ofNat 64 (i % len)
       p.src = .va (at_ src srow splane) ∧ p.dst = .va (at_ dst drow dplane) ∧ 0 < p.n ∧ p.n ≤ m ∧ i % len + p.n ≤ len) ∧
     (q.what = .tileLd h hv addr →
       let bb := blockBytes (hTag hv)
       let p := q.piece cl i m
       p.src = .va (addr + BitVec.ofNat 64 i) ∧ p.n ≤ m ∧ i % bb + p.n ≤ bb ∧
       (i / bb < (hSlots hv).length → p.dst = .at_ (opmBase cl ((hSlots hv)[i / bb]?.getD 0) + i % bb))) ∧
     (q.what = .tileSt h hv addr →
       (q.piece cl i m).dst = .va (addr + BitVec.ofNat 64 i) ∧ (q.piece cl i m).src = .at_ (tileLoc cl hv i)))

/-- 11 R255-R257, R231, R232, R238, R253: a spawn whose target has queue space, or a start from context 0 without an EMPTY helper,
creates a task under the child's lid, with its entry, key, budget and arguments, in the core's queue; a start with an EMPTY helper
and a stack slot creates it running there, with its arguments on its stack; a spawn without space bounces in dmode 0, goes to the swap
area in dmodes 1 and 2, or bounces and waives there; while a spawn waits for its answer a pending kill is taken (08 R170); rfork arms its cell and creates its recruits. The model's own: a recruit's
budget is its parent's (log entry 86), and which stack slot a start takes and what is placed there (log entry 55).

11 R254-R257: the checks of spawn before it creates anything, for a task that is not above the horizon: a misaligned entry takes
IALIGN, an ordered spawn of a launch without ordered tasks ORDOFF, an unordered one by an ordered task KEYORD, and a core that is not
the launch's TPLACE; rfork with trip count 0 writes 0 and creates nothing. -/
def Obligations.TaskCreation : Prop :=
  (∀ (s s1 : State) (d a : BitVec 5) (b : BitVec 4) (c e : BitVec 5) (entry : Src) (n : BitVec 3) (ord : Bool) (g : Nat)
     (kind : BitVec 4) (scope : BitVec 3) (i : Instr),
     let t := s.me
     let l := s.launchOf s.cur
     let ent : Word := match entry with | .imm v => v.setWidth 64 | .lit v => v
     let key := if c = 24#5 then t.sy.key else s.x c
     let args := (List.range n.toNat).map (fun k => s.x (BitVec.ofNat 5 (b.toNat + k)))
     let bud : BitVec 63 := if e = 24#5 then 0#63 else (s.x e).extractLsb' 0 63
     let cw (k : Nat) := draw (l.seed ^^^ 0x7C1D000000000001#64)
       ((t.tid.lid <<< 32) ||| (t.sy.cre + BitVec.ofNat 32 k).setWidth 64)
     let lid (k : Nat) := ((t.tid.lid >>> 32) <<< 32) ||| (cw k &&& 0xFFFFFFFF#64)
     let tid : TaskId := { lid := lid 0, cw := cw 0, launch := t.tid.launch, vf := t.tid.vf, kind := kind, ord := ord, entry := ent,
                           creator := s.cur, creatorLid := some t.tid.lid, args := args, bud := bud, born := t.pl.core }
     let passed := !ord && decide (key.toNat ≤ s.dtime.toNat)
     let child (area swap : Bool) (left : Nat) : Task :=
       { tid := tid, pl := { core := g, qarea := area, swapped := swap, left := left, passed := passed }, rf := { pc := ent },
         sy := { key := key, budInit := bud, budLeft := bud, budOn := decide (bud ≠ 0#63) } }
     let counted (r : State) (ts : Map Task) : State := { r with tasks := Map.set ts s.cur { r.me with
       sy := { r.me.sy with cre := r.me.sy.cre + 1#32 } } }
     let born (r : State) (ch : Task) : State :=
       { counted r (Map.set r.tasks s.nextUid ch) with nextUid := s.nextUid + 1 }
     let r := s.released true scope
     let cl := clusterOf t.pl.core
     let cell := (s.x e).toNat
     let trip := (s.x a).toNat % 2 ^ 48
     let grain := max 1 ((s.x a).toNat / 2 ^ 48)
     let pool := if s.det then s.forkCores else s.forkCores.filter (fun g => g == t.pl.core || s.idleCore g)
     let k := min (min ((trip + grain - 1) / grain) 80) pool.length
     let spawns := i = .spawn d a b c e entry n ord ∧ kind = 2#4 ∧ scope = scopeOf packageOf t.pl.core g ∧
       ((s.x a = BitVec.allOnes 64 ∧ g = anyCore l (lid 0)) ∨
         (s.x a ≠ BitVec.allOnes 64 ∧ s.placeOk (s.x a) = true ∧ g = (s.x a).toNat))
     let starts := i = .start d b c e entry n ∧ kind = 3#4 ∧ scope = 0#3 ∧ ord = false ∧ g = t.pl.core ∧ t.pl.ctx = 0
     s.cur < s.nextUid → ent.extractLsb' 0 2 = 0#2 → (ord = true → s.lmode.getLsbD 4 = true) →
     (t.tid.ord = true → ord = true ∧ t.sy.key.toNat ≤ key.toNat) →
     (s.releaseWaits scope = false →
       (∀ k, spawns → t.pl.pend = some k → exec i s = .next (s.kill s.cur k)) ∧
       ((spawns ∧ t.pl.pend = none) ∨ (starts ∧ (s.emptyHelpers g = [] ∨ s.mayDispatch g t.tid.launch = false)) → r.queuedOnChip g < 31 →
         ResultFrom i s (born r (child false false 0)) d (lid 0) entry.size ∧ r.me.rf = s.me.rf ∧ r.me.sy = s.me.sy ∧
         SameBytes s r) ∧
       (spawns → t.pl.pend = none → r.queueSpace g t.tid.launch false = (some true, s1) →
         ResultFrom i s (born s1 (child true false 0)) d (lid 0) entry.size ∧ s1.me.rf = s.me.rf ∧ s1.me.sy = s.me.sy ∧
         (2 ≤ r.unitsFree (clusterOf g) t.tid.launch false → s1 = r)) ∧
       (spawns → t.pl.pend = none → r.queueSpace g t.tid.launch false = (none, s1) →
         (s.det = false → ResultFrom i s (counted s1 s1.tasks) d (0x8000000000000000#64 ||| lid 0) entry.size) ∧
         (s.det = true → s1.swapRoom t.tid.launch 128 = true →
           let o := s1.swapOut t.tid.launch (clusterOf g) 128
           ResultFrom i s (born o.2 (child false true o.1)) d (lid 0) entry.size) ∧
         (s.det = true → s1.swapRoom t.tid.launch 128 = false →
           let waived := { s1.launch t.tid.launch with waived := true }
           let u := counted s1 s1.tasks
           ResultFrom i s { u with launches := Map.set s1.launches t.tid.launch waived } d
             (0x8000000000000000#64 ||| lid 0) entry.size))) ∧
     (∀ h hs, starts → s.releaseWaits 0#3 = false → s.emptyHelpers g = h :: hs → s.mayDispatch g t.tid.launch = true →
       s.lmode.getLsbD 4 = false → l.stackUse = [] → 0 < l.scount →
       ∃ u ch, exec i s = .next u ∧ Map.get? u.tasks s.nextUid = some ch ∧ ch.tid = tid ∧ ch.pl.life = .resident ∧
         ch.pl.core = g ∧ ch.pl.ctx = h ∧ ch.pl.stack = some 0 ∧ ch.rf.pc = ent ∧ ch.sy.key = key ∧
         ch.sy.stkbase = l.spool + 0x2000#64 ∧ ch.sy.stklim = l.spool + BitVec.ofNat 64 l.ssize ∧ ch.rf.wbase = ch.sy.stkbase ∧
         ch.sy.budInit = bud ∧ ch.io = {} ∧
         ch.rf.slots = (List.range 16).map (fun j => (ch.sy.stkbase.toNat / 8 + j, (args[j]?).getD 0#64)) ∧
         u.me.x d = (if d.toNat < 24 then lid 0 else 0#64) ∧ OtherRegs d s u ∧ SameVectors s u ∧ SameTiles s u ∧
         u.me.sy.cre = t.sy.cre + 1#32 ∧ u.me.rf.pc = s.pc + BitVec.ofNat 64 entry.size) ∧
     (t.tid.ord = false → cell ≤ 63 → (Map.get {} (s.cluster cl).cells cell).st ≠ .armed → (s.x c).extractLsb' 0 2 = 0#2 →
       trip ≠ 0 → s.releaseWaits 2#3 = false →
       ∃ u q, exec (.rfork d a b c e entry n) s = .next u ∧ u.me.x d = (if d.toNat < 24 then BitVec.ofNat 64 k else 0#64) ∧
         OtherRegs d s u ∧ SameVectors s u ∧ SameTiles s u ∧ u.me.sy.cre = t.sy.cre + BitVec.ofNat 32 (k + 1) ∧
         u.me.rf.pc = s.pc + BitVec.ofNat 64 entry.size ∧ u.me.pl.retired = t.pl.retired + 1 ∧
         Map.get? (u.cluster cl).cells cell = some q ∧ q.st = .armed ∧ q.fork = true ∧ q.n = k ∧ q.q = k ∧ q.cont = s.x c ∧
         q.trip = BitVec.ofNat 64 trip ∧ q.arrived = [] ∧
         (∀ j, j < k → ∃ ch, Map.get? u.tasks (s.nextUid + j) = some ch ∧ ch.tid.kind = 4#4 ∧ ch.tid.lid = lid j ∧
           ch.tid.entry = ent ∧ ch.tid.args = BitVec.ofNat 64 (j * trip / k) :: BitVec.ofNat 64 ((j + 1) * trip / k) :: args ∧
           ch.tid.cell = some (cl, cell, j) ∧ pool[j]? = some ch.pl.core ∧ (ch.pl.life = .queued ∨ ch.pl.life = .unqueued) ∧
           ch.rf.pc = ent ∧ ch.sy.key = t.sy.key ∧ ch.sy.budInit = t.sy.budInit) ∧
         ((∀ h ∈ pool, (s.released true 2#3).queuedOnChip h + k ≤ 31) → SameBytes s u ∧
           ∀ j, j < k → (u.task (s.nextUid + j)).pl.life = .queued))) ∧
  (∀ (s : State) (d a : BitVec 5) (b : BitVec 4) (c e : BitVec 5) (entry : Src) (n : BitVec 3) (ord : Bool),
     s.provisional s.cur = false → s.me.sy.trapLevel ≠ 3 →
     let ent : Word := match entry with | .imm v => v.setWidth 64 | .lit v => v
     let l := s.me.sy.trapLevel
     let i := Instr.spawn d a b c e entry n ord
     (ent.extractLsb' 0 2 ≠ 0#2 → Traps i s l 0x00F00002#64 s.pc ent 0#64) ∧
     (ent.extractLsb' 0 2 = 0#2 →
       (ord = true → s.lmode.getLsbD 4 = false → Traps i s l 0x00F00014#64 s.pc 0#64 0#64) ∧
       (s.me.tid.ord = true → ord = false → Traps i s l 0x00F00022#64 s.pc 0#64 0#64) ∧
       (s.me.tid.ord = false → ord = false → s.x a ≠ BitVec.allOnes 64 → s.placeOk (s.x a) = false →
         Traps i s l 0x00F00021#64 s.pc (s.x a) 0#64) ∧
       (s.me.tid.ord = false → (s.x e).toNat ≤ 63 →
         (Map.get {} (s.cluster (clusterOf s.me.pl.core)).cells (s.x e).toNat).st ≠ .armed → (s.x c).extractLsb' 0 2 = 0#2 →
         (s.x a).toNat % 2 ^ 48 = 0 → Writes (.rfork d a b c e entry n) s d 0#64 0#5 entry.size)))

/-- 11 R235, R237, R259, R263, 01 R30: getlid writes the lid; horz the horizon key that its core last received, never above
the true one (all ones without ordered tasks), and takes TIME in dmodes 1 and 2 without status.timeok; keyset sets the key of an unordered task and takes KEYORD in
an ordered one; budset sets budget and refill value, and counts itself (the model's reading, log entry 34).

11 R230, R237, R238, R249, R258, 22 R402: yield refills the budget, and counts in the budget it has refilled (the model's
reading, log entry 34); behind a queued task of its launch and core at or below its
key, and in the grace of a pre-emption, it leaves the context with its state saved and is queued, or waits where no queue entry is
free; else it goes on. exit waits for loads (those too that have returned bytes of the agenda, log entry 122), stores, updates, copies and tiles, and in a control task for its core's helpers and the
other tasks of its launch there; then an unordered task is nowhere any more, with its stack slot and pins free, an ordered one waits
EXITED for its commit, and with its control task a core leaves the core-launch. Both are kill points. -/
def Obligations.TaskFieldsYieldExit : Prop :=
  (∀ (s : State) (d a : BitVec 5),
     let t := s.me
     let v := (s.x a).extractLsb' 0 63
     let got := (s.coreSt t.pl.core).horizon
     let hz := match (if s.lmode.getLsbD 4 then s.horizon t.tid.vf else none) with
       | some h => if got.toNat < h.key.toNat then got else h.key
       | none => BitVec.allOnes 64
     Writes (.getlid d) s d ((t.tid.lid.extractLsb' 0 48).setWidth 64) 0#5 4 ∧
     (s.det = false ∨ t.sy.timeok = true → Writes (.horz d) s d hz 0#5 4) ∧
     (s.det = true → t.sy.timeok = false → s.provisional s.cur = false → t.sy.trapLevel ≠ 3 →
       Traps (.horz d) s t.sy.trapLevel 0x00F00012#64 s.pc 0#64 0#64) ∧
     (t.tid.ord = false → RetiresFrom (.keyset a) s { s with tasks := Map.set s.tasks s.cur { t with
       sy := { t.sy with key := s.x a }, pl := { t.pl with passed := decide ((s.x a).toNat ≤ s.dtime.toNat) } } } (s.pc + 12#64)) ∧
     (t.tid.ord = true → s.provisional s.cur = false → t.sy.trapLevel ≠ 3 →
       Traps (.keyset a) s t.sy.trapLevel 0x00F00022#64 s.pc 0#64 0#64) ∧
     RetiresFrom (.budset a) s { s with tasks := Map.set s.tasks s.cur { t with
       sy := { t.sy with budInit := v, budLeft := v, budOn := decide (v ≠ 0#63) } } } (s.pc + 12#64)) ∧
  (∀ s : State,
     let t := s.me
     let o := t.io
     let behind := (∃ p ∈ s.tasks, p.2.pl.life = .queued ∧ p.2.pl.core = t.pl.core ∧ p.2.tid.launch = t.tid.launch ∧
       p.2.sy.key.toNat ≤ t.sy.key.toNat) ∨ (s.launchOf s.cur).preempt = 2
     let owing := ∃ w ∈ s.ms.owed, w.owner = s.cur
     let pending := o.lq ≠ [] ∨ owing ∨ o.sq ≠ [] ∨ o.upds ≠ [] ∨ o.tiles ≠ 0 ∨ ∃ r ∈ o.crecs, r.st = .busy
     let control := t.pl.ctx = 0 ∧ t.tid.handler = false ∧ (s.launchOf s.cur).core = true
     let helped := control ∧ ∃ p ∈ s.tasks, p.2.pl.core = t.pl.core ∧
       ((p.2.pl.life = .resident ∧ p.2.pl.run ≠ .out ∧ p.2.pl.ctx ≠ 0) ∨
         (p.1 ≠ s.cur ∧ p.2.pl.life ≠ .exited ∧ p.2.tid.launch = t.tid.launch))
     let filled : State := { s with tasks := Map.set s.tasks s.cur { t with
       sy := { t.sy with budLeft := t.sy.budInit, budOn := t.sy.budOn || decide (t.sy.budInit ≠ 0#63) } } }
     let left (u : State) : Prop := exec .yield s = .next u ∧ u.cur = s.cur ∧ u.me.tid = t.tid ∧ u.me.pl.life = .queued ∧
       u.me.pl.saved = true ∧ u.me.rf.pc = s.pc + 4#64 ∧ u.me.pl.retired = t.pl.retired + 1 ∧ u.me.sy.budInit = t.sy.budInit ∧
       AllRegs s u ∧ SameVectors s u ∧ SameTiles s u ∧ SameWindow s u
     let lifted := s.unpin s.cur
     KilledAt .yield s ∧ KilledAt .exit s ∧
     (o.lq ≠ [] ∨ owing → Waits .yield s) ∧ (behind → (o.sq ≠ [] ∨ o.upds ≠ []) → Waits .yield s) ∧
     (¬ behind → o.lq = [] → ¬ owing → t.pl.pend = none → RetiresFrom .yield s (filled.unpin s.cur) (s.pc + 4#64)) ∧
     (behind → o.lq = [] → ¬ owing → o.sq = [] → o.upds = [] → t.pl.pend = none →
       ((∃ u, left u) ∨ Waits .yield s) ∧ (s.queuedOnChip t.pl.core < 31 → ∃ u, left u)) ∧
     (pending → Waits .exit s) ∧
     (¬ pending → t.pl.pend = none → o.sfq = [] → (∀ r ∈ o.crecs, r.unreported = false) →
       (helped → Waits .exit s) ∧
       (¬ helped → (∀ c ∈ s.clusters, ∀ g ∈ c.2.groups, ∀ m ∈ g.2.members, m.uid ≠ s.cur) → t.rf.h = [] → t.tid.cell = none →
         t.tid.bind = none → t.tid.handler = false → (s.vf t.tid.vf).trace.en = false →
         ∃ u, exec .exit s = .next u ∧ SameBytes s u ∧ (∀ p ∈ u.ms.pins, p.owner ≠ s.cur) ∧
           u = { lifted with tasks := u.tasks, launches := u.launches } ∧
           (∀ v, v ≠ s.cur → Map.get? u.tasks v = Map.get? lifted.tasks v) ∧
           (u.launch t.tid.launch).gone =
             (s.launch t.tid.launch).gone ++ (if control then [t.pl.core] else []) ∧
           (u.launch t.tid.launch = { s.launch t.tid.launch with gone := (u.launch t.tid.launch).gone,
                                                                 stackUse := (u.launch t.tid.launch).stackUse }) ∧
           (∀ m, m ≠ t.tid.launch → u.launch m = s.launch m) ∧
           (t.tid.ord = false → Map.get? u.tasks s.cur = none ∧
             ∀ k, t.pl.stack = some k → k ∉ (u.launch t.tid.launch).stackUse) ∧
           (t.tid.ord = true → u.me.pl.life = .exited ∧ u.me.tid = t.tid ∧ u.me.io = { o with inbound := [], perf := u.me.io.perf } ∧
             (u.launch t.tid.launch).stackUse = (s.launch t.tid.launch).stackUse))))

/-- 11 R260, R245, 01 R30, R254: psend and csend of a task that is not above the horizon put their message on its way, with value,
tag, sender and order pair; above the horizon one goes provisionally to an ordered binding, and one to any other target is held; a core that is not the launch's
takes TPLACE, and in dmodes 1 and 2 a second sender's lid takes SENDER.

11 R239, R241, R261, R262: bind binds a post register or channel of its core to an entry with key and budget, unbinds it where
the entry is 0, and takes BOUND where it is bound (it creates no activation: the model's reading, log entry 33); pwait takes a present value and frees the register for the next message that
waits, a kill lid first; it waits itself where none is present, and takes the value that its wait has been given where the register is
bound: which of a core's waits that is is the model's choice (log entry 125).

11 R239-R241: a post message that is first from its sender to its target, with none for its register held before it, reaches its
core and sets the register, or creates the
activation of the register's binding, which the queue takes where it has room on chip, or, where a task of the core waits in a pwait of
the register, is given to that wait; one that was held in the input buffer is delivered once nothing holds it; a channel entry enters the input buffer and from there, lowest channel first, its channel. -/
def Obligations.Messages : Prop :=
  (∀ (s : State) (rel : Bool) (scope : BitVec 3) (p a b : BitVec 5) (q : BitVec 2) (tag : Tag) (v : BitVec 1024) (o : Word),
     let t := s.me
     let g := (s.x a).toNat
     let r := s.released rel scope
     let post : Msg := { idx := p.toNat, dst := g, val := (s.x b).setWidth 1024, sender := s.cur, lid := t.tid.lid,
                         src := t.pl.core, launch := t.tid.launch,
                         pair := if t.tid.ord then some { key := t.sy.key, lid := t.tid.lid, cw := t.tid.cw, born := t.tid.born } else none,
                         sent := s.dtime,
                         rel := if rel then some scope else none }
     let entry : Msg := { post with chan := true, idx := q.toNat, val := v, tag := tag }
     (s.placeOk (s.x a) = true → (rel = true → s.releaseWaits scope = false) → s.det = false →
       (s.provisional s.cur = false → Map.get? (s.coreSt g).posts p.toNat = none →
         RetiresFrom (.psend rel scope p a b) s { r with msgs := s.msgs ++ [post] } (s.pc + 12#64)) ∧
       (s.provisional s.cur = true → (∃ w, Map.get? (s.coreSt g).binds p.toNat = some w ∧ w.ord = true) →
         Map.get? (s.coreSt g).posts p.toNat = none →
         RetiresFrom (.psend rel scope p a b) s { r with msgs := s.msgs ++ [{ post with prov := true }] } (s.pc + 12#64)) ∧
       (s.provisional s.cur = true → (∀ w, Map.get? (s.coreSt g).binds p.toNat = some w → w.ord = false) →
         RetiresFrom (.psend rel scope p a b) s { r with tasks := Map.set r.tasks r.cur { r.me with
           io := { r.me.io with held := r.me.io.held ++ [post] } } } (s.pc + 12#64)) ∧
       (s.provisional s.cur = false → s.vsrc b = some (v, tag) → (Map.get [] (s.coreSt g).chans q.toNat).length < 16 →
         RetiresFrom (.csend tag rel scope a b q) s (State.popNamed { r with msgs := s.msgs ++ [entry] } [b]) (s.pc + 12#64))) ∧
     (s.provisional s.cur = false → t.sy.trapLevel ≠ 3 →
       (s.placeOk (s.x a) = false → Traps (.psend rel scope p a b) s t.sy.trapLevel 0x00F00021#64 s.pc (s.x a) 0#64 ∧
         Traps (.csend tag rel scope a b q) s t.sy.trapLevel 0x00F00021#64 s.pc (s.x a) 0#64) ∧
       (s.placeOk (s.x a) = true → s.det = true → o ≠ t.tid.lid →
         Map.get? (s.coreSt g).senders (p.toNat + 64 * t.tid.launch) = some ((s.launchOf s.cur).phase, o) →
         Traps (.psend false scope p a b) s t.sy.trapLevel 0x00F00013#64 s.pc o 0#64))) ∧
  (∀ (s : State) (c e d p : BitVec 5) (entry : Src) (tgt : BindTarget) (ord : Bool) (m : Msg),
     let t := s.me
     let g := t.pl.core
     let k := s.coreSt g
     let ent : Word := match entry with | .imm v => v.setWidth 64 | .lit v => v
     let idx := match tgt with | .post r => r.toNat | .chan r => 32 + r.toNat
     let num : Nat := match tgt with | .post r => r.toNat | .chan r => r.toNat
     let b : Binding := { entry := ent, key := if ord then none else some (if c = 24#5 then t.sy.key else s.x c), ord := ord,
                          bud := if e = 24#5 then none else some (s.x e), launch := t.tid.launch, vf := t.tid.vf, binder := s.cur,
                          binderLid := t.tid.lid }
     (ent.extractLsb' 0 2 = 0#2 → (ord = true → s.lmode.getLsbD 4 = true) → (t.tid.ord = true → ord = true) →
       (ent = 0#64 → RetiresFrom (.bind c e entry tgt ord) s { s with cores := Map.set s.cores g { k with
         binds := Map.del k.binds idx } } (s.pc + BitVec.ofNat 64 entry.size)) ∧
       (ent ≠ 0#64 → Map.get? k.binds idx = none → RetiresFrom (.bind c e entry tgt ord) s { s with
         cores := Map.set s.cores g { k with binds := Map.set k.binds idx b } } (s.pc + BitVec.ofNat 64 entry.size)) ∧
       (ent ≠ 0#64 → (Map.get? k.binds idx).isSome = true → s.provisional s.cur = false → t.sy.trapLevel ≠ 3 →
         Traps (.bind c e entry tgt ord) s t.sy.trapLevel 0x00F00023#64 s.pc (BitVec.ofNat 64 num) 0#64)) ∧
     let given := ∃ w, t.pl.got = some w ∧ w.idx = p.toNat
     let first (w : Msg) : Prop :=
       let lids := (k.pendPosts ++ k.inbuf).filter (fun x => x.chan = false ∧ x.idx = p.toNat ∧ x.kill = true)
       lids.head? = some w ∨ (lids = [] ∧ k.pendPosts.find? (fun x => x.idx == p.toNat) = some w)
     KilledAt (.pwait d p) s ∧
     (¬ given → Map.get? k.posts p.toNat = none → t.pl.pend = none → exec (.pwait d p) s = .next { s with
       tasks := Map.set s.tasks s.cur { t with pl := { t.pl with waitPost := some p.toNat, run := .wait } } }) ∧
     (t.pl.got = some m → m.idx = p.toNat → t.pl.pend = none →
       ∃ u, exec (.pwait d p) s = .next u ∧ u.me.x d = (if d.toNat < 24 then m.val.setWidth 64 else 0#64) ∧ OtherRegs d s u ∧
         SameVectors s u ∧ SameTiles s u ∧ SystemBut t.sy.fflags s u ∧ u.me.rf.pc = s.pc + 4#64 ∧
         u.me.pl = { t.pl with retired := t.pl.retired + 1, run := .ready, got := none } ∧ SameQueues s u ∧ OtherTasks s u ∧
         u = { s with tasks := u.tasks, cores := u.cores } ∧ ∀ h, u.coreSt h = { s.coreSt h with delay := (u.coreSt h).delay }) ∧
     (¬ given → Map.get? k.posts p.toNat = some m → t.pl.pend = none → Map.get? k.binds p.toNat = none →
       ∃ u, exec (.pwait d p) s = .next u ∧ u.me.x d = (if d.toNat < 24 then m.val.setWidth 64 else 0#64) ∧ OtherRegs d s u ∧
         SameVectors s u ∧ SameTiles s u ∧ SystemBut t.sy.fflags s u ∧ RetiresTo (s.pc + 4#64) s u ∧ SameQueues s u ∧
         OtherTasks s u ∧ u = { s with tasks := u.tasks, cores := u.cores } ∧
         (∀ h, h ≠ g → u.coreSt h = s.coreSt h) ∧ (u.coreSt g).chans = k.chans ∧ (u.coreSt g).binds = k.binds ∧
         (∀ r, r ≠ p.toNat → Map.get? (u.coreSt g).posts r = Map.get? k.posts r) ∧
         ((∀ w, ¬ first w) → Map.get? (u.coreSt g).posts p.toNat = none) ∧
         (∀ w, first w → s.halted g w.launch = false →
           Map.get? (u.coreSt g).posts p.toNat = some { w with stored := 0 } ∧ (u.coreSt g).pendPosts = k.pendPosts.erase w ∧
           (u.coreSt g).inbuf = k.inbuf.erase w))) ∧
  (∀ (s : State) (k g : Nat) (m : Msg) (rest : List Msg) (b : Binding),
     let c := s.coreSt m.dst
     let m' := { m with arrived := s.dtime, ser := s.ms.vseq }
     let ms' := { s.ms with vseq := s.ms.vseq + 1 }
     let gone := s.msgs.eraseIdx k
     let cw := draw ((s.launch b.launch).seed ^^^ 0x7C1D000000000001#64) ((b.binderLid <<< 32) ||| b.count.setWidth 64)
     (s.msgs[k]? = some m → (∀ e ∈ s.msgs.take k, e.sender = m.sender → e.lid = m.lid → e.dst = m.dst → e.target ≠ m.target) →
       (m.chan = true → exec (.postMessageArrival k) s =
         .next { s with msgs := gone, ms := ms', cores := Map.set s.cores m.dst { c with inbuf := c.inbuf ++ [m'] } }) ∧
       (m.chan = false → (∀ x ∈ c.inbuf, x.chan = false → x.idx ≠ m.idx) → Map.get? c.posts m.idx = none →
         s.halted m.dst m.launch = false →
         (Map.get? c.binds m.idx = none → exec (.postMessageArrival k) s =
           .next { s with msgs := gone, ms := ms', cores := Map.set s.cores m.dst { c with
             posts := Map.set c.posts m.idx { m' with stored := 0 } } }) ∧
         (Map.get? c.binds m.idx = some b → m.idx < 32 → (b.ord = true → m.pair.isSome = true) →
           s.halted m.dst b.launch = false → (∀ u, s.postWaiter m.dst m.idx = some u → exec (.postMessageArrival k) s =
             .next { s with msgs := gone, ms := ms', tasks := Map.set s.tasks u { s.task u with
               pl := { (s.task u).pl with got := some { m' with stored := 0 } } } }) ∧
           (s.postWaiter m.dst m.idx = none → ∃ u ch, exec (.postMessageArrival k) s = .next u ∧ u.msgs = gone ∧ Map.get? u.tasks s.nextUid = some ch ∧
             (s.queuedOnChip m.dst < 31 → ch.pl.life = .queued ∧ u.mem = s.mem) ∧ ch.tid.entry = b.entry ∧ ch.tid.kind = 6#4 ∧ ch.tid.ord = b.ord ∧ ch.tid.args = [m.val.setWidth 64] ∧
             ch.tid.lid = ((b.binderLid >>> 32) <<< 32) ||| (cw &&& 0xFFFFFFFF#64) ∧ ch.tid.launch = b.launch ∧
             ch.pl.core = m.dst ∧ (ch.pl.life = .queued ∨ ch.pl.life = .unqueued) ∧
             ch.sy.budInit = (match b.bud with | some x => x.extractLsb' 0 63 | none => 0#63) ∧
             ch.sy.key = (if b.ord then (m.pair.map (·.key)).getD 0#64 else b.key.getD 0#64) ∧
             Map.get? (u.coreSt m.dst).binds m.idx = some { b with count := b.count + 1#32 } ∧
             Map.get? (u.coreSt m.dst).posts m.idx = none)))) ∧
     ((s.coreSt g).inbuf = [m] → m.chan = false → s.halted g m.launch = false → Map.get? (s.coreSt g).posts m.idx = none →
       Map.get? (s.coreSt g).binds m.idx = none →
       exec (.channelEntryArrival g) s = .next { s with cores := Map.set s.cores g { s.coreSt g with
         inbuf := [], posts := Map.set (s.coreSt g).posts m.idx { m with stored := 0 } } }) ∧
     ((s.coreSt g).inbuf = m :: rest → m.chan = true → m.dst = g → m.idx < 4 → s.halted g m.launch = false →
       (∀ e ∈ rest, e.chan = true → m.idx ≤ e.idx) → Map.get? (s.coreSt g).binds (32 + m.idx) = none →
       (Map.get [] (s.coreSt g).chans m.idx).length < 16 →
       exec (.channelEntryArrival g) s = .next { s with cores := Map.set s.cores g { s.coreSt g with
         inbuf := rest,
         chans := Map.set (s.coreSt g).chans m.idx (Map.get [] (s.coreSt g).chans m.idx ++ [{ m with stored := 0 }]) } }))

/-- 11 R230, R231, R233, R234, R237, R246, 22 R397: a core gives a context back to a task that is OUT, and else dispatches its queued
task into an EMPTY helper with its stack; a spent budget takes BUDGET; a deadline passes once; a core receives the key of the true
horizon, which no live ordered task is below; with no free helper the last one makes way for the horizon holder. -/
def Obligations.TaskEngineSteps : Prop :=
  ∀ (s : State) (g u h k v : Nat) (hs : List Nat) (t : Task),
    let l := s.launch t.tid.launch
    let base := l.spool + BitVec.ofNat 64 (k * l.ssize) + 0x2000#64
    let lev := t.sy.trapLevel
    let helper (p : Nat × Task) : Prop := p.2.pl.life = .resident ∧ p.2.pl.run ≠ .out ∧ p.2.pl.core = g ∧ p.2.pl.ctx ≠ 0 ∧
      p.2.pl.stopped = false ∧ p.2.tid.handler = false
    let alone := ∀ p ∈ s.tasks, p.2.pl.core = g → p = (u, t) ∨
      ((p.2.pl.life = .exited ∨ (p.2.pl.life = .resident ∧ p.2.pl.run ≠ .out)) ∧ p.2.pl.core = g)
    Map.get? s.tasks u = some t →
    (t.pl.core = g → t.tid.handler = false → t.tid.kind ≠ 1#4 → t.pl.pend = none → alone →
      s.mayDispatch g t.tid.launch = true →
      (t.pl.life = .resident → t.pl.run = .out → s.taskAt g t.pl.ctx = none →
        ∃ r, exec (.taskDispatch g) s = .next r ∧ (r.task u).tid = t.tid ∧ (r.task u).pl.ctx = t.pl.ctx ∧
          (r.task u).pl.run = .ready ∧ (r.task u).pl.life = .resident ∧ (r.task u).rf = t.rf ∧ (r.task u).sy = t.sy ∧
          r.mem = s.mem) ∧
      (t.pl.life = .queued → t.pl.want = none → t.pl.saved = false → s.emptyHelpers g = h :: hs →
        (t.pl.stack = some k ∨ (t.pl.stack = none ∧ s.stackSlot u = some k)) →
        ∃ r, exec (.taskDispatch g) s = .next r ∧ (r.task u).tid = t.tid ∧ (r.task u).pl.life = .resident ∧
          (r.task u).pl.ctx = h ∧ (r.task u).pl.run = .ready ∧ (r.task u).pl.stack = some k ∧ (r.task u).rf.pc = t.tid.entry ∧
          (r.task u).sy.stkbase = base ∧ (r.task u).rf.wbase = base ∧ (r.task u).sy.key = t.sy.key ∧
          (r.task u).rf.slots = (List.range 16).map (fun j => (base.toNat / 8 + j, (t.tid.args[j]?).getD 0#64)))) ∧
    (t.live = true → t.pl.run = .ready → t.sy.budOn = true → t.sy.budLeft = 0#63 → t.tid.handler = false →
      s.provisional u = false → lev ≠ 3 →
      ∃ r, exec (.budgetExhausted u) s = .next r ∧ (r.task u).rf.pc = (t.sy.bank lev).tvec ∧ (r.task u).sy.tl = BitVec.ofNat 2 lev ∧
        (r.task u).sy.bank lev = { t.sy.bank lev with cause := 0x00F0000E#64, ret := t.rf.pc, tval := 0#64, xval := 0#64 } ∧
        (r.task u).sy.budOn = false ∧ (∀ x, (r.task u).x x = t.x x) ∧ (∀ x, x ≠ u → Map.get? r.tasks x = Map.get? s.tasks x) ∧
        r = { s with cur := u, tasks := r.tasks }) ∧
    (t.tid.ord = false → t.pl.passed = false → t.sy.key.toNat ≤ s.dtime.toNat → (s.vf t.tid.vf).trace.en = false →
      exec (.deadlinePass u) s = .next { s with tasks := Map.set s.tasks u { t with pl := { t.pl with passed := true } } }) ∧
    (s.ownerOf (clusterOf g) = some v →
      exec (.horizonUpdate g) s = .next { s with cores := Map.set s.cores g { s.coreSt g with
        horizon := match s.horizon v with | some p => p.key | none => BitVec.allOnes 64 } } ∧
      ∀ p, s.horizon v = some p → ∀ q ∈ s.tasks, q.2.tid.ord = true → q.2.tid.vf = v → p.le q.2.pair = true) ∧
    ((∃ q ∈ s.tasks, q.2.pl.life = .queued ∧ q.2.pl.core = g ∧ s.mayDispatch g q.2.tid.launch = true ∧ s.isHolder q.1 = true) →
      s.emptyHelpers g = [] → helper (u, t) → (∀ p ∈ s.tasks, helper p → p = (u, t) ∨ taskBefore p.2 t = true) →
      (t.tid.ord = true → exec (.horizonHolderSwitchOut g) s = .next (s.abort u)) ∧
      (t.tid.ord = false → t.io.lq = [] → t.io.sq = [] → t.io.upds = [] →
        ∃ r, exec (.horizonHolderSwitchOut g) s = .next r ∧ (r.task u).tid = t.tid ∧ (r.task u).rf.pc = t.rf.pc ∧
          (r.task u).pl.saved = true ∧ ((r.task u).pl.life = .queued ∨ (r.task u).pl.life = .unqueued) ∧
          (s.queuedOnChip g < 31 → (r.task u).pl.life = .queued)))

/-- 11 R245-R249, R442, 01 R25, 07 R165: the commit of the EXITED horizon holder makes its version's bytes ordinary memory that every
die sees, releases the messages it held and removes it; an abort restarts a marked task at its entry with its key and the budget of
its creation, without versions and with nothing outstanding, queued where the queue has room, and a task that no case marked is not
aborted; a pending kill takes a waiting task, and an attached debugger's kill has reason 2. -/
def Obligations.CommitAbortAndKill : Prop :=
  ∀ (s : State) (u : Nat) (t : Task) (w : Version) (k : PendKill), Map.get? s.tasks u = some t →
    (t.pl.life = .exited → t.pl.doomed = false → s.isHolder u = true → (∀ p ∈ s.tasks, p.2.pl.life = .exited → p.1 = u) →
      s.MemOk → s.ms.reds = [] → s.ms.atomics = [] → s.ms.pins = [] → s.ms.l1 = [] → s.ms.flights = [] → s.ms.lagging = [] →
      s.ms.keyed = [] → s.ms.base = [] → w.key = none → s.ms.versions = [w] → w.owner = u → w.quorum = none → (∀ c ∈ w.cells, c.1 / 128 = w.sector) → t.io.unord = [] →
      (∀ c ∈ s.clusters, c.2.regions = []) → (s.vf t.tid.vf).trace.en = false → t.tid.bind = none → t.tid.handler = false →
      ∃ r, exec .commit s = .next r ∧ Map.get? r.tasks u = none ∧ (∀ x, x ≠ u → Map.get? r.tasks x = Map.get? s.tasks x) ∧
        (∀ a, memGet r.mem a = bytesOver s w.cells a) ∧ (∀ die a, r.seen die a = memGet r.mem a) ∧ r.ms.versions = [] ∧
        r.msgs = (s.msgs.map (fun m => if m.sender = u then { m with prov := false } else m)) ++
          t.io.held.map (fun m => { m with sent := s.dtime })) ∧
    (t.pl.doomed = false → exec (.orderedAbort u) s = .next s) ∧
    (t.pl.doomed = true → t.pl.discard = false → u < s.nextUid →
      ∃ r, exec (.orderedAbort u) s = .next r ∧ (r.task u).tid = t.tid ∧
        ((r.task u).pl.life = .queued ∨ (r.task u).pl.life = .unqueued) ∧ (r.task u).pl.doomed = false ∧
        (r.task u).rf = { pc := t.tid.entry } ∧ (r.task u).io = {} ∧ (r.task u).sy.key = t.sy.key ∧
        (r.task u).sy.budInit = t.tid.bud ∧ (r.task u).sy.budLeft = t.tid.bud ∧ (r.task u).sy.tl = 0#2 ∧
        ∀ x ∈ r.ms.versions, x.owner ≠ u) ∧
    (t.pl.doomed = true → t.pl.discard = true → u < s.nextUid →
      ∃ r, exec (.orderedAbort u) s = .next r ∧ Map.get? r.tasks u = none) ∧
    (t.pl.pend = some k → t.live = true → t.pl.run = .wait → exec (.kill u) s = .next (s.kill u k)) ∧
    (t.pl.pend = none → exec (.kill u) s = .next s) ∧
    (s.hub.attached = true → exec (.debuggerKill u) s = .next (s.kill u { reason := 2#2 })) ∧
    (s.hub.attached = false → exec (.debuggerKill u) s = .next s)

/-- 13 R268, R269, R271-R275, R287, R289: barinit of a FREE entry of the own cluster makes it BARRIER over its rectangle and 0 frees an
empty one; gjoin adds a member that the rectangle covers, or a member of a QUORUM group under an unused index; gleave takes one out of a barrier; bararr goes on at once, and its
arrival in the pending phase is performed when what came before it is (not while the debugger holds the member stopped, R286), the last arrival ending the phase; barwait arrives, waits, and
returns once the phase has moved on and the sweep network has delivered it; a second arrival takes GMEMBER. A malformed identifier
takes GREF, a FREE entry GSTATE. -/
def Obligations.BarrierGroups : Prop :=
  ∀ (s : State) (a b : BitVec 5) (cl : Nat) (m : Member),
    let t := s.me
    let p := s.part t.tid.vf
    let id := s.x a
    let ent := (id.extractLsb' 0 8).toNat
    let names := id.extractLsb' 26 38 = 0#38 ∧ id.extractLsb' 8 8 = 0#8 ∧ p.clusterAt (id.extractLsb' 16 10).toNat = some cl ∧
      p.mayReach (clusterOf t.pl.core) cl = true
    let G := s.group cl ent
    let put (s : State) (x : Group) : State :=
      { s with clusters := Map.set s.clusters cl { s.cluster cl with groups := Map.set (s.cluster cl).groups ent x } }
    let n := s.pc + 12#64
    let x := (s.x b).toNat
    let r := s.released true 2#3
    let come (q : Member) : Member := if q.uid = s.cur then { q with arrived := true, phase := G.phase, due := none } else q
    let sent (q : Member) : Member := if q.uid = s.cur then { q with due := some (t.pl.retired, s.ms.vseq) } else q
    let ready := s.arrivalReady (sent m)
    let wait (u : State) : State := u.setMe { u.me with pl := { u.me.pl with run := .wait } }
    let G' := { G with members := G.members.map come }
    let full := ∀ q ∈ G'.members, q.arrived = true ∧ q.phase = G.phase
    let next := { G' with phase := (G.phase + 1) % 2 ^ 32 }
    let out := G.members.filter (fun q => q.uid != s.cur)
    s.provisional s.cur = false →
    (KilledAt (.barinit a b) s ∧ KilledAt (.gjoin a b) s ∧ KilledAt (.gleave a) s ∧ KilledAt (.barwait a) s) ∧
    (t.sy.trapLevel ≠ 3 → t.pl.pend = none →
      (id.extractLsb' 26 38 ≠ 0#38 ∨ id.extractLsb' 8 8 ≠ 0#8 → ∀ i ∈ [Instr.barinit a b, .gjoin a b, .gleave a, .bararr a, .barwait a],
        Traps i s t.sy.trapLevel 0x00F0002F#64 s.pc id 0#64) ∧
      (names → G.st = .free → ∀ i ∈ [Instr.gjoin a b, .gleave a, .bararr a, .barwait a],
        Traps i s t.sy.trapLevel 0x00F00028#64 s.pc id 0#64)) ∧
    (names → t.pl.pend = none → cl = clusterOf t.pl.core →
      (G.st = .free → x ≠ 0 → x < 65536 → x / 16 % 16 ≠ 0 → x / 4096 ≠ 0 → x % 16 + x / 16 % 16 ≤ 10 →
        x / 256 % 16 + x / 4096 ≤ 8 →
        RetiresFrom (.barinit a b) s (put s { st := .barrier, launch := t.tid.launch, row0 := x % 16, rows := x / 16 % 16,
                                              col0 := x / 256 % 16, cols := x / 4096 }) n) ∧
      (G.st = .barrier → G.launch = t.tid.launch → G.members = [] → x = 0 → RetiresFrom (.barinit a b) s (put s {}) n)) ∧
    (names → t.pl.pend = none → G.st = .barrier → G.launch = t.tid.launch →
      ((∀ q ∈ G.members, q.uid ≠ s.cur) → s.memberships s.cur .barrier < 8 → G.members.length < 1024 →
        G.covers cl t.pl.core = true →
        RetiresFrom (.gjoin a 24#5) s (put s { G with members := G.members ++ [{ uid := s.cur }] }) n) ∧
      ((∃ q ∈ G.members, q.uid = s.cur) → (out = [] ∨ ∃ q ∈ out, q.arrived = false ∨ q.phase ≠ G.phase) →
        RetiresFrom (.gleave a) s (put s { G with members := out }) n) ∧
      (G.members.find? (fun q => q.uid == s.cur) = some m →
        (m.arrived = false → m.due = none → (G.members.map (·.uid)).Nodup →
          (∀ q ∈ G.members, q.uid ≠ s.cur → s.arrivalReady q = false) →
          let left := put s { G with members := G.members.map sent }
          (ready = false → RetiresFrom (.bararr a) s left n ∧ exec (.barwait a) s = .next (wait left)) ∧
          (ready = true → ¬ full → RetiresFrom (.bararr a) s (put r G') n ∧ exec (.barwait a) s = .next (wait (put r G'))) ∧
          (ready = true → full → RetiresFrom (.bararr a) s ((put r next).nextPhase G.launch) n ∧
            exec (.barwait a) s = .next (wait ((put r next).nextPhase G.launch)))) ∧
        ((m.arrived = true ∨ m.due.isSome = true) → t.sy.trapLevel ≠ 3 →
          Traps (.bararr a) s t.sy.trapLevel 0x00F0002A#64 s.pc id 0#64) ∧
        (m.due.isSome = true → Waits (.barwait a) s) ∧
        (m.due = none → m.arrived = true → G.phase ≠ m.phase → G.out = G.phase → RetiresFrom (.barwait a) s (put s { G with
          members := G.members.map (fun q => if q.uid = s.cur then { q with arrived := false } else q) }) n) ∧
        (m.due = none → m.arrived = true → (G.phase = m.phase ∨ G.out ≠ G.phase) → Waits (.barwait a) s))) ∧
    (names → t.pl.pend = none → G.st = .quorum → G.launch = t.tid.launch → s.memberships s.cur .quorum = 0 →
      x < (s.cell cl G.cell).n → (∀ q ∈ G.members, q.idx ≠ x) → x ∉ (s.cell cl G.cell).departed →
      ∃ ms, ms.Perm (({ uid := s.cur, idx := x } : Member) :: G.members) ∧
        RetiresFrom (.gjoin a b) s (put s { G with members := ms }) n) ∧
    (G.st = .barrier → s.arrivals G = [] → exec (.barrierRelease cl ent) s = .next (put s { G with out := G.phase })) ∧
    (G.st = .barrier → s.arrivals G = [m.uid] → (G.members.map (·.uid)).Nodup →
      let there (q : Member) : Member := if q.uid = m.uid then { q with arrived := true, phase := G.phase, due := none } else q
      let ms := G.members.map there
      let r := s.releasePins m.uid 2#3
      let all := ∀ q ∈ ms, q.arrived = true ∧ q.phase = G.phase
      (¬ all → exec (.barrierRelease cl ent) s = .next (put r { G with members := ms })) ∧
      (all → exec (.barrierRelease cl ent) s =
        .next ((put r { G with members := ms, phase := (G.phase + 1) % 2 ^ 32 }).nextPhase G.launch)))

/-- 13 R276-R280, R283-R285, R290: qinit arms an IDLE or RELEASED cell of its cluster from a descriptor without contributions and makes
the named group QUORUM, and writes the continuation's lid; a qarr counts its member, writes its weighted contribution to its slot,
and, with the Q-th,
releases the cell: RELEASED with how 1 and the next seq, the group FREE, the launch's phase moved on, unarrived members to be killed,
and the continuation created; a deadline releases with how 2. Whose checks come first, and what a qarr to a RELEASED cell of an rfork
takes, are log entries 115 and 116, on which no clause rests.

13 R276, R283, R290, 01 R30: qwait writes the state word of the last release where the cell is RELEASED or has been released since
the wait began (the last release's word where several have: the model's reading, log entry 45), and waits else; qstat writes the state word as it is, and takes TIME in dmodes 1 and 2 without status.timeok; qrec
writes the release-record pointer. -/
def Obligations.QuorumCells : Prop :=
  (∀ (s s1 : State) (d a b : BitVec 5) (cl : Nat) (bs : List Byte) (n q : Nat) (m : Member) (e : BitVec 5)
     (v : BitVec 1024),
     let t := s.me
     let p := s.part t.tid.vf
     let id := s.x a
     let ent := (id.extractLsb' 0 8).toNat
     let c := s.cell cl ent
     let G := s.group cl c.group
     let word (k : Nat) : Nat := leNat ((bs.drop (8 * k)).take 8)
     let cw := draw ((s.launchOf s.cur).seed ^^^ 0x7C1D000000000001#64) ((t.tid.lid <<< 32) ||| t.sy.cre.setWidth 64)
     let lid := ((t.tid.lid >>> 32) <<< 32) ||| (cw &&& 0xFFFFFFFF#64)
     let r := s.released true 4#3
     let cells (s : State) (x : Opal) (g : Group) : State :=
       { s with clusters := Map.set s.clusters cl { s.cluster cl with
         cells := Map.set (s.cluster cl).cells ent x, groups := Map.set (s.cluster cl).groups c.group g } }
     let come (q : Member) : Member := if q.uid = s.cur then { q with arrived := true } else q
     let phase (s : State) := (s.launch c.launch).phase
     let isReleased (u : State) (how : BitVec 4) (arrived : List Nat) : Prop :=
       (u.cell cl ent).st = .released ∧ (u.cell cl ent).seq = c.seq + 1#16 ∧ (u.cell cl ent).how = how ∧
       (u.cell cl ent).arrived = arrived ∧ (u.cell cl ent).last = (u.cell cl ent).word ∧ u.group cl c.group = {} ∧
       phase u = phase s + 1
     s.provisional s.cur = false → id.extractLsb' 26 38 = 0#38 → id.extractLsb' 6 10 = 0#10 →
     p.clusterAt (id.extractLsb' 16 10).toNat = some cl → p.mayReach (clusterOf t.pl.core) cl = true → t.pl.pend = none →
     (cl = clusterOf t.pl.core → c.st ≠ .armed → (s.x b).toNat % 64 = 0 → s.syncRead (s.x b) 64 = (.ok bs, s1) →
       word 0 = n + q * 2 ^ 16 → 1 ≤ q → q ≤ n → n ≤ 1024 → word 3 % 4 = 0 → word 4 % 4 = 0 → word 6 % 8 = 0 → word 7 = 0 →
       word 1 = (id.extractLsb' 16 10).toNat * 2 ^ 16 + word 1 % 256 → (s.group cl (word 1 % 256)).st = .free → s.det = false →
       (∀ k ∈ s.clusters, ∀ x ∈ k.2.cells, s.cellDue x.2 = false) →
       ∃ u, exec (.qinit d a b) s = .next u ∧ (u.cell cl ent).st = .armed ∧ (u.cell cl ent).n = n ∧ (u.cell cl ent).q = q ∧
         (u.cell cl ent).group = word 1 % 256 ∧ (u.cell cl ent).cont = BitVec.ofNat 64 (word 3) ∧ (u.cell cl ent).seq = c.seq ∧
         (u.cell cl ent).arrived = [] ∧ (u.cell cl ent).init = s.cur ∧
         u.group cl (word 1 % 256) = { st := .quorum, launch := t.tid.launch, cell := ent, n := n } ∧
         u.me.x d = (if d.toNat < 24 then (lid.extractLsb' 0 48).setWidth 64 else 0#64) ∧ OtherRegs d s u ∧
         u.me.sy.cre = t.sy.cre + 1#32 ∧ RetiresTo (s.pc + 12#64) s1 u) ∧
     (c.st = .armed → c.fork = false → G.st = .quorum → G.cell = ent → c.tag = 0#4 → c.recset = none →
       G.members.find? (fun x => x.uid == s.cur) = some m → m.arrived = false → s.releaseWaits 4#3 = false →
       (c.arrived.length + 1 ≠ c.q → RetiresFrom (.qarr a .none) s
         (cells r { c with arrived := c.arrived ++ [m.idx] } { G with members := G.members.map come }) (s.pc + 12#64)) ∧
       (c.arrived.length + 1 = c.q → dmodeOf (s.launch c.launch).mode = 0 → (Map.get? s.launches c.launch).isSome = true →
         s.cur < s.nextUid →
         ∃ u, exec (.qarr a .none) s = .next u ∧ isReleased u 1#4 (c.arrived ++ [m.idx]) ∧ u.me.rf.pc = s.pc + 12#64 ∧
           u.me.pl.retired = t.pl.retired + 1 ∧ AllRegs s u ∧
           (∀ x ∈ G.members, x.arrived = false → x.uid ≠ s.cur → x.uid < s.nextUid → (Map.get? s.tasks x.uid).isSome = true →
             (u.task x.uid).pl.pend = some { quorum := some (cl, ent) }) ∧
           (c.cont ≠ 0#64 → ∃ ch, Map.get? u.tasks s.nextUid = some ch ∧ ch.tid.entry = c.cont ∧ ch.tid.kind = 2#4 ∧
             ch.tid.args = [c.stage, (u.cell cl ent).word, 0#64] ∧ ch.sy.key = c.initKey ∧ ch.pl.core = t.pl.core ∧
             (ch.pl.life = .queued ∨ ch.pl.life = .unqueued) ∧ (s.queuedOnChip t.pl.core < 31 → ch.pl.life = .queued)) ∧
           (c.cont = 0#64 ∨ s.queuedOnChip t.pl.core < 31 → u.ms.flights = []))) ∧
     (c.st = .armed → c.fork = false → G.st = .quorum → G.cell = ent → c.tag = 3#4 → c.recset = none →
       G.members.find? (fun x => x.uid == s.cur) = some m → m.arrived = false → s.releaseWaits 4#3 = false →
       c.arrived.length + 1 ≠ c.q → s.vsrc e = some (v, .i32) →
       r.hubWrite (engineAgent c.initId.vf cl) (c.stage + BitVec.ofNat 64 (128 * (m.idx + 1)))
         ((List.range 32).flatMap (fun j =>
           leBytes 4 (((c.wts[m.idx]?).getD 0#64).toNat * (velem v .i32 j).toNat % 2 ^ 32))) = (true, s1) →
       RetiresFrom (.qarr a (.vec .i32 e)) s (State.popNamed
         (cells s1 { c with arrived := c.arrived ++ [m.idx] } { G with members := G.members.map come }) [e]) (s.pc + 12#64)) ∧
     (c.st = .armed → c.dl = true → c.deadline.toNat ≤ s.dtime.toNat → dmodeOf (s.launch c.launch).mode = 0 → c.tag = 0#4 →
       c.fork = false → (Map.get? s.launches c.launch).isSome = true →
       ∃ u, exec (.quorumDeadline cl ent) s = .next u ∧ isReleased u 2#4 c.arrived) ∧
     (s.cellDue c = false → exec (.quorumDeadline cl ent) s = .next s)) ∧
  (∀ (s : State) (d a : BitVec 5) (cl : Nat),
     let t := s.me
     let p := s.part t.tid.vf
     let id := s.x a
     let c := s.cell cl (id.extractLsb' 0 6).toNat
     let st : Nat := match c.st with | .idle => 0 | .armed => 1 | .released => 2
     let waiting (w : Option (BitVec 16)) (r : RunSt) : State :=
       { s with tasks := Map.set s.tasks s.cur { t with pl := { t.pl with waitSeq := w, run := r } } }
     s.provisional s.cur = false → id.extractLsb' 26 38 = 0#38 → id.extractLsb' 6 10 = 0#10 →
     p.clusterAt (id.extractLsb' 16 10).toNat = some cl → p.mayReach (clusterOf t.pl.core) cl = true →
     KilledAt (.qwait d a) s ∧
     (t.pl.pend = none →
       (t.pl.waitSeq = none → c.st = .released → Writes (.qwait d a) s d c.last 0#5 12) ∧
       (t.pl.waitSeq = none → c.st ≠ .released → exec (.qwait d a) s = .next (waiting (some c.seq) .wait)) ∧
       (t.pl.waitSeq = some c.seq → Waits (.qwait d a) s) ∧
       (∀ w, t.pl.waitSeq = some w → w ≠ c.seq → ResultFrom (.qwait d a) s (waiting none t.pl.run) d c.last 12)) ∧
     (s.det = false ∨ t.sy.timeok = true → Writes (.qstat d a) s d (BitVec.ofNat 64 (c.seq.toNat * 2 ^ 48 + c.flags.toNat * 2 ^ 43 +
       c.arrived.length * 2 ^ 32 + c.n * 2 ^ 21 + c.q * 2 ^ 10 + c.how.toNat * 2 ^ 4 + st)) 0#5 12) ∧
     (s.det = true → t.sy.timeok = false → t.sy.trapLevel ≠ 3 →
       Traps (.qstat d a) s t.sy.trapLevel 0x00F00012#64 s.pc 0#64 0#64) ∧
     Writes (.qrec d a) s d c.ptr 0#5 12)

/-- 19 R351, R352, R359, 20 R372-R374, R378, R381, R382: what evget, evsum, evclk and evhor write for a region in dmode 0, for a PLAIN
region and for an ORDERED one with an empty log read by an ordered task, of a task that is not above the horizon; its updates on their
way are performed first; a leaf beyond the region takes EVSTATE, a malformed identifier EVREF. All are kill points; the task waits for the answer,
which is on its way (R375; that the command is sent and performed in one step is log entry 90's reading).

19 R359, R361, 20 R371, R372, R377: evset and evadd send an update with their value (X(c), the immediate: zero-extended by evset
and sign-extended by evadd, or the literal) and go on; performed at its region in dmode 0 it writes the leaf word, or adds to its rate
alone, and nothing else; one that names no leaf of the region becomes a store-fault record; of a task that is to be aborted none is
performed (R362). -/
def Obligations.GarnetReadsAndUpdates : Prop :=
  (∀ (s : State) (d a b : BitVec 5) (cl : Nat) (x : Region),
     let t := s.me
     let p := s.part t.tid.vf
     let id := s.x a
     let i := (s.x b).toNat
     let bit (c : Bool) (n : Nat) : Nat := if c then n else 0
     let reads := [Instr.evget d a b, .evsum d a, .evclkClock d a, .evclkCount d a, .evhorBound d a, .evhorCommit d a, .evhorStatus d a]
     (∀ r ∈ reads, KilledAt r s) ∧
     (t.pl.pend = none → t.io.upds = [] → s.provisional s.cur = false → t.sy.trapLevel ≠ 3 →
       (id.extractLsb' 26 38 ≠ 0#38 ∨ id.extractLsb' 6 10 ≠ 0#10) → ∀ r ∈ reads, Traps r s t.sy.trapLevel 0x00F00038#64 s.pc id 0#64) ∧
     (t.pl.pend = none → s.afterUpds.me.pl.pend = none → ∀ r ∈ reads, exec r s = exec r s.afterUpds) ∧
     (t.pl.pend = none → t.io.upds = [] → s.provisional s.cur = false → s.det = false → id.extractLsb' 26 38 = 0#38 →
       id.extractLsb' 6 10 = 0#10 → p.clusterAt (id.extractLsb' 16 10).toNat = some cl →
       p.mayReach (clusterOf t.pl.core) cl = true → s.region cl (id.extractLsb' 0 6).toNat = some x →
       (x.ordered = true → t.tid.ord = true ∧ x.log = []) →
       (i < x.leaves → ResultAnswers (.evget d a b) s s d (s.leaf cl x i)) ∧
       (x.leaves ≤ i → t.sy.trapLevel ≠ 3 → Traps (.evget d a b) s t.sy.trapLevel 0x00F00039#64 s.pc id 0#64) ∧
       (x.leaves ≤ 32768 → x.wide = 1 → ((s.cluster cl).leaves.map (·.1)).Nodup →
         ResultAnswers (.evsum d a) s s d (BitVec.ofNat 64 ((List.range x.leaves).map (fun k => (s.leaf cl x k).toNat % 2 ^ 48)).sum)) ∧
       ResultAnswers (.evclkClock d a) s s d x.clock ∧ ResultAnswers (.evclkCount d a) s s d x.count ∧
       ((x.ordered = false ∨ ∀ g ∈ x.neigh, g = 2 ^ 32) → ResultAnswers (.evhorBound d a) s s d 0x7FF0000000000000#64) ∧
       (∀ y, x.ordered = true → s.regionBound t.tid.vf x = some y → ResultAnswers (.evhorBound d a) s s d y) ∧
       ResultAnswers (.evhorCommit d a) s s d (if x.ordered then x.committed else x.clock) ∧
       ResultAnswers (.evhorStatus d a) s s d (BitVec.ofNat 64 (bit x.ordered (512 * 2 ^ 32 + 8) + x.queue.length * 2 ^ 16 +
         bit x.held.isSome 4 + bit x.armed 2 + bit x.conservative 1)))) ∧
  (∀ (s : State) (a b : BitVec 5) (v : LeafSrc) (cl r u : Nat) (x : Region) (t : Task) (up : LeafUpd) (rest : List LeafUpd)
     (new : Word),
     let me := s.me
     let val (add : Bool) : Word := match v with | .reg c => s.x c | .imm i => if add then i.signExtend 64 else i.setWidth 64 | .lit w => w
     let mine (add : Bool) : LeafUpd :=
       { add := add, pc := s.pc, region := s.x a, leaf := s.x b, val := val add, issued := me.pl.retired }
     let sent (add : Bool) : State :=
       { s with tasks := Map.set s.tasks s.cur { me with io := { me.io with upds := me.io.upds ++ [mine add] } } }
     let failed : FaultRec := { q0 := up.pc, q1 := up.region, q2 := 0x00F00839#64, q3 := 0#64, issued := up.issued }
     let at_ := x.leafAt cl up.leaf.toNat
     let old := s.leaf cl x up.leaf.toNat
     (s.updRegion s.cur (s.x a) = some (cl, r) → s.provisional s.cur = false →
       RetiresFrom (.evset a b v) s (sent false) (s.pc + BitVec.ofNat 64 v.size) ∧
       RetiresFrom (.evadd a b v) s (sent true) (s.pc + BitVec.ofNat 64 v.size)) ∧
     (Map.get? s.tasks u = some t → t.io.upds = up :: rest → s.updRegion u up.region = some (cl, r) → s.region cl r = some x →
       s.provisional u = false → t.pl.doomed = false → dmodeOf (s.launchOf u).mode = 0 →
       (x.ordered = true → t.tid.ord = true ∧ x.log = []) → (∀ k ∈ s.clusters, ∀ q ∈ k.2.regions, q.2.held = none) →
       (up.leaf.toNat < x.leaves →
         ((up.add = false ∧ up.val.extractLsb' 56 8 = 0#8 ∧ up.val.extractLsb' 48 4 = 0#4 ∧ new = up.val) ∨
           (up.add = true ∧ new.extractLsb' 48 16 = old.extractLsb' 48 16 ∧
             ((new.toNat % 2 ^ 48 : Nat) : Int) = (old.toNat % 2 ^ 48 : Nat) + up.val.toInt)) →
         s.regionSum cl x - old.toNat % 2 ^ 48 + new.toNat % 2 ^ 48 < 2 ^ 64 →
         exec (.garnetUpdate u) s = .next { s with
           tasks := Map.set s.tasks u { t with io := { t.io with upds := rest } },
           clusters := Map.set s.clusters at_.1 { s.cluster at_.1 with leaves := Map.set (s.cluster at_.1).leaves at_.2 new } }) ∧
       (x.leaves ≤ up.leaf.toNat → t.io.sfq.length < 8 → (∀ q ∈ t.io.sfq, q.issued ≤ up.issued) →
         exec (.garnetUpdate u) s = .next { s with
           tasks := Map.set s.tasks u { t with io := { t.io with upds := rest, sfq := t.io.sfq ++ [failed] } } })) ∧
     (Map.get? s.tasks u = some t → t.pl.doomed = true → exec (.garnetUpdate u) s = .next s))

/-- 19 R354-R358, R360, 20 R376, R379, R380, R383: evcfg makes a region from its table, with leaves 0, or removes an idle one; evnext
answers no event, an event of the queue or a drawn one, moves clock, count and queue, and with .spawn creates the handler; evsched
queues an event in order; evlook sets lookahead and a neighbour. For tasks that are not above the horizon, in dmode 0. The creation of a
handler is a release at the scope that holds both cores (R368); every one is answered, and its task waits for the answer (R375).

19 R356: Select descends to the leaf whose rates the target falls into: the sum of the leaves before it is at most the target, and
with its own rate the sum passes it. -/
def Obligations.GarnetEvents : Prop :=
  (∀ (s s1 : State) (ord acq rel spawn : Bool) (scope : BitVec 3) (d a b c e : BitVec 5) (slot : BitVec 3) (cl r : Nat) (x y : Region)
     (bs : List Byte) (ev : Bound) (evs : List Bound) (tc tm : Word) (leaf k base sgr : Nat) (n : Word),
     let t := s.me
     let word (k : Nat) : Nat := leNat ((bs.drop (8 * k)).take 8)
     let with_ (s : State) (x : Region) : State :=
       { s with clusters := Map.set s.clusters cl { s.cluster cl with regions := Map.set (s.cluster cl).regions r x } }
     let calm := ∀ k ∈ s.clusters, ∀ q ∈ k.2.regions, q.2.held = none
     let results (u : State) (l m p : Word) : Prop :=
       u.me.x d = l ∧ u.me.x c = m ∧ u.me.x e = p ∧ (∀ q, q ≠ d → q ≠ c → q ≠ e → u.me.x q = s.me.x q) ∧
       u.me.rf.pc = s.pc + 12#64 ∧ u.me.pl = { t.pl with retired := t.pl.retired + 1, run := .wait, answer := true } ∧
       (rel = false → spawn = false → u.mem = s.mem)
     let entry (l : Nat) := (x.handlers[(s.leaf cl x l).toNat / 2 ^ 52 % 16]?).getD 0#64
     t.pl.pend = none → t.io.upds = [] → s.provisional s.cur = false → s.det = false → s.updRegion s.cur (s.x a) = some (cl, r) →
     (cl = clusterOf t.pl.core → s.region cl r = none → b ≠ 24#5 →
       (acq = true ∨ rel = true → s.releaseWaits (engineScope acq scope) = false) →
       (s.x b).toNat % 8 = 0 → s.readTable cl (s.x b) 144 = (.ok bs, s1) → k ≤ 15 → base = (s.x c).toNat →
       word 0 % 2 ^ 32 = 2 ^ k → (word 0 / 2 ^ 32 < 64 ∨ (192 ≤ word 0 / 2 ^ 32 ∧ word 0 / 2 ^ 32 < 256)) → word 1 = 0 →
       (∀ j, 2 ≤ j → j < 18 → word j % 4 = 0) → base % 2 ^ k = 0 → base + 2 ^ k ≤ 32768 →
       (∀ q ∈ s.leafRanges cl, q.1 + q.2 ≤ base ∨ base + 2 ^ k ≤ q.1) → (ord = true → s.lmode.getLsbD 4 = true) → e = 24#5 →
       ∃ u z, exec (.evcfg ord acq rel scope a b c e) s = .next u ∧ u.region cl r = some z ∧ z.base = base ∧ z.leaves = 2 ^ k ∧
         z.e = (if word 0 / 2 ^ 32 < 64 then (word 0 / 2 ^ 32 : Int) else (word 0 / 2 ^ 32 : Int) - 256) ∧ z.ordered = ord ∧
         z.clock = 0#64 ∧ z.count = 0#64 ∧ z.queue = [] ∧ z.log = [] ∧ z.armed = false ∧ z.launch = t.tid.launch ∧
         z.handlers = (List.range 16).map (fun j => BitVec.ofNat 64 (word (j + 2))) ∧ (∀ j, j < 2 ^ k → u.leaf cl z j = 0#64) ∧
         u.me.rf.pc = s.pc + 12#64 ∧ u.me.pl = { s1.me.pl with retired := t.pl.retired + 1, run := .wait, answer := true } ∧ AllRegs s u ∧ SameVectors s u ∧ SameTiles s u ∧ SameWindow s u) ∧
     (s.region cl r = some x → (x.ordered = true → t.tid.ord = true ∧ x.log = []) →
       (cl = clusterOf t.pl.core → x.log = [] → x.queue = [] → x.armed = false →
         AnswersFrom (.evcfg ord acq rel scope a 24#5 c e) s { s with clusters := Map.set s.clusters cl { s.cluster cl with
           regions := Map.del (s.cluster cl).regions r } }) ∧
       (d.toNat < 24 → c.toNat < 24 → e.toNat < 24 → d ≠ c → d ≠ e → c ≠ e →
         (acq = true ∨ rel = true → s.releaseWaits (engineScope acq scope) = false) →
         (∀ sc, s.handlerScope cl r spawn = some sc → s.releaseWaits sc = false ∧ s.owes s.cur = false) → (spawn = true → s.lmode.getLsbD 4 = true) → s.cur < s.nextUid →
         (x.ordered = false → s.regionSum cl x = 0 → x.queue = [] →
           ∃ u, exec (.evnext spawn acq rel scope d a c e) s = .next u ∧ results u 0x4000000000000000#64 x.clock 0#64 ∧
             u.region cl r = some x ∧ u.nextUid = s.nextUid ∧ SameBytes s u) ∧
         (x.ordered = true → calm → spawn = true → x.armed = true →
           ∃ u, exec (.evnext spawn acq rel scope d a c e) s = .next u ∧ results u 0x2000000000000000#64 x.clock 0#64 ∧
             u.region cl r = some x ∧ u.nextUid = s.nextUid ∧ SameBytes s u) ∧
         (x.ordered = false → spawn = false → s.regionSum cl x ≠ 0 → x.queue = [] →
           s.stochastic cl r x (s.regionSum cl x) = .stoch tc leaf → leaf < 2 ^ 61 →
           ∃ u, exec (.evnext spawn acq rel scope d a c e) s = .next u ∧ results u (BitVec.ofNat 64 leaf) tc 0#64 ∧
             u.region cl r = some { x with clock := tc, count := x.count + 1#64 } ∧ SameBytes s u) ∧
         (s.regionSum cl x = 0 → x.queue = ev :: evs → x.clock.toNat ≤ ev.time.toNat → ev.leaf < 2 ^ 61 →
           (x.ordered = true → calm ∧ spawn = true ∧ x.armed = false ∧ x.rearm = none ∧ x.conservative = false) →
           ∃ u, exec (.evnext spawn acq rel scope d a c e) s = .next u ∧
             results u (BitVec.ofNat 64 (2 ^ 63 + ev.leaf)) ev.time ev.payload ∧
             (∃ z, u.region cl r = some z ∧ z.clock = ev.time ∧ z.count = x.count + 1#64 ∧ z.queue = evs ∧
               (x.ordered = true → entry ev.leaf ≠ 0#64 → z.armed = true ∧ z.pending = s.nextUid)) ∧
             (spawn = true → entry ev.leaf ≠ 0#64 → ∃ ch, Map.get? u.tasks s.nextUid = some ch ∧ ch.tid.entry = entry ev.leaf ∧
               ch.tid.kind = 2#4 ∧ ch.tid.ord = true ∧ ch.sy.key = ev.time ∧ (ch.pl.life = .queued ∨ ch.pl.life = .unqueued) ∧
               (s.queuedOnChip ch.pl.core < 31 → ch.pl.life = .queued ∧ SameBytes s u) ∧
               ch.tid.args = [BitVec.ofNat 64 (2 ^ 63 + ev.leaf), ev.time, x.count, ev.payload]))) ∧
       (((s.x c).toNat < 0x7FF0000000000000 ∧ tm = s.x c ∨ s.x c = 0x8000000000000000#64 ∧ tm = 0#64) → (s.x b).toNat < x.leaves →
         x.queue.length < 63 → calm →
         (d = 24#5 ∧ x.ordered = false ∧ sgr = 0xFFFFFFFF ∧ n = 0#64) ∨
           (d ≠ 24#5 ∧ ∃ c' r', s.updRegion s.cur (s.x d) = some (c', r') ∧ s.region c' r' = some y ∧ n = y.count ∧
             sgr = 64 * (s.part t.tid.vf).indexOf c' + r' ∧ (x.ordered = true → y.ordered = true ∧ timeBefore tm t.sy.key = false ∧
               timeBefore tm (BitVec.ofNat 64 (fpAdd 0#2 .f64 y.clock.toNat x.look.toNat).1) = false)) →
         let new : Bound := { time := tm, pair := { key := t.sy.key, lid := t.tid.lid, cw := t.tid.cw, born := t.tid.born }, sender := s.cur, sgr := sgr, scount := n,
                              leaf := (s.x b).toNat, payload := s.x e }
         ∃ qs, qs.Perm (new :: x.queue) ∧ (x.queue.Pairwise (fun p q => boundBefore q p = false) →
             qs.Pairwise (fun p q => boundBefore q p = false)) ∧
           AnswersFrom (.evsched d a b c e) s (with_ s { x with queue := qs })) ∧
       (x.ordered = true → ((s.x b).toNat < 0x7FF0000000000000 ∧ tm = s.x b ∨ s.x b = 0x8000000000000000#64 ∧ tm = 0#64) →
         calm →
         (c = 24#5 ∧ sgr = 2 ^ 32) ∨ (c ≠ 24#5 ∧ ∃ c' r', s.updRegion s.cur (s.x c) = some (c', r') ∧ s.region c' r' = some y ∧
           y.ordered = true ∧ sgr = 64 * (s.part t.tid.vf).indexOf c' + r') →
         AnswersFrom (.evlook a b c slot) s (with_ s
           { x with look := tm, neigh := (x.neigh ++ List.replicate (8 - x.neigh.length) (2 ^ 32)).set slot.toNat sgr })))) ∧
  (∀ (ls : List (Nat × Word)) (k lo target : Nat), target < sumRange ls lo (2 ^ k) →
     let i := descend ls k lo (2 ^ k) target
     lo ≤ i ∧ i < lo + 2 ^ k ∧ sumRange ls lo (i - lo) ≤ target ∧ target < sumRange ls lo (i - lo + 1))

/-- 01 R27, R28, 22 R390-R393, R395: what the write that commits a slot does. A slot that is not busy holds from then on the launch of its
record in the state that the first failing check names, or QUEUED with the next free number of its VF and the fields of the record
and its block; a busy slot discards and logs the write, and remembers its relaxed-ordering attribute. A refused launch ends at once.
No task is created. The model's own: a gang of one package (log entry 60), and that a slot with a relaxed-ordering write since its
last commit ends so (log entry 73). -/
def Obligations.LaunchCommit : Prop :=
  ∀ (s s1 : State) (v k : Nat) (c : Word) (relaxed : Bool) (blk : List Byte),
    let f := s.vf v
    let old := padTo 64 (Map.get [] f.slots k)
    let rec_ := old.take 56 ++ leBytes 8 c.toNat
    let s' : State := { s with vfs := Map.set s.vfs v { f with slots := Map.set f.slots k rec_ } }
    let l := s.launches.length + 1
    let base : Launch := { vf := v, slot := k, queuedAt := s.dtime, tend := s.dtime, order := 2 ^ 40 + l }
    let shown (s : State) (x : Launch) (n : Nat) : State :=
      { s with
        launches := Map.set s.launches l x
        vfs := Map.set s.vfs v { s.vf v with
          slotLaunch := Map.set (s.vf v).slotLaunch k l, relaxed := (s.vf v).relaxed.filter (· != k), nextNum := n } }
    let noted : State := if relaxed then { s with vfs := Map.set s.vfs v { f with
      relaxed := k :: f.relaxed.filter (· != k) } } else s
    let busy := ∃ j, Map.get? f.slotLaunch k = some j ∧ (s.launch j).st ∈ [LaunchSt.queued, .reserved, .running, .out]
    let e := field64 rec_ 0
    let mode : BitVec 32 := (field64 rec_ 0x30).extractLsb' 0 32
    let n := ((field64 rec_ 0x30).extractLsb' 32 32).toNat + 1
    let b (o : Nat) : Word := field64 blk o
    let first := ((b 0).extractLsb' 0 13).toNat
    let nc := ((b 0).extractLsb' 16 13).toNat
    let cls := (s.part v).clusters
    let m := if nc = 0 then 8 * cls.length else nc
    let cores := (List.range m).map (fun i => ((cls[(first + i) / 8]?).getD 0) * 8 + (first + i) % 8)
    let whole := (b 8).extractLsb' 0 63 = 0#63
    let ex := if whole then n else ((b 8).extractLsb' 0 21).toNat
    let ey := if whole then 1 else ((b 8).extractLsb' 21 21).toNat
    let ez := if whole then 1 else ((b 8).extractLsb' 42 21).toNat
    let core := c.getLsbD 2
    let good :=
      e.extractLsb' 0 2 = 0#2 ∧ e.extractLsb' 56 8 = 0#8 ∧ c.extractLsb' 3 4 = 0#4 ∧ (b 0).extractLsb' 30 34 = 0#34 ∧
      (b 0).extractLsb' 13 3 = 0#3 ∧ nc ≤ 5120 ∧ (b 8).getLsbD 63 = false ∧ (b 0x10).extractLsb' 0 7 = 0#7 ∧
      (b 0x18).extractLsb' 32 32 ≠ 0#32 ∧ ((b 0x18).extractLsb' 0 32).toNat % 128 = 0 ∧ 0x2400 ≤ ((b 0x18).extractLsb' 0 32).toNat ∧
      (b 0x20).extractLsb' 0 6 = 0#6 ∧ (b 0x28).extractLsb' 48 16 = 0#16 ∧ (b 0x28).extractLsb' 0 6 = 0#6 ∧
      (b 0x30).extractLsb' 0 2 = 0#2 ∧ (b 0x38).extractLsb' 32 32 = 0#32 ∧ (b 0x40).extractLsb' 0 12 = 0#12 ∧
      (b 0x48).extractLsb' 36 28 = 0#28 ∧ (∀ i, i < 6 → b (0x50 + 8 * i) = 0#64) ∧ (core = false → ex * ey * ez = n) ∧
      (core = true → n = m) ∧ (mode.getLsbD 4 = true → (b 0x18).extractLsb' 32 32 ≠ 1#32) ∧
      (mode.getLsbD 7 = true ∨ mode.extractLsb' 0 2 ≠ 0#2 → b 0x40 ≠ 0#64) ∧
      ((b 0x48).extractLsb' 32 4 ≠ 0#4 → (b 0x48).extractLsb' 0 32 ≠ 0#32) ∧ first + m ≤ 8 * cls.length ∧ (nc = 0 → first = 0)
    let taken (num : Nat) : Launch :=
      { base with
        st := .queued, tend := 0#64, ex := ex, num := BitVec.ofNat 16 num, entry := e, args := [field64 rec_ 8, field64 rec_ 0x10, field64 rec_ 0x18, field64 rec_ 0x20]
        seed := field64 rec_ 0x28, n := n, mode := mode, core := core, prio := (c.extractLsb' 0 2).toNat, eff := (c.extractLsb' 0 2).toNat
        qw := if c.extractLsb' 56 8 = 0#8 then 1 else (c.extractLsb' 56 8).toNat
        gen := (b 0).getLsbD 29, cores := cores, ext := BitVec.ofNat 64 (ex % 2 ^ 21 + ey * 2 ^ 21 + ez * 2 ^ 42), spool := b 0x10
        scount := ((b 0x18).extractLsb' 32 32).toNat, ssize := ((b 0x18).extractLsb' 0 32).toNat, swap := b 0x20
        swsize := ((b 0x28).extractLsb' 0 48).toNat, pent := b 0x30, pbud := ((b 0x38).extractLsb' 0 32).toNat, sarea := b 0x40
        npkg := ((b 0x48).extractLsb' 32 4).toNat, gang := ((b 0x48).extractLsb' 0 32).toNat }
    let free (n : Nat) : Prop := 1 ≤ n ∧ n < 65536 ∧ ∀ p ∈ s.launches, p.2.vf = v → p.2.st.live = true → p.2.num.toNat ≠ n
    let late := relaxed = true ∨ k ∈ f.relaxed
    let reserved := mode.extractLsb' 9 23 ≠ 0#23 ∨ mode.extractLsb' 5 2 = 3#2 ∨ mode.extractLsb' 0 2 = 3#2
    let pblk := c &&& 0x00FFFFFFFFFFFF80#64
    s.isVf v = true → k < 8 →
    (busy → exec (.launchCommit v k c relaxed) s = .next (noted.pfEvent 3 v (BitVec.ofNat 64 (0x1038 + 64 * k)) (BitVec.ofNat 64 v))) ∧
    (¬busy →
      (late → exec (.launchCommit v k c relaxed) s =
        .next ((shown s' { base with st := .orderReject } f.nextNum).pfEvent 3 v (BitVec.ofNat 64 (0x1038 + 64 * k)) (BitVec.ofNat 64 v))) ∧
      (¬late → reserved → exec (.launchCommit v k c relaxed) s = .next (shown s' { base with st := .modeReject } f.nextNum)) ∧
      (¬late → ¬reserved →
        (0xF0 ≤ (c.extractLsb' 48 8).toNat ∨ f.part = none →
          exec (.launchCommit v k c relaxed) s = .next (shown s' { base with st := .placeReject } f.nextNum)) ∧
        ((c.extractLsb' 48 8).toNat < 0xF0 → f.part ≠ none →
          (s'.hubRead (hostAgent v) pblk 128 = (none, s1) →
            exec (.launchCommit v k c relaxed) s = .next (shown s1 { base with st := .placeReject } f.nextNum)) ∧
          (s'.hubRead (hostAgent v) pblk 128 = (some blk, s1) →
            (¬good → exec (.launchCommit v k c relaxed) s = .next (shown s1 { base with st := .placeReject } f.nextNum)) ∧
            (good → (s.launches.map (·.1)).Nodup → s.launches.length < 65535 → (∀ p ∈ s.launches, p.2.st ≠ .reserved) →
              ∃ num, free num ∧ (free f.nextNum → num = f.nextNum) ∧
                exec (.launchCommit v k c relaxed) s = .next (shown s1 (taken num) (num + 1)))))))

/-- 22 R398, R399: which launch the distributor serves: among those that wait and have room, one of the least effective priority; of
these the VFs that have not used their weight in the round come first, the lowest number before the others; within a VF the commit
order. None where none has room. How the weighted turns are kept is the model's reading (log entry 59).

11 R231, R232, 22 R395, R396, R398, R400, R401, R405: placing the launch whose turn it is, ageing, and the steps of a gang. A placed
launch runs and its n tasks are queued in ascending order with the lids, cores, coordinates and arguments of the rules; a gang's launch
is RESERVED and starts at its tick T once it may go; a launch that is OUT takes its place again at its turn, unless its save area has
no valid word; what a COOP launch in dmode 0 had in its slots reads 0. T and C follow from the time that the reservation event carries,
and a cancel stamped at or after C ends a live launch (the model's own: log entry 60). -/
def Obligations.LaunchPlacement : Prop :=
  (∀ (s : State),
     let ready (q : Nat × Launch) : Prop := q ∈ s.launches ∧ q.2.st ∈ [LaunchSt.queued, .out] ∧ s.hasRoom q.1 = true
     let left (q : Nat × Launch) : Prop := Map.get 0 s.hub.rr (64 * q.2.eff + q.2.vf) < (s.part q.2.vf).wv
     ((∀ q, ¬ready q) → exec .launchPlace s = .next s) ∧
     (∀ l s1, s.nextLaunch = (some l, s1) →
       s1 = { s with hub := { s.hub with rr := s1.hub.rr } } ∧
       ∃ p, ready p ∧ p.1 = l ∧ (∀ q, ready q → p.2.eff ≤ q.2.eff) ∧
         (∀ q, ready q → q.2.eff = p.2.eff → q.2.vf = p.2.vf → p.2.order ≤ q.2.order) ∧
         (∀ q, ready q → q.2.eff = p.2.eff → left q → left p ∧ p.2.vf ≤ q.2.vf) ∧
         ((∀ q, ready q → q.2.eff = p.2.eff → ¬left q) → ∀ q, ready q → q.2.eff = p.2.eff → p.2.vf ≤ q.2.vf)) ∧
     (∀ q, ready q → ∃ l s1, s.nextLaunch = (some l, s1))) ∧
  (∀ (s s1 s2 : State) (l : Nat) (x : Launch) (stamp : Word),
     let put (s : State) (x : Launch) : State := { s with launches := Map.set s.launches l x }
     let a := stamp.toNat
     let ex := max 1 x.ex
     let ey := max 1 (x.ext.extractLsb' 21 21).toNat
     let begun (s u : State) : Prop :=
       (u.launch l).st = .running ∧ (u.launch l).placedAt = s.dtime ∧ u.nextUid = s.nextUid + x.n ∧
       (∀ q, q < s.nextUid → (u.task q).tid = (s.task q).tid ∧ (u.task q).rf = (s.task q).rf ∧ (u.task q).sy = (s.task q).sy) ∧
       ((∀ h ∈ 0 :: x.cores, s.queuedOnChip h + x.n ≤ 31) → u.mem = s.mem ∧
         (∀ q, q < s.nextUid → Map.get? u.tasks q = Map.get? s.tasks q) ∧
         ∀ i, i < x.n → (u.task (s.nextUid + i)).pl.life = .queued) ∧
       ∀ i, i < x.n → ∃ t g, Map.get? u.tasks (s.nextUid + i) = some t ∧
         g = (if x.core then (x.cores[i]?).getD 0
           else if x.gen then (x.active[drawIndex (draw (x.seed ^^^ 0x9A3C000000000001#64) t.tid.lid) x.active.length]?).getD 0
           else (x.cores[i * x.cores.length / x.n]?).getD 0) ∧
         t.pl.core = g ∧ t.tid.lid = BitVec.ofNat 64 (x.num.toNat * 2 ^ 32 + (if x.core then g else i)) ∧
         t.tid.kind = (if x.core then 1#4 else 0#4) ∧ t.tid.launch = l ∧ t.tid.entry = x.entry ∧ t.tid.args = x.args ∧ t.rf.pc = x.entry ∧
         t.sy.key = 0#64 ∧ t.sy.budOn = false ∧ (t.pl.life = .queued ∨ t.pl.life = .unqueued) ∧
         t.sy.lcoord = (if x.core then 0#64
           else BitVec.ofNat 64 (i % ex % 2 ^ 21 + i / ex % ey * 2 ^ 21 + i / (ex * ey) % 2 ^ 21 * 2 ^ 42))
     let back (u : State) : Prop :=
       (u.launch l).st = .running ∧ (u.launch l).preempt = 6 ∧ (u.launch l).placedAt = s.dtime ∧ (u.launch l).saved = [] ∧
       (u.launch l).savedCores = [] ∧ ∀ p ∈ x.saved, (∀ q ∈ p.2.slots, q ∈ (u.cluster p.1).slots) ∧ (∀ q ∈ p.2.regions, q ∈ (u.cluster p.1).regions)
     Map.get? s.launches l = some x →
     (s.nextLaunch = (some l, s1) →
       (x.st = .queued → x.npkg = 0 → ∃ u, exec .launchPlace s = .next u ∧ begun s u) ∧
       (x.st = .queued → x.npkg ≠ 0 → exec .launchPlace s =
         .next (put s1 { x with st := .reserved, waited := x.waited + (s.dtime - x.queuedAt) })) ∧
       (x.st = .out → exec (.launchRestore l) s = exec .launchPlace s ∧
         (x.savesClusters = false → ∃ u, exec (.launchRestore l) s = .next u ∧ back u ∧
           (x.savedCores = [] → (∀ cl ∈ x.clusterList, (put s { x with st := .running }).unitsUsed cl none ≤ (s.part x.vf).qunits) →
             s.MemOk → u.tasks = s.tasks ∧
             ∀ a, ((∃ p ∈ x.saved, ∃ q ∈ p.2.slots, opmBase p.1 q.1 ≤ a ∧ a < opmBase p.1 q.1 + 8192) → memGet u.mem a = 0#8) ∧
               ((∀ p ∈ x.saved, ∀ q ∈ p.2.slots, a < opmBase p.1 q.1 ∨ opmBase p.1 q.1 + 8192 ≤ a) →
                 memGet u.mem a = memGet s.mem a))) ∧
         (x.savesClusters = true → ∀ r, s1.hubRead (engineAgent x.vf (x.clusterList.headD 0)) x.sarea 8 = (r, s2) →
           (r.map (fun bs => field64 bs 0) ≠ some 0x000000005AFE0001#64 →
             ∃ u, exec (.launchRestore l) s = .next u ∧ (u.launch l).st = .flrAbort ∧ (u.launch l).tend = s.dtime) ∧
           (r.map (fun bs => field64 bs 0) = some 0x000000005AFE0001#64 → ∃ u, exec (.launchRestore l) s = .next u ∧ back u)))) ∧
     (x.st ≠ .out ∨ s.nextLaunch.1 ≠ some l → exec (.launchRestore l) s = .next s) ∧
     exec (.priorityAging l) s = .next (if x.st = .queued ∧ 1000000 * (x.aged + 1) ≤ (x.waited + (s.dtime - x.queuedAt)).toNat then
       put s { x with aged := x.aged + 1, eff := x.eff - 1 } else s) ∧
     exec (.gangReservation l stamp) s = .next (if x.st = .reserved ∧ x.gangC = 0#64 ∧ a ≤ s.dtime.toNat then
       put s { x with gangT := BitVec.ofNat 64 ((a + 20999) / 1000 * 1000), gangC := BitVec.ofNat 64 ((a + 20999) / 1000 * 1000 - 4000),
                      gangGo := false } else s) ∧
     exec (.gangGo l) s = .next (if x.st = .reserved ∧ x.gangC ≠ 0#64 ∧ x.gangC.toNat + 500 ≤ s.dtime.toNat then
       put s { x with gangGo := true } else s) ∧
     (x.st = .reserved → x.gangGo = true → x.gangT.toNat ≤ s.dtime.toNat → ∃ u, exec (.gangStart l) s = .next u ∧ begun s u) ∧
     (x.st ≠ .reserved ∨ x.gangGo = false ∨ s.dtime.toNat < x.gangT.toNat → exec (.gangStart l) s = .next s) ∧
     (let early := x.st = .reserved ∧ x.gangGo = false ∧ (x.gangC = 0#64 ∨ a < x.gangC.toNat)
      let late := x.st ∈ [LaunchSt.queued, .reserved, .running, .out] ∧ x.gangC ≠ 0#64 ∧ x.gangC.toNat ≤ a ∧ a ≤ s.dtime.toNat
      (early → exec (.gangCancel l stamp) s = .next (put s { x with
         st := .queued, queuedAt := s.dtime, order := s.headOrder, gangC := 0#64, gangT := 0#64, gangGo := false })) ∧
      (¬early → late → ∃ u, exec (.gangCancel l stamp) s = .next u ∧ (u.launch l).st = .flrAbort ∧ (u.launch l).tend = s.dtime ∧
         ∀ p ∈ u.tasks, p.2.tid.launch ≠ l) ∧
      (¬early → ¬late → exec (.gangCancel l stamp) s = .next s)))

/-- 01 R31, 11 R243, 13 R270, 16 R316, R328, 19 R351, 22 R394, R399, R402-R404: the steps of a pre-emption and the end of a launch.
That the halves of all the launch's cores change roles with the end of the incoming transfer, which one core's swap stands for, is
the model's reading (log entry 58), and from when a time slice is counted (log entry 59).

22 R406, 23 R407, R423: a function-level reset ends every live launch of the VF as FLR-ABORT, takes its tasks away, clears the
registers, clusters, CLM and operand memory of the VF, leaves other memory as it is, and tells the PF. A reset of the PF does so
for every VF and clears the PF's registers. That hub.sriov stays is the model's reading (log entry 63). -/
def Obligations.PreemptionAndReset : Prop :=
  (∀ (s : State) (l g u0 : Nat) (x : Launch),
     let put (s : State) (x : Launch) : State := { s with launches := Map.set s.launches l x }
     let free (x : Launch) : Prop := x.st = .running ∧ x.preempt = 0
     let handled := x.mode.getLsbD 7 = false ∧ x.pent ≠ 0#64
     let frozen (t : Task) : Prop := t.pl.life = .resident ∧ t.pl.run ≠ .out ∧ t.tid.launch = l ∧ t.tid.handler = false
     let held (h : Nat) : Prop := (s.launch h).st ∈ [LaunchSt.queued, .out] ∧ s.hasRoom h = false
     let handlers (again : Word) (u : State) : Prop :=
       ∀ i, i < x.active.length → ∃ t, Map.get? u.tasks (s.nextUid + i) = some t ∧ t.pl.core = (x.active[i]?).getD 0 ∧ t.tid.kind = 1#4 ∧
         t.sy.key = 0#64 ∧ t.rf.pc = x.pent ∧ t.tid.handler = true ∧ t.sy.budLeft = BitVec.ofNat 63 x.pbud ∧
         t.tid.lid = BitVec.ofNat 64 (x.num.toNat * 2 ^ 32 + t.pl.core) ∧
         t.tid.args = [again, x.sarea, BitVec.ofNat 64 (8 * (s.part x.vf).indexOf (clusterOf t.pl.core) + t.pl.core % 8)]
     Map.get? s.launches l = some x → (s.launches.map (·.1)).Nodup →
     ((free x ∧ ∃ h ∈ s.launches, held h.1 ∧ h.2.eff < x.eff ∧ s.blocksLaunch l h.1 = true) →
       exec (.preemption l) s = .next (put s { x with preempt := 2, preAt := s.dtime })) ∧
     (¬(free x ∧ ∃ h ∈ s.launches, held h.1 ∧ h.2.eff < x.eff ∧ s.blocksLaunch l h.1 = true) → exec (.preemption l) s = .next s) ∧
     (∀ h, held h → x.st = .running → x.eff = (s.launch h).eff → s.blocksLaunch l h = true →
       (∀ q ∈ s.launches, q.1 ≠ l → q.2.st = .running → q.2.eff = x.eff → s.blocksLaunch q.1 h = true → x.placedAt.toNat < q.2.placedAt.toNat) →
       exec (.sliceExpiry h) s = .next (if x.preempt = 0 ∧ 1000 * (s.part x.vf).slice ≤ (s.dtime - x.placedAt).toNat then
         put s { x with preempt := 2, preAt := s.dtime } else s)) ∧
     (x.preempt ≠ 2 ∨ (s.dtime - x.preAt).toNat < 1000 * (s.part x.vf).grace → exec (.graceExpiry l) s = .next s) ∧
     (x.preempt = 2 → 1000 * (s.part x.vf).grace ≤ (s.dtime - x.preAt).toNat → s.Numbered →
       (s.tasks.map (·.1)).Nodup →
       (∀ p ∈ s.tasks, frozen p.2 → p.2.tid.ord = false ∧ p.2.io.lq = [] ∧ p.2.io.sq = [] ∧ p.2.io.upds = []) →
       (∀ p ∈ s.tasks, p.2.tid.launch = l → p.2.pl.life = .exited ∨ (p.2.pl.life = .queued ∧ p.2.pl.saved = true) →
         s.provisional p.1 = false) →
       ∃ u, exec (.graceExpiry l) s = .next u ∧
         (∀ q t, Map.get? s.tasks q = some t → frozen t → (u.task q).pl.life = .resident ∧ (u.task q).pl.run = .out ∧
           (u.task q).pl.ctx = t.pl.ctx ∧
           (u.task q).pl.saved = true ∧ (u.task q).tid = t.tid ∧ (u.task q).rf.pc = t.rf.pc ∧ (∀ r, (u.task q).x r = t.x r)) ∧
         ((u.launch l).preempt = 4 ∧ handlers 0#64 u ∧ handled ∨ (u.launch l).preempt = 5 ∧ u.nextUid = s.nextUid ∧ ¬handled)) ∧
     (x.preempt = 5 → g ∈ x.cores → (∀ p ∈ s.launches, p.1 ≠ l → p.2.preempt ≠ 5) →
       (s.enginesIdle l = false → exec (.registerCacheSwap g) s = .next s) ∧
       (s.enginesIdle l = true → ∃ u, exec (.registerCacheSwap g) s = .next u ∧ (u.launch l).st = .out ∧ (u.launch l).preempt = 0 ∧
         (∀ h ∈ x.cores, (u.coreSt h).half = (s.coreSt h).half ∧ (u.coreSt h).swapDue = true) ∧
         (∀ p ∈ s.launches, 0 < p.2.order → (u.launch l).order < p.2.order) ∧
         (∀ h ∈ x.cores, ∀ q ∈ (u.coreSt h).binds, q.2.launch ≠ l) ∧
         (x.savesClusters = false → (∀ h ∈ x.cores, (s.coreSt h).postsOf l = []) → u.tasks = s.tasks ∧ ∀ cl, cl ∈ x.clusterList →
           (∀ q ∈ (u.cluster cl).regions, q.2.launch ≠ l) ∧
           ∀ q ∈ (s.cluster cl).slots, q.2 = l → ∀ a, opmBase cl q.1 ≤ a → a < opmBase cl q.1 + 8192 → memGet u.mem a = 0#8))) ∧
     (x.preempt = 6 → g ∈ x.cores → (∀ p ∈ s.launches, p.2.preempt ≠ 5 ∧ (p.1 ≠ l → p.2.preempt ≠ 6)) →
       ∃ u, exec (.registerCacheSwap g) s = .next u ∧
         (∀ h ∈ x.cores, (u.coreSt h).half = !(s.coreSt h).half ∧ (u.coreSt h).swapDue = false) ∧
         ((u.launch l).preempt = 7 ∧ handlers 1#64 u ∧ handled ∨ (u.launch l).preempt = 0 ∧ ¬handled)) ∧
     (∀ t, Map.get? s.tasks u0 = some t → t.tid.handler = true → t.live = true → t.sy.budOn = true → t.sy.budLeft = 0#63 →
       t.tid.launch = l → s.Numbered → ∃ u, exec (.coopHandlerBudgetEnd u0) s = .next u ∧ Map.get? u.tasks u0 = none ∧
         (u.launch l).kills = x.kills ∧ (u.launch l).krec = x.krec ∧
         (x.preempt = 4 → x.handlers = [u0] → (u.launch l).preempt = 5)) ∧
     ((x.st ≠ .running ∧ x.st ≠ .out) ∨ s.launchBusy l = true → exec (.launchEnd l) s = .next s) ∧
     ((x.st = .running ∨ x.st = .out) → (∀ p ∈ s.tasks, p.2.tid.launch ≠ l) → (∀ c ∈ s.clusters, ∀ q ∈ c.2.copyq, q.launch ≠ l) →
       (∀ c ∈ s.cores, ∀ o ∈ c.2.tileq, o.launch ≠ l) →
       ∃ u, exec (.launchEnd l) s = .next u ∧ (u.launch l).st = .done ∧ (u.launch l).tend = s.dtime ∧ (u.launch l).num = x.num ∧
         (∀ m ∈ u.msgs, m.launch ≠ l) ∧
         ∀ cl, (∀ q ∈ (u.cluster cl).groups, q.2.launch ≠ l) ∧ (∀ q ∈ (u.cluster cl).slots, q.2 ≠ l) ∧
           (∀ q ∈ (u.cluster cl).lineage, q.2.launch ≠ l) ∧ (∀ q ∈ (u.cluster cl).regions, q.2.launch ≠ l))) ∧
  (∀ (s : State) (v : Nat), (∀ w, (s.vf w).trace.en = false) → s.MemOk →
     let mine (x : Launch) : Prop := x.vf = v ∧ x.st ∈ [LaunchSt.queued, .reserved, .running, .out]
     let nums := (s.liveLaunches v).map (fun l => (s.launch l).num.setWidth 64)
     let scrubbed (a : Nat) : Prop :=
       ∃ cl ∈ (s.part v).clusters, (clmBase cl ≤ a ∧ a < clmBase cl + 2 ^ 21) ∨ (opmBase cl 0 ≤ a ∧ a < opmBase cl 0 + 2 ^ 22)
     (∃ u, exec (.functionLevelReset v) s = .next u ∧
       (∀ l x, Map.get? s.launches l = some x → mine x → (u.launch l).st = .flrAbort ∧ (u.launch l).tend = s.dtime ∧
         ∀ p ∈ u.tasks, p.2.tid.launch ≠ l) ∧
       u.vf v = { s.vf v with slots := [], relaxed := [], mreq := [], mrsp := [], mctl := 0#64, mres := 0#64, passed := false, reply := [], trace := {}, msix := [] } ∧
       (∀ cl ∈ (s.part v).clusters, u.cluster cl = {}) ∧
       (∀ a, scrubbed a → memGet u.mem a = 0#8) ∧
       ((∀ c ∈ s.cores, c.2.pendPosts = []) → ∀ a, ¬scrubbed a → memGet u.mem a = memGet s.mem a) ∧
       u.hub = (s.pfEvent 1 v (nums.headD 0#64) ((nums[1]?).getD 0#64)).hub ∧ u.dtime = s.dtime) ∧
     (∃ u, exec .pfFunctionLevelReset s = .next u ∧
       u.hub = { s.hub with
         window := [], pcmd := 0#64, pres := 0#64, grants := [], events := [], widx := 0, ridx := 0, unread := 0, lost := false,
         raised := u.hub.raised } ∧
       ∀ l x, Map.get? s.launches l = some x → 1 ≤ v → v ≤ 63 → mine x → (u.launch l).st = .flrAbort))

/-- 23 R411, R412, R419-R421, R423 (for the session identifiers and the content of an SPDM response, which the spec leaves open, free
values: log entry 3): what an answer to a mailbox request writes, and the effect of each request; SPDM requests over MCTP leave the
mailbox alone. A SETROOT that was sent whole is with the PF, whose answer to it is its verdict: status OK approves. The bytes of Busy and those before the measurements are log entry 107's (PRESUMED), the length of the rest of an SPDM
response is log entry 24's choice; that SETROOT takes any xroot is log entry 96's; the PF's window of a VF's mailbox is laid out as log entry 105
presumes. -/
def Obligations.HostRequests : Prop :=
  ∀ (s : State) (v session slot : Nat) (approved : Bool) (status : BitVec 16) (reply bs : List Byte) (key : BitVec 256) (model : Word)
    (off : Nat) (relaxed : Bool),
    let f := s.vf v
    let put (s : State) (x : Vf) : State := { s with vfs := Map.set s.vfs v x }
    let answered (s : State) (code : Nat) (bs : List Byte) : State :=
      put s { s.vf v with
        mrsp := padTo 256 bs, mres := BitVec.ofNat 64 ((f.mctl.extractLsb' 48 16).toNat * 2 ^ 48 + min 256 bs.length * 2 ^ 32 + code),
        mctl := (f.mctl &&& 0xFFFFFFFFFFFFFFFC#64) ||| 2#64, passed := false, reply := [], raised := 0 :: (s.vf v).raised }
    let op := (f.mctl.extractLsb' 16 16).toNat
    let len := (f.mctl.extractLsb' 32 16).toNat
    let busy := f.mctl.extractLsb' 0 2 = 1#2
    let told := s.pfEvent 2 v (BitVec.ofNat 64 op) (BitVec.ofNat 64 len)
    let toldOnce := if f.passed = true then s else told
    let spdmAfter (head : List Byte) (i : Instr) (s' : State) : Prop :=
      (¬(busy ∧ op = 0x10) → exec i s = .next s') ∧
      (busy → op = 0x10 → len = 0 ∨ 248 < len → exec i s = .next (answered s 3 [])) ∧
      (busy → op = 0x10 → 1 ≤ len → len ≤ 248 →
        ∃ bs : List Byte, head.length + bs.length ≤ 256 ∧
          exec i s = .next (answered { s' with freeCtr := s'.freeCtr + 1 + bs.length } 0 (head ++ bs)))
    let spdm (i : Instr) (s' : State) : Prop := spdmAfter [] i s'
    let pf (off : Nat) (bs : List Byte) := Instr.bar0Write 0 (0x10000 + 0x1000 * v + off) bs relaxed
    let window := 1 ≤ v ∧ v ≤ 63
    let withPf := f.passed = true ∧ busy
    let bound := ∃ x, f.sessions[session]? = some x ∧ x.finished = true
    let inSlot := 1 ≤ slot ∧ slot ≤ 15
    let noted (a : KeyStatus) : State := put s { f with keyAnswer := some a }
    (¬(busy ∧ op = 1) → exec (.setroot v approved) s = .next s) ∧
    (busy → op = 1 → len ≠ 8 → exec (.setroot v approved) s = .next (answered s 3 [])) ∧
    (busy → op = 1 → len = 8 → exec (.setroot v false) s = .next (answered toldOnce 1 [])) ∧
    (busy → op = 1 → len = 8 → exec (.setroot v true) s = .next (answered { toldOnce with
      vfs := Map.set s.vfs v { f with part := f.part.map (fun p => { p with xroot := field64 (padTo 256 f.mreq) 0 }) }
      ms := { s.ms with tlb := s.ms.tlb.filter (fun e => e.vf != v) } } 0 [])) ∧
    (¬(busy ∧ op = 2) → exec (.getcfg v) s = .next s) ∧
    (busy → op = 2 → exec (.getcfg v) s = .next (if len = 0 then answered s 0 (s.part v).record else answered s 3 [])) ∧
    (¬(busy ∧ op = 0x30 ∧ f.passed = false) → exec (.pfmsg v) s = .next s) ∧
    (busy → op = 0x30 → f.passed = false →
      exec (.pfmsg v) s = .next (if len ≤ 248 then put told { f with passed := true } else answered s 3 [])) ∧
    exec (.mailboxBadop v) s = .next (if busy ∧ op ≠ 1 ∧ op ≠ 2 ∧ op ≠ 0x10 ∧ op ≠ 0x30 then answered s 2 [] else s) ∧
    (¬withPf → exec (.pfMailboxAnswer v status reply) s = .next s) ∧
    (withPf → op ≠ 1 → exec (.pfMailboxAnswer v status reply) s = .next (answered s status.toNat (reply.take 256))) ∧
    (withPf → op = 1 → len = 8 → exec (.pfMailboxAnswer v status reply) s = exec (.setroot v (decide (status = 0#16))) s) ∧
    (window → withPf → 0x100 ≤ off → off + bs.length ≤ 0x200 → exec (pf off bs) s =
      .next (put s { f with reply := (padTo 256 f.reply).take (off - 0x100) ++ bs ++ (padTo 256 f.reply).drop (off - 0x100 + bs.length) })) ∧
    (window → withPf → op ≠ 1 → exec (pf 0x208 (leBytes 8 model.toNat)) s =
      .next (answered s (model.extractLsb' 0 16).toNat ((padTo 256 f.reply).take (model.extractLsb' 32 16).toNat))) ∧
    (window → withPf → op = 1 → len = 8 → exec (pf 0x208 (leBytes 8 model.toNat)) s =
      exec (.setroot v (decide (model.extractLsb' 0 16 = 0#16))) s) ∧
    (window → ¬withPf → off < 0x1000 → exec (pf off bs) s =
      .next (s.pfEvent 3 0 (BitVec.ofNat 64 (0x10000 + 0x1000 * v + off)) 0#64)) ∧
    (∀ i ∈ [Instr.getVersion v, .getCapabilities v, .negotiateAlgorithms v, .getDigests v, .getCertificate v, .challenge v], spdm i s) ∧
    spdmAfter (s.measureHead v) (.getMeasurements v) s ∧
    (4 ≤ f.sessions.length → exec (.keyExchange v) s = .next (if busy ∧ op = 0x10 then
      if len = 0 ∨ 248 < len then answered s 3 [] else answered s 0 [0x13#8, 0x7F#8, 3#8, 0#8] else s)) ∧
    (f.part = none → f.sessions.length < 4 → spdm (.keyExchange v) s) ∧
    (f.part ≠ none → f.sessions.length < 4 → ∃ id, id < 2 ^ 32 ∧
      spdm (.keyExchange v) ((put { s with freeCtr := s.freeCtr + 1 } { f with sessions := f.sessions ++ [{ id := id }] }).pfEvent 4 v
        (BitVec.ofNat 64 id) 0#64)) ∧
    spdm (.finish v session) (put s { f with sessions := f.sessions.modify session (fun (x : Session) => { x with finished := true }) }) ∧
    (f.sessions[session]? = none → spdm (.endSession v session) s) ∧
    (∀ x, f.sessions[session]? = some x → spdm (.endSession v session)
      ((put s { f with sessions := f.sessions.eraseIdx session }).pfEvent 4 v (BitVec.ofNat 64 x.id) 0#64)) ∧
    (¬inSlot → spdm (.keySlotLoad v session slot key model) s ∧ spdm (.keySlotClear v session slot) s) ∧
    (inSlot → ¬bound → spdm (.keySlotLoad v session slot key model) (noted .unbound) ∧ spdm (.keySlotClear v session slot) (noted .unbound)) ∧
    (inSlot → bound → Map.get? f.keys slot ≠ none → spdm (.keySlotLoad v session slot key model) (noted .occupied)) ∧
    (inSlot → bound → Map.get? f.keys slot = none → spdm (.keySlotLoad v session slot key model)
      (put s { f with keys := Map.set f.keys slot (key, model), keyAnswer := some .done })) ∧
    (inSlot → bound → s.liveLaunches v ≠ [] → spdm (.keySlotClear v session slot) (noted .inUse)) ∧
    (inSlot → bound → s.liveLaunches v = [] → spdm (.keySlotClear v session slot)
      (put s { f with keys := Map.del f.keys slot, keyAnswer := some .done }))

/-- 23 R413, R414, R420, R421: the order of the first checks of APPLY, what a record that passes them all makes of partition v, and DISSOLVE.
How checks 4 and 5 take links and tables is log entry 62's reading. -/
def Obligations.Partitions : Prop :=
  ∀ (s : State) (v : Nat),
    let w := padTo 256 s.hub.window
    let word (o : Nat) : Word := field64 w o
    let named (off n k : Nat) : Prop := k < n ∧ (leNat ((w.drop off).take (n / 8))).testBit k = true
    let done (r : Nat) : State := { s with hub := { s.hub with pres := BitVec.ofNat 64 r, pcmd := 0#64 } }
    let idle := s.isVf v = true ∧ ∀ p ∈ s.launches, p.2.vf = v → p.2.st.live = false
    let fields :=
      (word 0).extractLsb' 46 18 = 0#18 ∧ (word 0).extractLsb' 16 16 = 0#16 ∧ (word 0).extractLsb' 0 8 = 0#8 ∧
      ((word 0).extractLsb' 32 14).toNat ≤ 8192 ∧ (word 0).extractLsb' 8 8 ≠ 0#8 ∧
      1 ≤ ((word 8).extractLsb' 32 32).toNat ∧ ((word 8).extractLsb' 32 32).toNat ≤ 100 ∧
      100 ≤ ((word 8).extractLsb' 0 32).toNat ∧ ((word 8).extractLsb' 0 32).toNat ≤ 100000 ∧
      20 ≤ (word 0x18).toNat ∧ (word 0x18).toNat ≤ 45 ∧
      (word 0x10).extractLsb' 0 20 = 0#20 ∧ (word 0xF0).extractLsb' 0 6 = 0#6 ∧ (word 0xF8).extractLsb' 0 3 = 0#3
    let others (c : Nat) (of : Part → List Nat) : Prop := ∃ f ∈ s.vfs, f.1 ≠ v ∧ c ∈ of (s.part f.1)
    let scrubbed (u : State) (cl : Nat) : Prop :=
      u.cluster cl = {} ∧ ∀ a, (clmBase cl ≤ a ∧ a < clmBase cl + 2 ^ 21) ∨ (opmBase cl 0 ≤ a ∧ a < opmBase cl 0 + 2 ^ 22) → memGet u.mem a = 0#8
    (s.hub.pcmd ≠ BitVec.ofNat 64 (v + 0x100) → exec (.apply v) s = .next s) ∧
    (s.hub.pcmd ≠ BitVec.ofNat 64 (v + 0x200) → exec (.dissolve v) s = .next s) ∧
    (s.hub.pcmd = BitVec.ofNat 64 (v + 0x100) →
      (¬idle → exec (.apply v) s = .next (done 1)) ∧
      (idle → ¬fields → exec (.apply v) s = .next (done 2)) ∧
      (idle → fields → ((∀ k, ¬named 0x20 640 k) ∨ (∀ k, ¬named 0x70 1024 k)) → exec (.apply v) s = .next (done 3)) ∧
      (∀ k j l, idle → fields → named 0x20 640 k → named 0x70 1024 j → l ∈ s.askedPart.links →
        (∃ c, named 0x20 640 c ∧ (c / 10 ∈ s.hub.fenced ∨ others c (·.clusters))) ∨
        (∃ c, named 0x70 1024 c ∧ (c / 16 ∈ s.hub.fenced ∨ others c (·.slices))) → exec (.apply v) s = .next (done 4)) ∧
      (s.applyCheck v ≠ 0 → exec (.apply v) s = .next (done (s.applyCheck v))) ∧
      (s.applyCheck v = 0 → ∃ u p key, exec (.apply v) s = .next u ∧
        u.vf v = { s.vf v with part := some p, sessions := [], keys := [], nextNum := 1, key0 := key } ∧
        p.qunits = ((word 0).extractLsb' 32 14).toNat ∧ p.wv = ((word 0).extractLsb' 8 8).toNat ∧
        p.grace = ((word 8).extractLsb' 32 32).toNat ∧ p.slice = ((word 8).extractLsb' 0 32).toNat ∧ p.xroot = word 0x10 ∧
        p.b2 = ((word 0x18).extractLsb' 0 6).toNat ∧ (∀ c, c ∈ p.clusters ↔ named 0x20 640 c) ∧ p.clusters.Pairwise (· < ·) ∧
        (∀ c, c ∈ p.slices ↔ named 0x70 1024 c) ∧ p.permAt = word 0xF0 ∧ p.lmapAt = word 0xF8 ∧
        (∀ c ∈ p.clusters, c ∉ (s.part v).clusters → scrubbed u c) ∧
        (∀ c ∈ p.clusters, c ∈ (s.part v).clusters → (u.cluster c).slots = [] ∧ (u.cluster c).lineage = [] ∧
          (u.cluster c).regions = [] ∧ (u.cluster c).leaves = []) ∧ (∀ e ∈ u.ms.tlb, e.vf ≠ v) ∧
        u.hub.pres = 0#64 ∧ u.hub.pcmd = 0#64 ∧ u.tasks = s.tasks)) ∧
    (s.hub.pcmd = BitVec.ofNat 64 (v + 0x200) →
      (¬idle → exec (.dissolve v) s = .next (done 1)) ∧
      (idle → ∃ u, exec (.dissolve v) s = .next u ∧ u.vf v = { s.vf v with part := none, sessions := [], keys := [] } ∧
        (∀ c ∈ (s.part v).clusters, scrubbed u c) ∧
        (∀ a, a < 2 ^ 51 → (∃ x ∈ (s.part v).links, x.1 = s.hub.pkg ∧ x.1 * 64 + x.2 = a / 2 ^ 39) → memGet u.mem a = 0#8) ∧ (∀ e ∈ u.ms.tlb, e.vf ≠ v) ∧ u.hub.pres = 0#64 ∧ u.hub.pcmd = 0#64 ∧
        u.tasks = s.tasks))

/-- 23 R407, R410, R416, 06 R140: accesses of the host through BAR2 in a calm memory that no launch of dmode 1 or 2 tracks. A read or
atomic that the translation or tracking refuses is completed as Completer Abort, and it and a write so refused are logged (that tracking
refuses the access and waives the launch is log entry 61's reading); an AtomicOp at BAR0 (of the PF too, v = 0) or of another width is completed as Unsupported
Request and a misaligned one has no completion, and neither is logged (log entry 108, PRESUMED). -/
def Obligations.HostMemory : Prop :=
  ∀ (s s1 : State) (v n w l : Nat) (addr x cmp : Word) (op : HostAtomic) (bs : List Byte) (gs : List Seg) (e : XFault) (tc : TrackFault),
    let gives (s : State) (c : HostCpl) : State := { s with hostOut := c :: s.hostOut }
    let inside (n : Nat) : Prop := (s.vf v).part ≠ none ∧ addr.toNat + n ≤ 2 ^ (s.part v).b2
    let lost (s : State) : State := s.pfEvent 3 v addr (BitVec.ofNat 64 v)
    let old := (segLocs gs).map (memGet s1.mem)
    let new := match op with
      | .fetchAdd => leNat old + x.toNat
      | .swap => x.toNat
      | .cas => if leNat old = cmp.toNat % 2 ^ w then x.toNat else leNat old
      | .atBar0 => leNat old
    let memory := op ≠ .atBar0 ∧ inside (w / 8)
    let wide := w = 32 ∨ w = 64
    let rw_ : Need := { rd := true, w := true }
    (¬inside n → exec (.hostRead v addr n) s = .next s) ∧
    (¬inside bs.length → exec (.hostWrite v addr bs) s = .next s) ∧
    exec (.hostAtomicop v addr .atBar0 w x cmp) s = .next (if s.isVf v = true ∨ v = 0 then gives s .unsupported else s) ∧
    (op ≠ .atBar0 → ¬inside (w / 8) → exec (.hostAtomicop v addr op w x cmp) s = .next s) ∧
    (inside n → s.hostXlate v { rd := true } addr n = (.error e, s1) → exec (.hostRead v addr n) s = .next (gives (lost s1) .abort)) ∧
    (inside bs.length → s.hostXlate v { w := true } addr bs.length = (.error e, s1) → exec (.hostWrite v addr bs) s = .next (lost s1)) ∧
    (memory → ¬wide → exec (.hostAtomicop v addr op w x cmp) s = .next (gives s .unsupported)) ∧
    (memory → wide → addr.toNat % (w / 8) ≠ 0 → exec (.hostAtomicop v addr op w x cmp) s = .next s) ∧
    (memory → wide → addr.toNat % (w / 8) = 0 →
      (s.hostXlate v rw_ addr (w / 8) = (.error e, s1) → exec (.hostAtomicop v addr op w x cmp) s = .next (gives (lost s1) .abort)) ∧
      (s.hostXlate v rw_ addr (w / 8) = (.ok gs, s1) → s1.trackingLaunches v = [l] →
        s1.trackAccess l { lid := 0x0000FFFFFFFFFFFF#64 } none .both (trackedLocs gs) = .error tc →
        exec (.hostAtomicop v addr op w x cmp) s = .next (gives (lost (s1.waive l)) .abort))) ∧
    (inside bs.length → s.hostXlate v { w := true } addr bs.length = (.ok gs, s1) → s1.trackingLaunches v = [l] →
      s1.trackAccess l { lid := 0x0000FFFFFFFFFFFF#64 } none .write (trackedLocs gs) = .error tc →
      exec (.hostWrite v addr bs) s = .next (lost (s1.waive l))) ∧
    (inside n → s.hostXlate v { rd := true } addr n = (.ok gs, s1) → s1.trackingLaunches v = [l] →
      s1.trackAccess l { lid := 0x0000FFFFFFFFFFFF#64 } none .read (trackedLocs gs) = .error tc →
      exec (.hostRead v addr n) s = .next (gives (lost (s1.waive l)) .abort)) ∧
    (s1.Calm → s1.trackingLaunches v = [] →
      (inside n → s.hostXlate v { rd := true } addr n = (.ok gs, s1) →
        ∃ u, exec (.hostRead v addr n) s = .next u ∧ u.hostOut = .data old :: s1.hostOut ∧ u.mem = s1.mem ∧ u.tasks = s1.tasks) ∧
      (inside bs.length → s.hostXlate v { w := true } addr bs.length = (.ok gs, s1) →
        ∃ u, exec (.hostWrite v addr bs) s = .next u ∧ (∀ a, memGet u.mem a = bytesOver s1 ((segLocs gs).zip bs) a) ∧
          MemorySide s1 u ∧ ∀ t, TaskKept s1 u t) ∧
      (memory → wide → addr.toNat % (w / 8) = 0 → s.hostXlate v rw_ addr (w / 8) = (.ok gs, s1) →
        ∃ u, exec (.hostAtomicop v addr op w x cmp) s = .next u ∧ u.hostOut = .data old :: s1.hostOut ∧
          (∀ a, memGet u.mem a = bytesOver s1 ((segLocs gs).zip (leBytes (w / 8) (new % 2 ^ w))) a) ∧ ∀ t, TaskKept s1 u t))

/-- 22 R390, 23 R408, R411, R413, R417, R423, 24 R428, R429: what a write into BAR0 does at each register that takes one, the MSI-X table
and a part of a trace register too; any other is discarded and logged, as is a malformed command word of the PF; a write that takes in
both the end of one register's area and what follows acts as two. An event record to the PF, the trace registers with what rejects a
write to them, and a trace record. The PF's window of a VF's mailbox is spoken of in HostRequests. That a write of a part of a slot's last
word is discarded is log entry 73's reading; a SETROOT that is sent whole goes to the PF at once (23 R412). -/
def Obligations.HostRegisters : Prop :=
  ∀ (s s1 : State) (v off k : Nat) (x d2 d3 : Word) (bs cs : List Byte) (r : Bool) (code : Nat) (gs : List Seg) (e : XFault),
    let f := s.vf v
    let t := f.trace
    let put (s : State) (x : Vf) : State := { s with vfs := Map.set s.vfs v x }
    let hub (h : Hub) : State := { s with hub := h }
    let noted (k : Nat) : Vf := if r then { f with relaxed := k :: f.relaxed.filter (· != k) } else f
    let no (s : State) (off : Nat) : State := s.pfEvent 3 v (BitVec.ofNat 64 off) (BitVec.ofNat 64 v)
    let over_ (old : List Byte) (o : Nat) : List Byte := old.take o ++ bs ++ old.drop (o + bs.length)
    let whole := leBytes 8 x.toNat
    let pf := Instr.bar0Write 0
    let mail := f.mctl.extractLsb' 0 2 = 1#2
    let traced (s : State) (t : Trace) : State := put s { s.vf v with trace := t }
    let low := x.toNat % 2 ^ 32
    (s.pfEvent code v d2 d3 = hub { s.hub with
      events := Map.set s.hub.events s.hub.widx
        [BitVec.ofNat 64 (code + v * 2 ^ 16 + (if s.hub.lost then 2 ^ 63 else 0)), s.dtime, d2, d3]
      widx := (s.hub.widx + 1) % 64, unread := min 64 (s.hub.unread + 1), lost := decide (s.hub.unread = 64), raised := 0 :: s.hub.raised }) ∧
    (0x800 ≤ off → off + bs.length ≤ 0x900 → v = 0 → exec (pf off bs r) s = .next (if s.hub.pcmd = 0#64 then
      hub { s.hub with window := over_ (padTo 256 s.hub.window) (off - 0x800) } else no s off)) ∧
    (v = 0 → exec (pf 0x900 whole r) s = .next (if s.hub.pcmd = 0#64 ∧ x.toNat < 1024 ∧ x.toNat / 64 % 4 = 0 ∧
      (x.toNat / 256 = 1 ∨ x.toNat / 256 = 2) then hub { s.hub with pcmd := x } else no s 0x900)) ∧
    (k < 64 → exec (pf (0xA00 + 8 * k) whole r) s = .next (hub { s.hub with grants := Map.set s.hub.grants (64 * s.hub.pkg + k) x })) ∧
    (exec (pf 0x4808 whole r) s = .next (hub { s.hub with ridx := x.toNat % 64, unread := (s.hub.widx + 64 - x.toNat % 64) % 64 })) ∧
    (v = 0 → (0x900 < off ∧ off < 0xA00) ∨ off < 0x800 ∨ (0xC00 ≤ off ∧ off ≠ 0x4808 ∧ off < 0x11000) ∨ 0x50000 ≤ off ∨
      (off = 0x900 ∧ bs ≠ [] ∧ bs.length ≠ 8) ∨ (0x800 ≤ off ∧ off < 0x900 ∧ 0x900 < off + bs.length) ∨ (0xA00 ≤ off ∧ off < 0xC00 ∧ (bs.length ≠ 8 ∨ off % 8 ≠ 0)) →
      exec (pf off bs r) s = .next (no s off)) ∧
    (v ≠ 0 → s.isVf v = false → exec (.bar0Write v off bs r) s = .next s) ∧
    (v ≠ 0 → s.isVf v = true →
      (k < 8 → exec (.bar0Write v (0x1038 + 64 * k) whole r) s = exec (.launchCommit v k x r) s) ∧
      (k < 8 → bs ≠ [] → off + bs.length ≤ 0x38 → exec (.bar0Write v (0x1000 + 64 * k + off) bs r) s = .next (if s.slotBusy v k then
        no (put s (noted k)) (0x1000 + 64 * k + off) else put s { noted k with
          slots := Map.set f.slots k (over_ (padTo 64 (Map.get [] f.slots k)) off) })) ∧
      (k < 8 → bs ≠ [] → off < 0x40 → 0x38 < off + bs.length → off + bs.length ≤ 0x40 → 0x38 < off ∨ off + bs.length < 0x40 →
        exec (.bar0Write v (0x1000 + 64 * k + off) bs r) s = .next (no (put s (noted k)) (0x1000 + 64 * k + off))) ∧
      (off + bs.length ≤ 0x100 → exec (.bar0Write v (0x3000 + off) bs r) s = .next (if mail then no s (0x3000 + off) else
        put s { f with mreq := over_ (padTo 256 f.mreq) off })) ∧
      (exec (.bar0Write v 0x3200 whole r) s = .next (if mail then no s 0x3200 else
        let sent : Vf := { f with mctl := (x &&& 0xFFFFFFFFFFFF0000#64) ||| 1#64, passed := false }
        if x.extractLsb' 16 16 = 1#16 ∧ x.extractLsb' 32 16 = 8#16 then
          { s.pfEvent 2 v 1#64 8#64 with vfs := Map.set s.vfs v { sent with passed := true } }
        else put s sent)) ∧
      ((0x100 ≤ off ∧ 0x100 < off + bs.length ∧ off + bs.length ≤ 0x200) ∨ (0x200 ≤ off ∧ off + bs.length ≤ 0x208 ∧ bs.length ≠ 8) ∨
        (0x208 ≤ off ∧ off < 0x1000) → off + bs.length ≤ 0x1000 →
        exec (.bar0Write v (0x3000 + off) bs r) s = .next (no s (0x3000 + off))) ∧
      (off < 0x2000 → off + bs.length ≤ 0x2000 → ∃ u, exec (.bar0Write v (0x4000 + off) bs r) s = .next u ∧
        (∀ o, Map.get 0#8 (u.vf v).msix o = ((if off ≤ o then bs[o - off]? else none).getD (Map.get 0#8 f.msix o))) ∧
        u = put s { f with msix := (u.vf v).msix }) ∧
      (k < 5 → off < 8 → off + bs.length ≤ 8 → exec (.bar0Write v (0x2000 + 8 * k + off) bs r) s =
        if (k = 2 ∨ k = 3) ∧ 4 ≤ off then .next s
        else exec (.bar0Write v (0x2000 + 8 * k) (over_ (leBytes 8 (t.reg (8 * k)).toNat) off) r) s) ∧
      (off ∈ [0x1000, 0x1200, 0x2000, 0x2008, 0x2010, 0x2018, 0x2020, 0x2028, 0x3000, 0x3100, 0x3200, 0x3208, 0x4000, 0x6000] →
        bs ≠ [] → cs ≠ [] → bs.length ≤ off → ∀ u, exec (.bar0Write v (off - bs.length) bs r) s = .next u → u.isVf v = true →
        exec (.bar0Write v (off - bs.length) (bs ++ cs) r) s = exec (.bar0Write v off cs r) u) ∧
      (bs ≠ [] → (off + bs.length ≤ 0x1000 ∨ (0x1200 ≤ off ∧ off + bs.length ≤ 0x2000) ∨ (0x2028 ≤ off ∧ off + bs.length ≤ 0x3000) ∨ 0x6000 ≤ off) →
        exec (.bar0Write v off bs r) s = .next (no s off)) ∧
      exec (.bar0Write v 0x2000 whole r) s = exec (.tbaseWrite v x) s ∧ exec (.bar0Write v 0x2008 whole r) s = exec (.tsizeWrite v x) s ∧
      exec (.bar0Write v 0x2010 whole r) s = exec (.twidxWrite v x) s ∧ exec (.bar0Write v 0x2018 whole r) s = exec (.tridxWrite v x) s ∧
      exec (.bar0Write v 0x2020 whole r) s = exec (.traceControlWrite v x) s) ∧
    (t.en = true ∨ x.toNat % 4096 ≠ 0 → exec (.tbaseWrite v x) s = .next (no s 0x2000)) ∧
    (t.en = false → x.toNat % 4096 = 0 → t.tsize = 0#32 → exec (.tbaseWrite v x) s = .next (traced s { t with tbase := x })) ∧
    (t.en = false → x.toNat % 4096 = 0 → t.tsize ≠ 0#32 →
      (s.hostXlate v { w := true } x (32 * t.tsize.toNat) = (.ok gs, s1) → exec (.tbaseWrite v x) s = .next (traced s1 { t with tbase := x })) ∧
      (s.hostXlate v { w := true } x (32 * t.tsize.toNat) = (.error e, s1) → exec (.tbaseWrite v x) s = .next (no s1 0x2000))) ∧
    (t.en = true ∨ (∀ j, 6 ≤ j → j ≤ 24 → low ≠ 2 ^ j) → exec (.tsizeWrite v x) s = .next (no s 0x2008)) ∧
    (t.en = false → 6 ≤ k → k ≤ 24 → low = 2 ^ k →
      (s.hostXlate v { w := true } t.tbase (32 * 2 ^ k) = (.ok gs, s1) → exec (.tsizeWrite v x) s = .next (traced s1 { t with tsize := BitVec.ofNat 32 low })) ∧
      (s.hostXlate v { w := true } t.tbase (32 * 2 ^ k) = (.error e, s1) → exec (.tsizeWrite v x) s = .next (no s1 0x2008))) ∧
    exec (.twidxWrite v x) s = .next (if low < t.tsize.toNat then traced s { t with twidx := BitVec.ofNat 32 low } else no s 0x2010) ∧
    exec (.tridxWrite v x) s = .next (if low < t.tsize.toNat then traced s { t with tridx := BitVec.ofNat 32 low } else no s 0x2018) ∧
    exec (.traceControlWrite v x) s = .next (traced s { t with en := x.getLsbD 0, cls := x.extractLsb' 1 7 }) ∧
    (∀ cls type g tag lid detail, t.en = true → t.cls.getLsbD (cls - 1) = true → t.tsize ≠ 0#32 →
      (t.dropped = 0 → (t.twidx.toNat + 1) % t.tsize.toNat ≠ t.tridx.toNat →
        s.trace v cls type tag g lid detail =
          let u := (s.hubWrite (hostAgent v) (t.tbase + BitVec.ofNat 64 (32 * t.twidx.toNat))
            (wordBytes [BitVec.ofNat 64 (type + tag.toNat * 2 ^ 8 + g * 2 ^ 16), s.dtime, lid, detail])).2
          put u { u.vf v with trace := { t with twidx := BitVec.ofNat 32 ((t.twidx.toNat + 1) % t.tsize.toNat) } }) ∧
      ((t.twidx.toNat + 1) % t.tsize.toNat = t.tridx.toNat →
        s.trace v cls type tag g lid detail = put s { f with trace := { t with
          drop := if t.drop = 0xFFFFFFFF#32 then t.drop else t.drop + 1#32, dropped := t.dropped + 1 } }))

/-- 08 R194, 24 R425-R427: attaching, stopping and resuming, with no trace ring enabled, and each access of the debugger. Nothing but
setting a breakpoint happens on a core that is not stopped. That a core is stopped also where no launch on it has dstop, and that it
goes on with the last of its stopped contexts, is log entry 65's reading; how the words of a region are named is log entry 109's choice,
and that a resume clears bits [1:0] of the address it is given is log entry 112's. -/
def Obligations.Debugging : Prop :=
  ∀ (s s1 : State) (g u off n k i : Nat) (v : Word) (gs : List Seg) (e : XFault) (h : BitVec 4) (w : BitVec 32) (bs : List Byte) (at_ : ResumeAt) (what : DebugAccess)
    (entry : Word) (tag : Option (BitVec 6)) (lid : Option (BitVec 48)) (stop : Bool) (t : Task) (y : Region) (fld : RegionField),
    let cl := clusterOf g
    let who : Agent := { engineAgent ((s.ownerOf cl).getD 0) cl with queueArea := true }
    let gives (s : State) (bs : List Byte) : State := { s with hostOut := .data bs :: s.hostOut }
    let at_pc : Option Word := match at_ with | .same => some t.rf.pc | .addr a => some (a &&& 0xFFFFFFFFFFFFFFFC#64) | .next => none
    let stops (t : Task) : Prop := t.pl.life = .resident ∧ t.pl.core = g ∧ t.pl.run ≠ .out ∧ t.tid.handler = false ∧
      (s.launch t.tid.launch).mode.getLsbD 8 = true
    let quiet := ∀ x, (s.vf x).trace.en = false
    let seen := s.hub.attached = true ∧ (s.coreSt g).stopped = true
    let shown := Map.get? s.tasks u = some t ∧ t.pl.core = g ∧ (t.pl.stopped = true ∨ t.pl.life ≠ .resident ∨ t.pl.run = .out)
    let put (t : Task) : State := { s with tasks := Map.set s.tasks u t }
    exec .debuggerAttach s = .next { s with hub := { s.hub with attached := true } } ∧
    (s.hub.attached = false → exec (.debugStop g) s = .next s) ∧
    (s.hub.attached = true → quiet → (s.tasks.map (·.1)).Nodup → ∃ x, exec (.debugStop g) s = .next x ∧ (x.coreSt g).stopped = true ∧
      x.mem = s.mem ∧ (∀ c, c ≠ g → x.coreSt c = s.coreSt c) ∧
      ∀ q t, Map.get? s.tasks q = some t → (stops t → Map.get? x.tasks q = some { t with pl := { t.pl with stopped := true } }) ∧
        (¬stops t → Map.get? x.tasks q = some t)) ∧
    (Map.get? s.tasks u = some t → t.pl.stopped = false → exec (.debugResume u at_) s = .next s) ∧
    (Map.get? s.tasks u = some t → t.pl.stopped = true → t.pl.reserve = none → s.Numbered → quiet →
      ∃ x, exec (.debugResume u at_) s = .next x ∧ (x.task u).pl.stopped = false ∧
        (x.task u).pl.run = (if t.pl.run = .out then .out else .ready) ∧ (x.task u).tid = t.tid ∧
        (∀ a, (x.task u).x a = t.x a) ∧ (∀ p, at_pc = some p → (x.task u).rf.pc = p) ∧
        (at_ = .next → ({ s with cur := u }).fetchWords t.rf.pc 1 = (.ok [w], s1) →
          (x.task u).rf.pc = t.rf.pc + BitVec.ofNat 64 (lenBytes (w.extractLsb' 0 2)))) ∧
    (¬seen → (∀ i e t l x, what ≠ .setBreak i e t l x) → exec (.debugAccess g what) s = .next s) ∧
    (s.hub.attached = true → i < 8 → exec (.debugAccess g (.setBreak i entry tag lid stop)) s = .next { s with
      cores := Map.set s.cores g { s.coreSt g with
        breaks := Map.set (s.coreSt g).breaks i { entry := entry, tag := tag, lid := lid.map (·.setWidth 64), stop := stop } } }) ∧
    (seen →
      (s.debugRead ((s.ownerOf cl).getD 0) cl v n = (bs, s1) → exec (.debugAccess g (.readMem v n)) s = .next (gives s1 bs)) ∧
      (s.xlate who { rd := true } v n = (.ok gs, s1) → s.Calm → ∃ x, exec (.debugAccess g (.readMem v n)) s = .next x ∧
        x.hostOut = .data ((segLocs gs).map (memGet s.mem)) :: s.hostOut ∧ x.tasks = s.tasks ∧ x.mem = s.mem) ∧
      (s.xlate who { rd := true } v n = (.error e, s1) → exec (.debugAccess g (.readMem v n)) s = .next (gives s1 [])) ∧
      exec (.debugAccess g (.writeMem v bs)) s = .next (s.hubWrite who v bs).2 ∧
      (off + n ≤ 2 ^ 21 → exec (.debugAccess g (.readClm off n)) s =
        .next (gives s ((List.range n).map (fun j => memGet s.mem (clmBase cl + off + j))))) ∧
      (off + bs.length ≤ 2 ^ 21 → s.Calm → ∃ x, exec (.debugAccess g (.writeClm off bs)) s = .next x ∧
        (∀ a, memGet x.mem a = bytesOver s ((locRange (clmBase cl + off) bs.length).zip bs) a) ∧ MemorySide s x ∧ ∀ q, TaskKept s x q) ∧
      (k < 512 → off + n ≤ 8192 → exec (.debugAccess g (.readOpm k off n)) s =
        .next (gives s ((List.range n).map (fun j => memGet s.mem (opmBase cl k + off + j))))) ∧
      (k < 512 → off + bs.length ≤ 8192 → s.MemOk → ∃ x, exec (.debugAccess g (.writeOpm k off bs)) s = .next x ∧ x.tasks = s.tasks ∧
        ∀ a, memGet x.mem a = bytesOver s ((locRange (opmBase cl k + off) bs.length).zip bs) a) ∧
      (i < 32768 → exec (.debugAccess g (.readLeaf i)) s = .next (gives s (leBytes 8 (Map.get 0#64 (s.cluster cl).leaves i).toNat))) ∧
      (i < 32768 → exec (.debugAccess g (.writeLeaf i v)) s = .next { s with
        clusters := Map.set s.clusters cl { s.cluster cl with leaves := Map.set (s.cluster cl).leaves i v } }) ∧
      (Map.get? (s.cluster cl).regions k = some y →
        exec (.debugAccess g (.readRegion k fld)) s = .next (gives s (leBytes 8 (y.field fld).toNat)) ∧
        ∃ x, exec (.debugAccess g (.writeRegion k fld v)) s = .next x ∧ Map.get? (x.cluster cl).regions k = some (y.setField v fld) ∧
          x = { s with clusters := x.clusters }) ∧
      y.field .clock = y.clock ∧ y.field .count = y.count ∧ y.field .committed = y.committed ∧ y.field .look = y.look ∧
      y.setField v .clock = { y with clock := v } ∧ y.setField v .count = { y with count := v } ∧
      (Map.get? (s.cluster cl).regions k = none → exec (.debugAccess g (.readRegion k fld)) s = .next s ∧
        exec (.debugAccess g (.writeRegion k fld v)) s = .next s) ∧
      (shown → exec (.debugAccess g (.readHandle u h)) s = .next (gives s (leBytes 8 (t.hreg h).toNat)) ∧
        (t.pl.saved = false →
          exec (.debugAccess g (.writeHandle u h v)) s = .next (put { t with rf := { t.rf with h := Map.set t.rf.h h.toNat v } })) ∧
        (∃ x, exec (.debugAccess g (.writeHandle u h v)) s = .next x ∧ (x.task u).hreg h = v) ∧
        (off < 0x2000 → t.pl.saved = false →
          exec (.debugAccess g (.readImage u off)) s = .next (gives s (leBytes 8 (leNat (((s.imageOfTask u).drop off).take 8) % 2 ^ 64))) ∧
          (i < 8 → ∃ x, exec (.debugAccess g (.writeImage u (8 * i) v)) s = .next x ∧ Map.get 0#64 (x.task u).rf.g i = v ∧
            (∀ j, j < 8 → j ≠ i → Map.get 0#64 (x.task u).rf.g j = Map.get 0#64 t.rf.g j) ∧ (x.task u).tid = t.tid ∧ x.mem = s.mem))))

/-- 25 R434-R437: a start leaves the device as after reset but for host memory, device time, the package number and the start record; which
step words of the record move on, and how: one of every unit of each step that is reached; what a failing or missing step of the package
does; the record's maps. CLEARSTART empties the record where no partition exists; a word that the record does not list reads as zeros
beside its step and unit. That a unit without a result passes, that a step of the package is needed and is never skipped, and that the
fabric has 128 edges are log entry 64's readings. -/
def Obligations.Starting : Prop :=
  ∀ (s : State) (xs : List StepResult) (k w : Nat),
    let package (k : Nat) : Prop := k ∈ [1, 2, 7, 9]
    let alternative (k : Nat) : Prop := 4 ≤ k ∧ k ≤ 8
    let word (u : State) (k w : Nat) : StartRec := (u.hub.record.steps.find? (fun r => r.step == k && r.unit == BitVec.ofNat 16 w)).getD
      { step := k, unit := BitVec.ofNat 16 w }
    let units (k : Nat) : Nat := if package k then 1 else if k = 8 then 16 else if k = 6 then 128 else 64
    let formOf (k w : Nat) : BitVec 2 :=
      let o := word s k w
      if o.form = 2#2 then 2#2 else if o.result = 0#8 then o.form else if o.form = 0#2 ∧ alternative k then 1#2
      else if package k then o.form else 2#2
    let code (o : StartOutcome) : BitVec 8 := match o with | .pass => 0#8 | .fail => 1#8 | .timeout => 2#8
    let taken (k w : Nat) (o : StartOutcome) : StartRec :=
      let old := word s k w
      { step := k, unit := BitVec.ofNat 16 w, form := formOf k w
        result := if formOf k w = 2#2 then old.result else code o
        starts := if old.form = formOf k w then (if old.starts = 0xFFFF#16 then old.starts else old.starts + 1#16) else 1#16 }
    let result (k w : Nat) : Option StartOutcome := (xs.find? (fun x => x.step == k && x.unit == w)).map (·.outcome)
    let passed (k : Nat) : Prop := ∃ o, result k 0 = some o ∧ ((taken k 0 o).result = 0#8 ∨ (alternative k ∧ formOf k 0 ≠ 1#2))
    let reached (k : Nat) : Prop := ∀ j, j < k → package j → passed j
    let fenced (r : StartRec) : Prop := r.form = 2#2 ∨ r.result ≠ 0#8
    (∃ u, exec (.startSequence xs) s = .next u ∧ u.tasks = [] ∧ u.launches = [] ∧ u.vfs = [] ∧ u.clusters = [] ∧ u.cores = [] ∧
      u.msgs = [] ∧ u.dtime = s.dtime ∧ u.hub.pkg = s.hub.pkg ∧ (s.MemOk → ∀ a, isHost a = true → memGet u.mem a = memGet s.mem a) ∧
      (∀ a, isHost a = false → memGet u.mem a = 0#8) ∧
      (u.hub.halted = true ↔ ¬reached 10) ∧
      (w < units k → 1 ≤ k → k ≤ 9 →
        (¬reached k ∨ (package k ∧ result k w = none) → word u k w = word s k w) ∧
        (reached k → ¬package k ∨ result k w ≠ none → word u k w = taken k w ((result k w).getD .pass) ∧
          word u k w ∈ u.hub.record.steps)) ∧
      (∀ d, d ∈ u.hub.fenced ↔ ∃ r ∈ u.hub.record.steps, r.step = 3 ∧ r.unit.toNat = d ∧ fenced r) ∧
      (∀ d, d ∈ u.hub.fencedLinks ↔ ∃ r ∈ u.hub.record.steps, (r.step = 4 ∨ r.step = 5) ∧ r.unit.toNat = d ∧ fenced r) ∧
      (∀ d, d ∈ u.hub.fencedPorts ↔ ∃ r ∈ u.hub.record.steps, r.step = 8 ∧ r.unit.toNat = d ∧ fenced r) ∧
      (∀ d, d < 64 → (u.hub.record.dies.getLsbD d = true ↔ d ∈ u.hub.fenced)) ∧
      (∀ d, d < 64 → (u.hub.record.links.getLsbD d = true ↔ d ∈ u.hub.fencedLinks)) ∧
      (∀ d, d < 16 → (u.hub.record.ports.getLsbD d = true ↔ d ∈ u.hub.fencedPorts))) ∧
    exec .clearstart s = .next (if ∃ f ∈ s.vfs, f.2.part ≠ none then s else { s with hub := { s.hub with record := {} } })

/-- 06 R125, R132, R136, R137, 07 R164, 25 R439, R440: stretches of the clock, which change no result; soft errors; a write reaching a die in
causal order, whose clock takes the write's, and what the die sees then; a pin that is lifted, with what an L1 still held of its line; the
bound of 64 instructions. Which word of which unit each soft error poisons is log entry 30's reading, the wait at the bound log entry
68's, the order of a die's flights, and that a replica shows the later arrival of concurrent writes, log entry 18's. -/
def Obligations.PowerErrorsAndReplicas : Prop :=
  ∀ (s : State) (cl v u k loc die i slot g : Nat) (w : EngineWord) (unit : EccUnit) (f : Flight) (c : Host.Cell) (b : Byte) (t : Task) (r : FaultRec)
    (rs : List FaultRec) (p : Pin) (q : L1Piece),
    let hub (h : Hub) : State := { s with hub := h }
    let ms (m : MemSt) : State := { s with ms := m }
    let code : Nat := match unit with
      | .l1 => 1 | .l2 => 2 | .clm => 3 | .operand => 4 | .regCache => 5 | .icache => 6 | .garnet => 7 | .tables => 8 | .dram => 9
    let lag := Map.get [] s.ms.lagging die
    let now := Map.set s.ms.clocks die (clockJoin (Map.get [] s.ms.clocks die) f.stamp)
    let due (n : Nat) : Prop := n + 65 ≤ t.pl.retired
    let again : Prop := f.home = false ∧ f.src ≠ die ∧ clockOf (Map.get [] s.ms.clocks die) f.src < clockOf f.stamp f.src
    exec (.droopStretch cl) s = .next { s with clusters := Map.set s.clusters cl { s.cluster cl with droop := true } } ∧
    exec (.stretchRelease cl) s = .next { s with clusters := Map.set s.clusters cl { s.cluster cl with droop := false } } ∧
    exec .powerLimitStretch s = .next (hub { s.hub with powerStretch := true }) ∧
    exec .powerLimitRelease s = .next (hub { s.hub with powerStretch := false }) ∧
    exec (.softError (.corrected v)) s = .next { s with vfs := Map.set s.vfs v { s.vf v with corrected := (s.vf v).corrected + 1 } } ∧
    exec (.softError (.poison unit loc)) s =
      .next (ms { s.ms with poison := (loc / 4, code) :: s.ms.poison.filter (fun p => p.1 != loc / 4) }) ∧
    (Map.get? s.tasks u = some t → exec (.softError (.poisonSlot u slot)) s =
      .next { s with tasks := Map.set s.tasks u { t with rf := { t.rf with bad := slot :: t.rf.bad.filter (· != slot) } } }) ∧
    exec (.softError (.poisonCached g loc)) s = .next (if Map.get? (Map.get [] s.ms.icache g) loc = none then s else
      ms { s.ms with ibad := (g, loc) :: s.ms.ibad.filter (fun p => p != (g, loc)) }) ∧
    exec (.softError (.poisonEngine cl w)) s =
      .next { s with clusters := Map.set s.clusters cl { s.cluster cl with bad := w :: (s.cluster cl).bad.filter (· != w) } } ∧
    (s.ms.pins[k]? = none → exec (.pinLift k) s = .next s) ∧
    (s.ms.pins[k]? = some p →
      (s.ms.l1 = [] → s.ms.lagging = [] → exec (.pinLift k) s = .next (ms { s.ms with pins := s.ms.pins.filter (fun x => x.line != p.line) })) ∧
      ∃ x, exec (.pinLift k) s = .next x ∧ (∀ y ∈ x.ms.pins, y ∈ s.ms.pins ∧ y.line ≠ p.line) ∧
        (∀ y ∈ x.ms.l1, y ∈ s.ms.l1 ∧ ¬(coreSees p.core y.unit = true ∧ y.onLines [p.line] = true)) ∧
        (s.ms.l1 = [q] → coreSees p.core q.unit = true → q.onLines [p.line] = true → s.MemOk → s.ms.reds = [] → s.ms.keyed = [] → s.ms.base = [] → q.keys = [] →
          x.ms.l1 = [] ∧ ∀ a, memGet x.mem a = bytesOver s q.cells a)) ∧
    ((s.flightsTo die)[k]? = none → exec (.replicaApply die k) s = .next s) ∧
    ((s.flightsTo die)[k]? = some (i, f) →
      (∀ e ∈ (s.flightsTo die).take k, clockOf e.2.stamp e.2.src ≤ clockOf f.stamp e.2.src → exec (.replicaApply die k) s = .next s) ∧
      ((∀ e ∈ (s.flightsTo die).take k, clockOf f.stamp e.2.src < clockOf e.2.stamp e.2.src) → f.ser = 0 →
        ((lag.map (·.1)).Nodup → (f.cells.map (·.1)).Nodup → ∃ x, exec (.replicaApply die k) s = .next x ∧ x.mem = s.mem ∧
          x.ms.clocks = now ∧ x.tasks = s.tasks ∧ (∀ d, d ≠ die → ∀ a, x.seen d a = s.seen d a) ∧
          ∀ a, x.seen die a = (if again ∨ (cellGet lag a).isSome = true then cellGet f.cells a else none).getD (s.seen die a)) ∧
        (f.cells = [c] → cellGet lag c.1 = none → ¬again → exec (.replicaApply die k) s = .next (ms { s.ms with
          flights := s.ms.flights.eraseIdx i, clocks := now, lagging := Map.set s.ms.lagging die lag })) ∧
        (f.cells = [c] → again ∨ cellGet lag c.1 = some b → (∀ e ∈ s.ms.flights.eraseIdx i, e.die = die → ∀ x ∈ e.cells, x.1 / 8 ≠ c.1 / 8) →
          (∀ x ∈ lag, x.1 ≠ c.1 → x.1 / 8 ≠ c.1 / 8) → exec (.replicaApply die k) s = .next (ms (if memGet s.mem c.1 = c.2 then
            { s.ms with flights := s.ms.flights.eraseIdx i, clocks := now, lagging := Map.set s.ms.lagging die (cellDel lag c.1) }
          else { s.ms with
            flights := s.ms.flights.eraseIdx i ++ [{ die := die, src := die, cells := [(c.1, memGet s.mem c.1)] }]
            clocks := now, lagging := Map.set s.ms.lagging die (c :: cellDel lag c.1) }))) ∧
        (f.cells = [c] → again ∨ cellGet lag c.1 = some b → (∃ e ∈ s.ms.flights.eraseIdx i, e.die = die ∧ ∃ x ∈ e.cells, x.1 / 8 = c.1 / 8) →
          exec (.replicaApply die k) s = .next (ms { s.ms with
            flights := s.ms.flights.eraseIdx i, clocks := now, lagging := Map.set s.ms.lagging die (c :: cellDel lag c.1) })))) ∧
    (Map.get? s.tasks u = some t → t.live = true → t.pl.saved = false → t.pl.pend = none →
      ((∃ e ∈ t.io.sq, due e.issued) ∨ (∃ e ∈ t.io.upds, due e.issued) → exec (.sfq64Bound u) s =
        .next { s with cur := u, tasks := Map.set s.tasks u { t with pl := { t.pl with run := .wait } } }) ∧
      ((∀ e ∈ t.io.sq, ¬due e.issued) → (∀ e ∈ t.io.upds, ¬due e.issued) →
        ((∀ e ∈ t.io.sfq, e.told = true ∨ ¬due e.issued) → exec (.sfq64Bound u) s = .next s) ∧
        (t.io.sfq = r :: rs → r.told = false → due r.issued → s.provisional u = false → t.sy.trapLevel ≠ 3 →
          ∃ x, exec (.sfq64Bound u) s = .next x ∧ (x.task u).rf.pc = (t.sy.bank t.sy.trapLevel).tvec ∧
            ((x.task u).sy.bank t.sy.trapLevel).ret = t.rf.pc ∧ (x.task u).sy.tl = BitVec.ofNat 2 t.sy.trapLevel ∧ x.mem = s.mem)))
end

