-- ==== Sys2Proof/Laws/PerInstr.lean ====
section
/-! SUPPORT. Per instruction: the fields that an instruction is encoded in decode to that instruction (03 R63, R64).
Steps of the device have no fields. -/
namespace Sys2Proof.Laws.FieldRoundTrip

/-- The fields of a well-formed instruction decode to it. -/
def Statement (i : Instr) : Prop := i.wf = true → (encodeRaw i).bind decodeRaw = some i

/-- An entry's operands read back from its own fields give the instruction. -/
theorem of_pick {i : Instr} {r : Raw} (he : encodeRaw i = some r) (hp : pick r = some i) : Statement i := by
  intro h
  simp [he, decodeRaw, hp, h]
/-- A step of the device is never well formed. -/
theorem of_device {i : Instr} (h : i.wf = false) : Statement i := by
  intro h'
  simp [h] at h'

/-! Fields read back from the words they were put into. -/

theorem join (s k m : Nat) {w : Nat} (x : BitVec w) :
    x.extractLsb' (s + k) m ++ x.extractLsb' s k = x.extractLsb' s (m + k) := by
  apply BitVec.eq_of_getLsbD_eq
  intro i hi
  rw [BitVec.getLsbD_append]
  split
  · rename_i h
    simp only [BitVec.getLsbD_extractLsb', h, hi, decide_true]
  · rename_i h
    simp only [BitVec.getLsbD_extractLsb', show i - k < m by omega, hi, decide_true, Bool.true_and]
    congr 1
    omega
theorem whole {w : Nat} (x : BitVec w) : x.extractLsb' 0 w = x := by
  apply BitVec.eq_of_getLsbD_eq
  intro i hi
  simp [hi]
theorem imm14 (x : BitVec 14) : x.extractLsb' 5 9 ++ x.extractLsb' 0 5 = x := (join 0 5 9 x).trans (whole x)
theorem disp11 (x : BitVec 11) : x.extractLsb' 2 9 ++ x.extractLsb' 0 2 = x := (join 0 2 9 x).trans (whole x)
theorem disp24 (x : BitVec 24) :
    x.extractLsb' 15 9 ++ x.extractLsb' 10 5 ++ x.extractLsb' 5 5 ++ x.extractLsb' 0 5 = x := by
  have h1 : x.extractLsb' 15 9 ++ x.extractLsb' 10 5 = x.extractLsb' 10 14 := join 10 5 9 x
  have h2 : x.extractLsb' 10 14 ++ x.extractLsb' 5 5 = x.extractLsb' 5 19 := join 5 5 14 x
  have h3 : x.extractLsb' 5 19 ++ x.extractLsb' 0 5 = x.extractLsb' 0 24 := join 0 5 19 x
  exact h1 ▸ h2 ▸ h3.trans (whole x)
theorem cond_disp : ∀ (x : BitVec 2) (k : BitVec 3), (x ++ k).extractLsb' 0 3 = k := by decide
theorem pad1_4 : ∀ x : BitVec 4, (0#1 ++ x).extractLsb' 0 4 = x := by decide
theorem pad1_3 : ∀ x : BitVec 3, (0#1 ++ x).extractLsb' 0 3 = x := by decide
theorem pad2_3 : ∀ x : BitVec 3, (0#2 ++ x).extractLsb' 0 3 = x := by decide
theorem pad2_2 : ∀ x : BitVec 2, (0#2 ++ x).extractLsb' 0 2 = x := by decide
theorem pad26 : ∀ x : BitVec 6, (0#26 ++ x).extractLsb' 0 6 = x := by decide
theorem pad29 : ∀ x : BitVec 3, (0#29 ++ x).extractLsb' 0 3 = x := by decide
theorem claim_br : ∀ x y : BitVec 3, (0#26 ++ x ++ y).extractLsb' 0 3 = y := by decide
theorem claim_bc : ∀ x y : BitVec 3, (0#26 ++ x ++ y).extractLsb' 3 3 = x := by decide
theorem pad_bool : ∀ b : Bool, (0#3 ++ BitVec.ofBool b)[0] = b := by decide
theorem bool_low : ∀ (b : Bool) (x : BitVec 3), (BitVec.ofBool b ++ x).extractLsb' 0 3 = x := by decide
theorem bool_high : ∀ (b : Bool) (x : BitVec 3), (BitVec.ofBool b ++ x)[3] = b := by decide
theorem bind_chan : ∀ (o : Bool) (x : BitVec 2), (1#1 ++ BitVec.ofBool o ++ x)[3] = true := by decide
theorem bind_post : ∀ (o : Bool) (x : BitVec 2), (0#1 ++ BitVec.ofBool o ++ x)[3] = false := by decide
theorem bind_ord : ∀ (b : BitVec 1) (o : Bool) (x : BitVec 2), (b ++ BitVec.ofBool o ++ x)[2] = o := by decide
theorem bind_idx : ∀ (b : BitVec 1) (o : Bool) (x : BitVec 2), (b ++ BitVec.ofBool o ++ x).extractLsb' 0 2 = x := by decide
theorem low {m n : Nat} (x : BitVec m) (y : BitVec n) : (x ++ y).extractLsb' 0 n = y := by
  apply BitVec.eq_of_getLsbD_eq
  intro i hi
  rw [BitVec.getLsbD_extractLsb', BitVec.getLsbD_append]
  simp [hi]
theorem pad20 (x : BitVec 12) : (0#20 ++ x).extractLsb' 0 12 = x := low _ _
theorem pad24 : ∀ x : BitVec 8, (0#24 ++ x).extractLsb' 0 8 = x := by decide
theorem width_bit : ∀ (rm : BitVec 2) (w : Bool) (k : BitVec 6), (rm ++ BitVec.ofBool w ++ k)[6] = w := by decide
theorem fn_low : ∀ (rm : BitVec 2) (w : Bool) (k : BitVec 6),
    (rm ++ BitVec.ofBool w ++ k).toNat % 64 = k.toNat := by decide
theorem fn_high : ∀ (rm : BitVec 2) (w : Bool) (k : BitVec 6), (rm ++ BitVec.ofBool w ++ k).extractLsb' 7 2 = rm := by
  decide
theorem cond_low : ∀ (x : BitVec 2) (k : BitVec 3), (x ++ k).toNat % 8 = k.toNat := by decide
theorem cond_high : ∀ (x : BitVec 2) (k : BitVec 3), (x ++ k).extractLsb' 3 2 = x := by decide
theorem tag_code (t : Tag) : Tag.ofCode t.code = t := by cases t <;> rfl

set_option linter.unusedSimpArgs false
set_option Elab.async false

theorem add (d a b : BitVec 5) : Statement (.add d a b) := of_pick rfl (by simp [pick, pick00])
theorem sub (d a b : BitVec 5) : Statement (.sub d a b) := of_pick rfl (by simp [pick, pick00])
theorem and (d a b : BitVec 5) : Statement (.and d a b) := of_pick rfl (by simp [pick, pick00])
theorem or (d a b : BitVec 5) : Statement (.or d a b) := of_pick rfl (by simp [pick, pick00])
theorem xor (d a b : BitVec 5) : Statement (.xor d a b) := of_pick rfl (by simp [pick, pick00])
theorem andn (d a b : BitVec 5) : Statement (.andn d a b) := of_pick rfl (by simp [pick, pick00])
theorem sll (d a b : BitVec 5) : Statement (.sll d a b) := of_pick rfl (by simp [pick, pick00])
theorem srl (d a b : BitVec 5) : Statement (.srl d a b) := of_pick rfl (by simp [pick, pick00])
theorem sra (d a b : BitVec 5) : Statement (.sra d a b) := of_pick rfl (by simp [pick, pick00])
theorem addw (d a b : BitVec 5) : Statement (.addw d a b) := of_pick rfl (by simp [pick, pick00])
theorem subw (d a b : BitVec 5) : Statement (.subw d a b) := of_pick rfl (by simp [pick, pick00])
theorem min (d a b : BitVec 5) : Statement (.min d a b) := of_pick rfl (by simp [pick, pick00])
theorem max (d a b : BitVec 5) : Statement (.max d a b) := of_pick rfl (by simp [pick, pick00])
theorem minn (d a b : BitVec 5) : Statement (.minn d a b) := of_pick rfl (by simp [pick, pick00])
theorem maxn (d a b : BitVec 5) : Statement (.maxn d a b) := of_pick rfl (by simp [pick, pick00])
theorem addi (d a : BitVec 5) (imm : BitVec 14) : Statement (.addi d a imm) := of_pick rfl (by simp [pick, pick01,
      Raw.imm14, imm14])
theorem addiLit (d a : BitVec 5) (lit : BitVec 64) : Statement (.addiLit d a lit) := of_pick rfl (by simp [pick,
      pick01])
theorem andi (d a : BitVec 5) (src : Src) : Statement (.andi d a src) := by
  cases src <;> exact of_pick rfl (by simp [pick, pick01, Raw.src, Src.len, Src.immPart, Src.litPart])
theorem ori (d a : BitVec 5) (src : Src) : Statement (.ori d a src) := by
  cases src <;> exact of_pick rfl (by simp [pick, pick01, Raw.src, Src.len, Src.immPart, Src.litPart])
theorem xori (d a : BitVec 5) (src : Src) : Statement (.xori d a src) := by
  cases src <;> exact of_pick rfl (by simp [pick, pick01, Raw.src, Src.len, Src.immPart, Src.litPart])
theorem slli (d a : BitVec 5) (n : BitVec 6) : Statement (.slli d a n) := of_pick rfl (by simp [pick, pick01, pad26])
theorem srli (d a : BitVec 5) (n : BitVec 6) : Statement (.srli d a n) := of_pick rfl (by simp [pick, pick01, pad26])
theorem srai (d a : BitVec 5) (n : BitVec 6) : Statement (.srai d a n) := of_pick rfl (by simp [pick, pick01, pad26])
theorem li (d : BitVec 5) (imm : BitVec 14) : Statement (.li d imm) := of_pick rfl (by simp [pick, pick04,
      Raw.imm14, imm14])
theorem liLit (d : BitVec 5) (lit : BitVec 64) : Statement (.liLit d lit) := of_pick rfl (by simp [pick, pick04])
theorem mul (d a b : BitVec 5) : Statement (.mul d a b) := of_pick rfl (by simp [pick, pick02])
theorem mulh (d a b : BitVec 5) : Statement (.mulh d a b) := of_pick rfl (by simp [pick, pick02])
theorem mulhn (d a b : BitVec 5) : Statement (.mulhn d a b) := of_pick rfl (by simp [pick, pick02])
theorem div (d a b : BitVec 5) : Statement (.div d a b) := of_pick rfl (by simp [pick, pick02])
theorem divn (d a b : BitVec 5) : Statement (.divn d a b) := of_pick rfl (by simp [pick, pick02])
theorem rem (d a b : BitVec 5) : Statement (.rem d a b) := of_pick rfl (by simp [pick, pick02])
theorem remn (d a b : BitVec 5) : Statement (.remn d a b) := of_pick rfl (by simp [pick, pick02])
theorem mulw (d a b : BitVec 5) : Statement (.mulw d a b) := of_pick rfl (by simp [pick, pick02])
theorem divw (d a b : BitVec 5) : Statement (.divw d a b) := of_pick rfl (by simp [pick, pick02])
theorem remw (d a b : BitVec 5) : Statement (.remw d a b) := of_pick rfl (by simp [pick, pick02])
theorem clz (d a : BitVec 5) : Statement (.clz d a) := of_pick rfl (by simp [pick, pick03])
theorem ctz (d a : BitVec 5) : Statement (.ctz d a) := of_pick rfl (by simp [pick, pick03])
theorem popc (d a : BitVec 5) : Statement (.popc d a) := of_pick rfl (by simp [pick, pick03])
theorem rev8 (d a : BitVec 5) : Statement (.rev8 d a) := of_pick rfl (by simp [pick, pick03])
theorem rotl (d a b : BitVec 5) : Statement (.rotl d a b) := of_pick rfl (by simp [pick, pick03])
theorem rotr (d a b : BitVec 5) : Statement (.rotr d a b) := of_pick rfl (by simp [pick, pick03])
theorem bext (d a b : BitVec 5) : Statement (.bext d a b) := of_pick rfl (by simp [pick, pick03])
theorem bdep (d a b : BitVec 5) : Statement (.bdep d a b) := of_pick rfl (by simp [pick, pick03])
theorem seq (d a b : BitVec 5) : Statement (.seq d a b) := of_pick rfl (by simp [pick, pick05])
theorem sne (d a b : BitVec 5) : Statement (.sne d a b) := of_pick rfl (by simp [pick, pick05])
theorem slt (d a b : BitVec 5) : Statement (.slt d a b) := of_pick rfl (by simp [pick, pick05])
theorem sltn (d a b : BitVec 5) : Statement (.sltn d a b) := of_pick rfl (by simp [pick, pick05])
theorem sel (d a b : BitVec 5) : Statement (.sel d a b) := of_pick rfl (by simp [pick, pick05])
theorem fadd (rm : BitVec 2) (w : Bool) (d a b : BitVec 5) : Statement (.fadd rm w d a b) := of_pick rfl (by simp
      [pick, pick08, width_bit, fn_low, fn_high])
theorem fsub (rm : BitVec 2) (w : Bool) (d a b : BitVec 5) : Statement (.fsub rm w d a b) := of_pick rfl (by simp
      [pick, pick08, width_bit, fn_low, fn_high])
theorem fmul (rm : BitVec 2) (w : Bool) (d a b : BitVec 5) : Statement (.fmul rm w d a b) := of_pick rfl (by simp
      [pick, pick08, width_bit, fn_low, fn_high])
theorem fdiv (rm : BitVec 2) (w : Bool) (d a b : BitVec 5) : Statement (.fdiv rm w d a b) := of_pick rfl (by simp
      [pick, pick08, width_bit, fn_low, fn_high])
theorem fsqrt (rm : BitVec 2) (w : Bool) (d a : BitVec 5) : Statement (.fsqrt rm w d a) := of_pick rfl (by simp
      [pick, pick08, width_bit, fn_low, fn_high])
theorem fmin (w : Bool) (d a b : BitVec 5) : Statement (.fmin w d a b) := of_pick rfl (by simp [pick, pick08,
      width_bit, fn_low, fn_high, pad2_3, pad2_2])
theorem fmax (w : Bool) (d a b : BitVec 5) : Statement (.fmax w d a b) := of_pick rfl (by simp [pick, pick08,
      width_bit, fn_low, fn_high, pad2_3, pad2_2])
theorem fsgnj (w : Bool) (d a b : BitVec 5) : Statement (.fsgnj w d a b) := of_pick rfl (by simp [pick, pick08,
      width_bit, fn_low, fn_high, pad2_3, pad2_2])
theorem fsgnjn (w : Bool) (d a b : BitVec 5) : Statement (.fsgnjn w d a b) := of_pick rfl (by simp [pick, pick08,
      width_bit, fn_low, fn_high, pad2_3, pad2_2])
theorem ffma (rm : BitVec 2) (w : Bool) (d a b c : BitVec 5) : Statement (.ffma rm w d a b c) := of_pick rfl (by
      simp [pick, pick08, width_bit, fn_low, fn_high])
theorem ffms (rm : BitVec 2) (w : Bool) (d a b c : BitVec 5) : Statement (.ffms rm w d a b c) := of_pick rfl (by
      simp [pick, pick08, width_bit, fn_low, fn_high])
theorem ffnma (rm : BitVec 2) (w : Bool) (d a b c : BitVec 5) : Statement (.ffnma rm w d a b c) := of_pick rfl (by
      simp [pick, pick08, width_bit, fn_low, fn_high])
theorem fcvt (rm : BitVec 2) (w : Bool) (d a : BitVec 5) : Statement (.fcvt rm w d a) := of_pick rfl (by simp
      [pick, pick09, width_bit, fn_low, fn_high])
theorem ftoi (rm : BitVec 2) (w : Bool) (d a : BitVec 5) : Statement (.ftoi rm w d a) := of_pick rfl (by simp
      [pick, pick09, width_bit, fn_low, fn_high])
theorem ftoiw (rm : BitVec 2) (w : Bool) (d a : BitVec 5) : Statement (.ftoiw rm w d a) := of_pick rfl (by simp
      [pick, pick09, width_bit, fn_low, fn_high])
theorem fton (rm : BitVec 2) (w : Bool) (d a : BitVec 5) : Statement (.fton rm w d a) := of_pick rfl (by simp
      [pick, pick09, width_bit, fn_low, fn_high])
theorem ftonw (rm : BitVec 2) (w : Bool) (d a : BitVec 5) : Statement (.ftonw rm w d a) := of_pick rfl (by simp
      [pick, pick09, width_bit, fn_low, fn_high])
theorem itof (rm : BitVec 2) (w : Bool) (d a : BitVec 5) : Statement (.itof rm w d a) := of_pick rfl (by simp
      [pick, pick09, width_bit, fn_low, fn_high])
theorem ntof (rm : BitVec 2) (w : Bool) (d a : BitVec 5) : Statement (.ntof rm w d a) := of_pick rfl (by simp
      [pick, pick09, width_bit, fn_low, fn_high])
theorem fround (rm : BitVec 2) (w : Bool) (d a : BitVec 5) : Statement (.fround rm w d a) := of_pick rfl (by simp
      [pick, pick09, width_bit, fn_low, fn_high])
theorem fclass (w : Bool) (d a : BitVec 5) : Statement (.fclass w d a) := of_pick rfl (by simp [pick, pick09,
      width_bit, fn_low, fn_high, pad2_3, pad2_2])
theorem feq (w : Bool) (d a b : BitVec 5) : Statement (.feq w d a b) := of_pick rfl (by simp [pick, pick0A,
      width_bit, fn_low, fn_high, pad2_3, pad2_2])
theorem flt (w : Bool) (d a b : BitVec 5) : Statement (.flt w d a b) := of_pick rfl (by simp [pick, pick0A,
      width_bit, fn_low, fn_high, pad2_3, pad2_2])
theorem fle (w : Bool) (d a b : BitVec 5) : Statement (.fle w d a b) := of_pick rfl (by simp [pick, pick0A,
      width_bit, fn_low, fn_high, pad2_3, pad2_2])
theorem funord (w : Bool) (d a b : BitVec 5) : Statement (.funord w d a b) := of_pick rfl (by simp [pick, pick0A,
      width_bit, fn_low, fn_high, pad2_3, pad2_2])
theorem beq (a b : BitVec 5) (disp : BitVec 11) : Statement (.beq a b disp) := of_pick rfl (by simp [pick, pick10,
      Raw.disp11, disp11, cond_disp, cond_high])
theorem bne (a b : BitVec 5) (disp : BitVec 11) : Statement (.bne a b disp) := of_pick rfl (by simp [pick, pick10,
      Raw.disp11, disp11, cond_disp, cond_high])
theorem blt (a b : BitVec 5) (disp : BitVec 11) : Statement (.blt a b disp) := of_pick rfl (by simp [pick, pick10,
      Raw.disp11, disp11, cond_disp, cond_high])
theorem bge (a b : BitVec 5) (disp : BitVec 11) : Statement (.bge a b disp) := of_pick rfl (by simp [pick, pick10,
      Raw.disp11, disp11, cond_disp, cond_high])
theorem bltn (a b : BitVec 5) (disp : BitVec 11) : Statement (.bltn a b disp) := of_pick rfl (by simp [pick,
      pick10, Raw.disp11, disp11, cond_disp, cond_high])
theorem bgen (a b : BitVec 5) (disp : BitVec 11) : Statement (.bgen a b disp) := of_pick rfl (by simp [pick,
      pick10, Raw.disp11, disp11, cond_disp, cond_high])
theorem bany (a b : BitVec 5) (disp : BitVec 11) : Statement (.bany a b disp) := of_pick rfl (by simp [pick,
      pick10, Raw.disp11, disp11, cond_disp, cond_high])
theorem bnone (a b : BitVec 5) (disp : BitVec 11) : Statement (.bnone a b disp) := of_pick rfl (by simp [pick,
      pick10, Raw.disp11, disp11, cond_disp, cond_high])
theorem j (disp : BitVec 24) : Statement (.j disp) := of_pick rfl (by simp [pick, pick11, Raw.disp24, disp24])
theorem call (n : BitVec 4) (target : BitVec 64) : Statement (.call n target) := of_pick rfl (by simp [pick, pick11])
theorem jr (a : BitVec 5) : Statement (.jr a) := of_pick rfl (by simp [pick, pick12])
theorem callr (n : BitVec 4) (a : BitVec 5) : Statement (.callr n a) := of_pick rfl (by simp [pick, pick12, pad1_4,
      pad1_3])
theorem ret  : Statement (.ret) := of_pick rfl (by simp [pick, pick12])
theorem trap (a : BitVec 5) : Statement (.trap a) := of_pick rfl (by simp [pick, pick13])
theorem tret  : Statement (.tret) := of_pick rfl (by simp [pick, pick13])
theorem ld (d a : BitVec 5) (imm : BitVec 14) : Statement (.ld d a imm) := of_pick rfl (by simp [pick, pick18,
      Raw.imm14, imm14])
theorem ldX (t : Tag) (acq : Bool) (scope : BitVec 3) (d a : BitVec 5) (disp : Src) : Statement (.ldX t acq scope d
      a disp) := by
  cases disp <;> exact of_pick rfl (by simp [pick, pick18, tag_code, Raw.src, Src.len, Src.immPart, Src.litPart])
theorem ldIndexed (t : Tag) (acq : Bool) (scope : BitVec 3) (d a b : BitVec 5) (sh : BitVec 2) : Statement
      (.ldIndexed t acq scope d a b sh) := of_pick rfl (by simp [pick, pick18, tag_code, pad2_3, pad2_2])
theorem st (d a : BitVec 5) (imm : BitVec 14) : Statement (.st d a imm) := of_pick rfl (by simp [pick, pick19,
      Raw.imm14, imm14])
theorem stX (t : Tag) (rel : Bool) (scope : BitVec 3) (d a : BitVec 5) (disp : Src) : Statement (.stX t rel scope d
      a disp) := by
  cases disp <;> exact of_pick rfl (by simp [pick, pick19, tag_code, Raw.src, Src.len, Src.immPart, Src.litPart])
theorem stIndexed (t : Tag) (rel : Bool) (scope : BitVec 3) (d a b : BitVec 5) (sh : BitVec 2) : Statement
      (.stIndexed t rel scope d a b sh) := of_pick rfl (by simp [pick, pick19, tag_code, pad2_3, pad2_2])
theorem amoadd (t : Tag) (acq rel : Bool) (scope : BitVec 3) (d a b : BitVec 5) (disp : Src) : Statement (.amoadd t
      acq rel scope d a b disp) := by
  cases disp <;> exact of_pick rfl (by simp [pick, pick1A, tag_code, Raw.src, Src.len, Src.immPart, Src.litPart])
theorem amoand (t : Tag) (acq rel : Bool) (scope : BitVec 3) (d a b : BitVec 5) (disp : Src) : Statement (.amoand t
      acq rel scope d a b disp) := by
  cases disp <;> exact of_pick rfl (by simp [pick, pick1A, tag_code, Raw.src, Src.len, Src.immPart, Src.litPart])
theorem amoor (t : Tag) (acq rel : Bool) (scope : BitVec 3) (d a b : BitVec 5) (disp : Src) : Statement (.amoor t
      acq rel scope d a b disp) := by
  cases disp <;> exact of_pick rfl (by simp [pick, pick1A, tag_code, Raw.src, Src.len, Src.immPart, Src.litPart])
theorem amoxor (t : Tag) (acq rel : Bool) (scope : BitVec 3) (d a b : BitVec 5) (disp : Src) : Statement (.amoxor t
      acq rel scope d a b disp) := by
  cases disp <;> exact of_pick rfl (by simp [pick, pick1A, tag_code, Raw.src, Src.len, Src.immPart, Src.litPart])
theorem amoswap (t : Tag) (acq rel : Bool) (scope : BitVec 3) (d a b : BitVec 5) (disp : Src) : Statement (.amoswap
      t acq rel scope d a b disp) := by
  cases disp <;> exact of_pick rfl (by simp [pick, pick1A, tag_code, Raw.src, Src.len, Src.immPart, Src.litPart])
theorem amocas (t : Tag) (acq rel : Bool) (scope : BitVec 3) (d a b c : BitVec 5) (disp : Src) : Statement (.amocas
      t acq rel scope d a b c disp) := by
  cases disp <;> exact of_pick rfl (by simp [pick, pick1A, tag_code, Raw.src, Src.len, Src.immPart, Src.litPart])
theorem amomin (t : Tag) (acq rel : Bool) (scope : BitVec 3) (d a b : BitVec 5) (disp : Src) : Statement (.amomin t
      acq rel scope d a b disp) := by
  cases disp <;> exact of_pick rfl (by simp [pick, pick1A, tag_code, Raw.src, Src.len, Src.immPart, Src.litPart])
theorem amomax (t : Tag) (acq rel : Bool) (scope : BitVec 3) (d a b : BitVec 5) (disp : Src) : Statement (.amomax t
      acq rel scope d a b disp) := by
  cases disp <;> exact of_pick rfl (by simp [pick, pick1A, tag_code, Raw.src, Src.len, Src.immPart, Src.litPart])
theorem amominn (t : Tag) (acq rel : Bool) (scope : BitVec 3) (d a b : BitVec 5) (disp : Src) : Statement (.amominn
      t acq rel scope d a b disp) := by
  cases disp <;> exact of_pick rfl (by simp [pick, pick1A, tag_code, Raw.src, Src.len, Src.immPart, Src.litPart])
theorem amomaxn (t : Tag) (acq rel : Bool) (scope : BitVec 3) (d a b : BitVec 5) (disp : Src) : Statement (.amomaxn
      t acq rel scope d a b disp) := by
  cases disp <;> exact of_pick rfl (by simp [pick, pick1A, tag_code, Raw.src, Src.len, Src.immPart, Src.litPart])
theorem amofadd (t : Tag) (acq rel : Bool) (scope : BitVec 3) (d a b : BitVec 5) (disp : Src) : Statement (.amofadd
      t acq rel scope d a b disp) := by
  cases disp <;> exact of_pick rfl (by simp [pick, pick1A, tag_code, Raw.src, Src.len, Src.immPart, Src.litPart])
theorem redadd (t : Tag) (rel : Bool) (scope : BitVec 3) (a b : BitVec 5) (disp : Src) : Statement (.redadd t rel
      scope a b disp) := by
  cases disp <;> exact of_pick rfl (by simp [pick, pick1B, tag_code, Raw.src, Src.len, Src.immPart, Src.litPart])
theorem redmin (t : Tag) (rel : Bool) (scope : BitVec 3) (a b : BitVec 5) (disp : Src) : Statement (.redmin t rel
      scope a b disp) := by
  cases disp <;> exact of_pick rfl (by simp [pick, pick1B, tag_code, Raw.src, Src.len, Src.immPart, Src.litPart])
theorem redmax (t : Tag) (rel : Bool) (scope : BitVec 3) (a b : BitVec 5) (disp : Src) : Statement (.redmax t rel
      scope a b disp) := by
  cases disp <;> exact of_pick rfl (by simp [pick, pick1B, tag_code, Raw.src, Src.len, Src.immPart, Src.litPart])
theorem redand (t : Tag) (rel : Bool) (scope : BitVec 3) (a b : BitVec 5) (disp : Src) : Statement (.redand t rel
      scope a b disp) := by
  cases disp <;> exact of_pick rfl (by simp [pick, pick1B, tag_code, Raw.src, Src.len, Src.immPart, Src.litPart])
theorem redor (t : Tag) (rel : Bool) (scope : BitVec 3) (a b : BitVec 5) (disp : Src) : Statement (.redor t rel
      scope a b disp) := by
  cases disp <;> exact of_pick rfl (by simp [pick, pick1B, tag_code, Raw.src, Src.len, Src.immPart, Src.litPart])
theorem redxor (t : Tag) (rel : Bool) (scope : BitVec 3) (a b : BitVec 5) (disp : Src) : Statement (.redxor t rel
      scope a b disp) := by
  cases disp <;> exact of_pick rfl (by simp [pick, pick1B, tag_code, Raw.src, Src.len, Src.immPart, Src.litPart])
theorem redfadd (t : Tag) (rel : Bool) (scope : BitVec 3) (a b : BitVec 5) (disp : Src) : Statement (.redfadd t rel
      scope a b disp) := by
  cases disp <;> exact of_pick rfl (by simp [pick, pick1B, tag_code, Raw.src, Src.len, Src.immPart, Src.litPart])
theorem fence (acq rel : Bool) (scope : BitVec 3) : Statement (.fence acq rel scope) := of_pick rfl (by simp [pick,
      pick1C])
theorem drainst  : Statement (.drainst) := of_pick rfl (by simp [pick, pick1C])
theorem waitc (lim : BitVec 32) : Statement (.waitc lim) := of_pick rfl (by simp [pick, pick1C])
theorem nop  : Statement (.nop) := of_pick rfl (by simp [pick, pick36])
theorem brk  : Statement (.brk) := of_pick rfl (by simp [pick, pick36])
theorem kpoint  : Statement (.kpoint) := of_pick rfl (by simp [pick, pick36])
theorem icinv  : Statement (.icinv) := of_pick rfl (by simp [pick, pick36])
theorem tlbinv (a : BitVec 5) : Statement (.tlbinv a) := of_pick rfl (by simp [pick, pick36])
theorem srr (d : BitVec 5) (n : BitVec 12) : Statement (.srr d n) := of_pick rfl (by simp [pick, pick36, pad20])
theorem srw (a : BitVec 5) (n : BitVec 12) : Statement (.srw a n) := of_pick rfl (by simp [pick, pick36, pad20])
theorem perfStart (group : BitVec 8) : Statement (.perfStart group) := of_pick rfl (by simp [pick, pick36, pad24])
theorem perfStop (a : BitVec 5) : Statement (.perfStop a) := of_pick rfl (by simp [pick, pick36])
theorem vadd (t : Tag) (sc : Bool) (mask : BitVec 3) (d a b : BitVec 5) : Statement (.vadd t sc mask d a b) :=
      of_pick rfl (by simp [pick, pick20, tag_code, pad_bool])
theorem vsub (t : Tag) (sc : Bool) (mask : BitVec 3) (d a b : BitVec 5) : Statement (.vsub t sc mask d a b) :=
      of_pick rfl (by simp [pick, pick20, tag_code, pad_bool])
theorem vmul (t : Tag) (sc : Bool) (mask : BitVec 3) (d a b : BitVec 5) : Statement (.vmul t sc mask d a b) :=
      of_pick rfl (by simp [pick, pick20, tag_code, pad_bool])
theorem vmulh (t : Tag) (sc : Bool) (mask : BitVec 3) (d a b : BitVec 5) : Statement (.vmulh t sc mask d a b) :=
      of_pick rfl (by simp [pick, pick20, tag_code, pad_bool])
theorem vmin (t : Tag) (sc : Bool) (mask : BitVec 3) (d a b : BitVec 5) : Statement (.vmin t sc mask d a b) :=
      of_pick rfl (by simp [pick, pick20, tag_code, pad_bool])
theorem vmax (t : Tag) (sc : Bool) (mask : BitVec 3) (d a b : BitVec 5) : Statement (.vmax t sc mask d a b) :=
      of_pick rfl (by simp [pick, pick20, tag_code, pad_bool])
theorem vand (t : Tag) (sc : Bool) (mask : BitVec 3) (d a b : BitVec 5) : Statement (.vand t sc mask d a b) :=
      of_pick rfl (by simp [pick, pick20, tag_code, pad_bool])
theorem vor (t : Tag) (sc : Bool) (mask : BitVec 3) (d a b : BitVec 5) : Statement (.vor t sc mask d a b) :=
      of_pick rfl (by simp [pick, pick20, tag_code, pad_bool])
theorem vxor (t : Tag) (sc : Bool) (mask : BitVec 3) (d a b : BitVec 5) : Statement (.vxor t sc mask d a b) :=
      of_pick rfl (by simp [pick, pick20, tag_code, pad_bool])
theorem vsll (t : Tag) (sc : Bool) (mask : BitVec 3) (d a b : BitVec 5) : Statement (.vsll t sc mask d a b) :=
      of_pick rfl (by simp [pick, pick20, tag_code, pad_bool])
theorem vsrl (t : Tag) (sc : Bool) (mask : BitVec 3) (d a b : BitVec 5) : Statement (.vsrl t sc mask d a b) :=
      of_pick rfl (by simp [pick, pick20, tag_code, pad_bool])
theorem vsra (t : Tag) (sc : Bool) (mask : BitVec 3) (d a b : BitVec 5) : Statement (.vsra t sc mask d a b) :=
      of_pick rfl (by simp [pick, pick20, tag_code, pad_bool])
theorem vaddsat (t : Tag) (sc : Bool) (mask : BitVec 3) (d a b : BitVec 5) : Statement (.vaddsat t sc mask d a b)
      := of_pick rfl (by simp [pick, pick20, tag_code, pad_bool])
theorem vsubsat (t : Tag) (sc : Bool) (mask : BitVec 3) (d a b : BitVec 5) : Statement (.vsubsat t sc mask d a b)
      := of_pick rfl (by simp [pick, pick20, tag_code, pad_bool])
theorem vmov (t : Tag) (mask : BitVec 3) (d a : BitVec 5) : Statement (.vmov t mask d a) := of_pick rfl (by simp
      [pick, pick20, tag_code])
theorem vli (t : Tag) (mask : BitVec 3) (d : BitVec 5) (src : Src) : Statement (.vli t mask d src) := by
  cases src <;> exact of_pick rfl (by simp [pick, pick20, tag_code, Raw.src, Src.len, Src.immPart, Src.litPart])
theorem vfadd (rm : BitVec 2) (t : Tag) (sc : Bool) (mask : BitVec 3) (d a b : BitVec 5) : Statement (.vfadd rm t
      sc mask d a b) := of_pick rfl (by simp [pick, pick21, tag_code, pad_bool])
theorem vfsub (rm : BitVec 2) (t : Tag) (sc : Bool) (mask : BitVec 3) (d a b : BitVec 5) : Statement (.vfsub rm t
      sc mask d a b) := of_pick rfl (by simp [pick, pick21, tag_code, pad_bool])
theorem vfmul (rm : BitVec 2) (t : Tag) (sc : Bool) (mask : BitVec 3) (d a b : BitVec 5) : Statement (.vfmul rm t
      sc mask d a b) := of_pick rfl (by simp [pick, pick21, tag_code, pad_bool])
theorem vfdiv (rm : BitVec 2) (t : Tag) (sc : Bool) (mask : BitVec 3) (d a b : BitVec 5) : Statement (.vfdiv rm t
      sc mask d a b) := of_pick rfl (by simp [pick, pick21, tag_code, pad_bool])
theorem vffma (rm : BitVec 2) (t : Tag) (sc : Bool) (mask : BitVec 3) (d a b c : BitVec 5) : Statement (.vffma rm t
      sc mask d a b c) := of_pick rfl (by simp [pick, pick21, tag_code, pad_bool])
theorem vfmin (t : Tag) (sc : Bool) (mask : BitVec 3) (d a b : BitVec 5) : Statement (.vfmin t sc mask d a b) :=
      of_pick rfl (by simp [pick, pick21, tag_code, pad_bool])
theorem vfmax (t : Tag) (sc : Bool) (mask : BitVec 3) (d a b : BitVec 5) : Statement (.vfmax t sc mask d a b) :=
      of_pick rfl (by simp [pick, pick21, tag_code, pad_bool])
theorem vfsqrt (rm : BitVec 2) (t : Tag) (mask : BitVec 3) (d a : BitVec 5) : Statement (.vfsqrt rm t mask d a) :=
      of_pick rfl (by simp [pick, pick21, tag_code])
theorem vcmpeq (t : Tag) (sc : Bool) (mask d : BitVec 3) (a b : BitVec 5) : Statement (.vcmpeq t sc mask d a b) :=
      of_pick rfl (by simp [pick, pick22, tag_code, pad2_3, pad2_2, pad_bool])
theorem vcmpne (t : Tag) (sc : Bool) (mask d : BitVec 3) (a b : BitVec 5) : Statement (.vcmpne t sc mask d a b) :=
      of_pick rfl (by simp [pick, pick22, tag_code, pad2_3, pad2_2, pad_bool])
theorem vcmplt (t : Tag) (sc : Bool) (mask d : BitVec 3) (a b : BitVec 5) : Statement (.vcmplt t sc mask d a b) :=
      of_pick rfl (by simp [pick, pick22, tag_code, pad2_3, pad2_2, pad_bool])
theorem vcmple (t : Tag) (sc : Bool) (mask d : BitVec 3) (a b : BitVec 5) : Statement (.vcmple t sc mask d a b) :=
      of_pick rfl (by simp [pick, pick22, tag_code, pad2_3, pad2_2, pad_bool])
theorem vsel (t : Tag) (mask : BitVec 3) (d a b : BitVec 5) : Statement (.vsel t mask d a b) := of_pick rfl (by
      simp [pick, pick22, tag_code])
theorem mand (d a b : BitVec 3) : Statement (.mand d a b) := of_pick rfl (by simp [pick, pick22, pad2_3, pad2_2])
theorem mor (d a b : BitVec 3) : Statement (.mor d a b) := of_pick rfl (by simp [pick, pick22, pad2_3, pad2_2])
theorem mandn (d a b : BitVec 3) : Statement (.mandn d a b) := of_pick rfl (by simp [pick, pick22, pad2_3, pad2_2])
theorem mxor (d a b : BitVec 3) : Statement (.mxor d a b) := of_pick rfl (by simp [pick, pick22, pad2_3, pad2_2])
theorem mpop (d : BitVec 5) (a : BitVec 3) : Statement (.mpop d a) := of_pick rfl (by simp [pick, pick22, pad2_3,
      pad2_2])
theorem medge (t : Tag) (d : BitVec 3) (a b : BitVec 5) : Statement (.medge t d a b) := of_pick rfl (by simp [pick,
      pick22, tag_code, pad2_3, pad2_2])
theorem vld (t : Tag) (acq : Bool) (scope mask : BitVec 3) (d a : BitVec 5) (disp : Src) : Statement (.vld t acq
      scope mask d a disp) := by
  cases disp <;> exact of_pick rfl (by simp [pick, pick23, tag_code, Raw.src, Src.len, Src.immPart, Src.litPart])
theorem vst (t : Tag) (rel : Bool) (scope mask : BitVec 3) (d a : BitVec 5) (disp : Src) : Statement (.vst t rel
      scope mask d a disp) := by
  cases disp <;> exact of_pick rfl (by simp [pick, pick23, tag_code, Raw.src, Src.len, Src.immPart, Src.litPart])
theorem vlds (t : Tag) (acq : Bool) (scope mask : BitVec 3) (d a b : BitVec 5) (disp : Src) : Statement (.vlds t
      acq scope mask d a b disp) := by
  cases disp <;> exact of_pick rfl (by simp [pick, pick23, tag_code, Raw.src, Src.len, Src.immPart, Src.litPart])
theorem vsts (t : Tag) (rel : Bool) (scope mask : BitVec 3) (d a b : BitVec 5) (disp : Src) : Statement (.vsts t
      rel scope mask d a b disp) := by
  cases disp <;> exact of_pick rfl (by simp [pick, pick23, tag_code, Raw.src, Src.len, Src.immPart, Src.litPart])
theorem vgath (t : Tag) (acq : Bool) (scope mask : BitVec 3) (d a b : BitVec 5) (disp : Src) (sh : BitVec 2) :
      Statement (.vgath t acq scope mask d a b disp sh) := by
  cases disp <;> exact of_pick rfl (by simp [pick, pick24, tag_code, Raw.src, Src.len, Src.immPart, Src.litPart,
      pad2_3, pad2_2])
theorem vscat (t : Tag) (rel : Bool) (scope mask : BitVec 3) (d a b : BitVec 5) (disp : Src) (sh : BitVec 2) :
      Statement (.vscat t rel scope mask d a b disp sh) := by
  cases disp <;> exact of_pick rfl (by simp [pick, pick24, tag_code, Raw.src, Src.len, Src.immPart, Src.litPart,
      pad2_3, pad2_2])
theorem vperm (t : Tag) (mask : BitVec 3) (d a b : BitVec 5) : Statement (.vperm t mask d a b) := of_pick rfl (by
      simp [pick, pick25, tag_code])
theorem vbcast (t : Tag) (mask : BitVec 3) (d a : BitVec 5) : Statement (.vbcast t mask d a) := of_pick rfl (by
      simp [pick, pick25, tag_code])
theorem vslide (t : Tag) (mask : BitVec 3) (d a : BitVec 5) (amount : BitVec 32) : Statement (.vslide t mask d a
      amount) := of_pick rfl (by simp [pick, pick25, tag_code])
theorem vredsum (rm : BitVec 2) (t : Tag) (mask : BitVec 3) (d a : BitVec 5) : Statement (.vredsum rm t mask d a)
      := of_pick rfl (by simp [pick, pick25, tag_code])
theorem vredmin (t : Tag) (mask : BitVec 3) (d a : BitVec 5) : Statement (.vredmin t mask d a) := of_pick rfl (by
      simp [pick, pick25, tag_code])
theorem vredmax (t : Tag) (mask : BitVec 3) (d a : BitVec 5) : Statement (.vredmax t mask d a) := of_pick rfl (by
      simp [pick, pick25, tag_code])
theorem vext (t : Tag) (d a : BitVec 5) (idx : BitVec 32) : Statement (.vext t d a idx) := of_pick rfl (by simp
      [pick, pick25, tag_code])
theorem vcvt (t : Tag) (rm : BitVec 2) (mask : BitVec 3) (d a : BitVec 5) (p : BitVec 3) (sat : Bool) : Statement
      (.vcvt t rm mask d a p sat) := of_pick rfl (by simp [pick, pick26, tag_code, bool_low, bool_high])
theorem tclaim (t : Tag) (d : BitVec 4) (br bc : BitVec 3) : Statement (.tclaim t d br bc) := of_pick rfl (by simp
      [pick, pick28, tag_code, pad1_4, pad1_3, claim_br, claim_bc])
theorem tfree (a : BitVec 4) : Statement (.tfree a) := of_pick rfl (by simp [pick, pick28, pad1_4, pad1_3])
theorem hmov (d a : BitVec 4) : Statement (.hmov d a) := of_pick rfl (by simp [pick, pick28, pad1_4, pad1_3])
theorem hsend (core : BitVec 5) (k n a : BitVec 4) : Statement (.hsend core k n a) := of_pick rfl (by simp [pick,
      pick28, pad1_4, pad1_3])
theorem hdup (d a : BitVec 4) : Statement (.hdup d a) := of_pick rfl (by simp [pick, pick28, pad1_4, pad1_3])
theorem hinfo (d : BitVec 5) (a : BitVec 4) : Statement (.hinfo d a) := of_pick rfl (by simp [pick, pick28, pad1_4,
      pad1_3])
theorem kset (d : BitVec 4) (v : ScaleSrc) : Statement (.kset d v) := by
  cases v <;> exact of_pick rfl (by simp [pick, pick28, Raw.scaleSrc, ScaleSrc.aux, ScaleSrc.reg',
      ScaleSrc.immPart, pad1_4, pad1_3])
theorem tld (t : Tag) (int4 acq : Bool) (scope : BitVec 3) (d : BitVec 4) (a c : BitVec 5) (disp : BitVec 32) :
      Statement (.tld t int4 acq scope d a c disp) := of_pick rfl (by simp [pick, pick29, tag_code, pad1_4, pad1_3,
      pad_bool])
theorem tst (t : Tag) (rel : Bool) (scope : BitVec 3) (d : BitVec 4) (a c : BitVec 5) (rs cs : BitVec 4) (disp :
      BitVec 32) : Statement (.tst t rel scope d a c rs cs disp) := of_pick rfl (by simp [pick, pick29, tag_code,
      pad1_4, pad1_3])
theorem tmma (d a b : BitVec 4) : Statement (.tmma d a b) := of_pick rfl (by simp [pick, pick2A, pad1_4, pad1_3])
theorem tzero (t : Tag) (d : BitVec 4) : Statement (.tzero t d) := of_pick rfl (by simp [pick, pick2A, tag_code,
      pad1_4, pad1_3])
theorem tcvt (t : Tag) (rm : BitVec 2) (d a rs cs : BitVec 4) : Statement (.tcvt t rm d a rs cs) := of_pick rfl (by
      simp [pick, pick2A, tag_code, pad1_4, pad1_3])
theorem tsplit (axis : Bool) (d a b : BitVec 4) (cut : BitVec 3) : Statement (.tsplit axis d a b cut) := of_pick
      rfl (by simp [pick, pick2B, pad1_4, pad1_3, pad29, pad_bool])
theorem trejoin (d a b : BitVec 4) : Statement (.trejoin d a b) := of_pick rfl (by simp [pick, pick2B, pad1_4,
      pad1_3])
theorem c1d (acq rel : Bool) (scope : BitVec 3) (d a b c e : BitVec 5) : Statement (.c1d acq rel scope d a b c e)
      := of_pick rfl (by simp [pick, pick2C])
theorem c2d (acq rel : Bool) (scope : BitVec 3) (d a b c e : BitVec 5) : Statement (.c2d acq rel scope d a b c e)
      := of_pick rfl (by simp [pick, pick2C])
theorem c3d (acq rel : Bool) (scope : BitVec 3) (d a b c e : BitVec 5) : Statement (.c3d acq rel scope d a b c e)
      := of_pick rfl (by simp [pick, pick2C])
theorem ctileLd (acq rel : Bool) (scope : BitVec 3) (d a : BitVec 5) (b : BitVec 4) (e : BitVec 5) : Statement
      (.ctileLd acq rel scope d a b e) := of_pick rfl (by simp [pick, pick2C, pad1_4, pad1_3])
theorem ctileSt (acq rel : Bool) (scope : BitVec 3) (d a : BitVec 5) (b : BitVec 4) (e : BitVec 5) : Statement
      (.ctileSt acq rel scope d a b e) := of_pick rfl (by simp [pick, pick2C, pad1_4, pad1_3])
theorem cfill (acq rel : Bool) (scope : BitVec 3) (d a b c e : BitVec 5) : Statement (.cfill acq rel scope d a b c
      e) := of_pick rfl (by simp [pick, pick2C])
theorem cunseal (acq rel : Bool) (scope : BitVec 3) (tile : Bool) (d a b c e : BitVec 5) : Statement (.cunseal acq
      rel scope tile d a b c e) := of_pick rfl (by simp [pick, pick2C, pad_bool])
theorem cwait (a : BitVec 5) : Statement (.cwait a) := of_pick rfl (by simp [pick, pick2D])
theorem cstat (d a : BitVec 5) : Statement (.cstat d a) := of_pick rfl (by simp [pick, pick2D])
theorem sleepu (a : BitVec 5) (slack : BitVec 32) : Statement (.sleepu a slack) := of_pick rfl (by simp [pick,
      pick2D])
theorem spawn (d a : BitVec 5) (b : BitVec 4) (c e : BitVec 5) (entry : Src) (n : BitVec 3) (ord : Bool) :
      Statement (.spawn d a b c e entry n ord) := by
  cases entry <;> exact of_pick rfl (by simp [pick, pick2E, Raw.src, Src.len, Src.immPart, Src.litPart, bool_low,
      bool_high, pad1_4, pad1_3])
theorem start (d : BitVec 5) (b : BitVec 4) (c e : BitVec 5) (entry : Src) (n : BitVec 3) : Statement (.start d b c
      e entry n) := by
  cases entry <;> exact of_pick rfl (by simp [pick, pick2E, Raw.src, Src.len, Src.immPart, Src.litPart, pad1_4,
      pad1_3])
theorem rfork (d a : BitVec 5) (b : BitVec 4) (c e : BitVec 5) (entry : Src) (n : BitVec 3) : Statement (.rfork d a
      b c e entry n) := by
  cases entry <;> exact of_pick rfl (by simp [pick, pick2E, Raw.src, Src.len, Src.immPart, Src.litPart, pad1_4,
      pad1_3])
theorem exit  : Statement (.exit) := of_pick rfl (by simp [pick, pick2F])
theorem yield  : Statement (.yield) := of_pick rfl (by simp [pick, pick2F])
theorem keyset (a : BitVec 5) : Statement (.keyset a) := of_pick rfl (by simp [pick, pick2F])
theorem budset (a : BitVec 5) : Statement (.budset a) := of_pick rfl (by simp [pick, pick2F])
theorem psend (rel : Bool) (scope : BitVec 3) (p a b : BitVec 5) : Statement (.psend rel scope p a b) := of_pick
      rfl (by simp [pick, pick30])
theorem csend (t : Tag) (rel : Bool) (scope : BitVec 3) (a b : BitVec 5) (q : BitVec 2) : Statement (.csend t rel
      scope a b q) := of_pick rfl (by simp [pick, pick30, tag_code, pad2_3, pad2_2])
theorem bind (c e : BitVec 5) (entry : Src) (tgt : BindTarget) (ord : Bool) : Statement (.bind c e entry tgt ord)
      := by
  cases entry <;> cases tgt <;> exact of_pick rfl (by simp [pick, pick30, Raw.src, Src.len, Src.immPart,
      Src.litPart, Raw.bindTarget, BindTarget.isChan, BindTarget.chanPart, BindTarget.postPart, bind_chan,
      bind_post, bind_ord, bind_idx])
theorem pwait (d p : BitVec 5) : Statement (.pwait d p) := of_pick rfl (by simp [pick, pick30])
theorem horz (d : BitVec 5) : Statement (.horz d) := of_pick rfl (by simp [pick, pick31])
theorem getlid (d : BitVec 5) : Statement (.getlid d) := of_pick rfl (by simp [pick, pick31])
theorem gjoin (a b : BitVec 5) : Statement (.gjoin a b) := of_pick rfl (by simp [pick, pick32])
theorem gleave (a : BitVec 5) : Statement (.gleave a) := of_pick rfl (by simp [pick, pick32])
theorem barinit (a b : BitVec 5) : Statement (.barinit a b) := of_pick rfl (by simp [pick, pick32])
theorem bararr (a : BitVec 5) : Statement (.bararr a) := of_pick rfl (by simp [pick, pick32])
theorem barwait (a : BitVec 5) : Statement (.barwait a) := of_pick rfl (by simp [pick, pick32])
theorem qinit (d a b : BitVec 5) : Statement (.qinit d a b) := of_pick rfl (by simp [pick, pick33])
theorem qarr (a : BitVec 5) (con : Contribution) : Statement (.qarr a con) := by
  cases con <;> exact of_pick rfl (by simp [pick, pick33, Raw.contribution, Contribution.aux, Contribution.stag,
      Contribution.reg', tag_code])
theorem qwait (d a : BitVec 5) : Statement (.qwait d a) := of_pick rfl (by simp [pick, pick33])
theorem qstat (d a : BitVec 5) : Statement (.qstat d a) := of_pick rfl (by simp [pick, pick33])
theorem qrec (d a : BitVec 5) : Statement (.qrec d a) := of_pick rfl (by simp [pick, pick33])
theorem evcfg (ord acq rel : Bool) (scope : BitVec 3) (a b c e : BitVec 5) : Statement (.evcfg ord acq rel scope a
      b c e) := of_pick rfl (by simp [pick, pick34, pad_bool])
theorem evset (a b : BitVec 5) (v : LeafSrc) : Statement (.evset a b v) := by
  cases v <;> exact of_pick rfl (by simp [pick, pick34, Raw.leafSrc, LeafSrc.len, LeafSrc.aux, LeafSrc.reg',
      LeafSrc.immPart, LeafSrc.litPart])
theorem evadd (a b : BitVec 5) (v : LeafSrc) : Statement (.evadd a b v) := by
  cases v <;> exact of_pick rfl (by simp [pick, pick34, Raw.leafSrc, LeafSrc.len, LeafSrc.aux, LeafSrc.reg',
      LeafSrc.immPart, LeafSrc.litPart])
theorem evget (d a b : BitVec 5) : Statement (.evget d a b) := of_pick rfl (by simp [pick, pick34])
theorem evsum (d a : BitVec 5) : Statement (.evsum d a) := of_pick rfl (by simp [pick, pick34])
theorem evnext (spawn acq rel : Bool) (scope : BitVec 3) (d a c e : BitVec 5) : Statement (.evnext spawn acq rel
      scope d a c e) := of_pick rfl (by simp [pick, pick35, pad_bool])
theorem evsched (d a b c e : BitVec 5) : Statement (.evsched d a b c e) := of_pick rfl (by simp [pick, pick35])
theorem evclkClock (d a : BitVec 5) : Statement (.evclkClock d a) := of_pick rfl (by simp [pick, pick35])
theorem evclkCount (d a : BitVec 5) : Statement (.evclkCount d a) := of_pick rfl (by simp [pick, pick35])
theorem evhorBound (d a : BitVec 5) : Statement (.evhorBound d a) := of_pick rfl (by simp [pick, pick35])
theorem evhorCommit (d a : BitVec 5) : Statement (.evhorCommit d a) := of_pick rfl (by simp [pick, pick35])
theorem evhorStatus (d a : BitVec 5) : Statement (.evhorStatus d a) := of_pick rfl (by simp [pick, pick35])
theorem evlook (a b c : BitVec 5) (slot : BitVec 3) : Statement (.evlook a b c slot) := of_pick rfl (by simp [pick,
      pick35, pad1_4, pad1_3])
theorem taskDispatch (g : Nat) : Statement (.taskDispatch g) := of_device rfl
theorem postMessageArrival (k : Nat) : Statement (.postMessageArrival k) := of_device rfl
theorem channelEntryArrival (g : Nat) : Statement (.channelEntryArrival g) := of_device rfl
theorem budgetExhausted (u : Nat) : Statement (.budgetExhausted u) := of_device rfl
theorem horizonHolderSwitchOut (g : Nat) : Statement (.horizonHolderSwitchOut g) := of_device rfl
theorem horizonUpdate (g : Nat) : Statement (.horizonUpdate g) := of_device rfl
theorem commit  : Statement (.commit) := of_device rfl
theorem orderedAbort (u : Nat) : Statement (.orderedAbort u) := of_device rfl
theorem kill (u : Nat) : Statement (.kill u) := of_device rfl
theorem storePerformed (u k : Nat) : Statement (.storePerformed u k) := of_device rfl
theorem updateCopyEviction (k : Nat) : Statement (.updateCopyEviction k) := of_device rfl
theorem replicaApply (die k : Nat) : Statement (.replicaApply die k) := of_device rfl
theorem pinLift (k : Nat) : Statement (.pinLift k) := of_device rfl
theorem sfq64Bound (u : Nat) : Statement (.sfq64Bound u) := of_device rfl
theorem copyBeat (cl : Nat) : Statement (.copyBeat cl) := of_device rfl
theorem promiseExpiry (u : Nat) : Statement (.promiseExpiry u) := of_device rfl
theorem tileComplete (g k : Nat) : Statement (.tileComplete g k) := of_device rfl
theorem hsendLanded (k : Nat) : Statement (.hsendLanded k) := of_device rfl
theorem barrierRelease (cl ent : Nat) : Statement (.barrierRelease cl ent) := of_device rfl
theorem quorumDeadline (cl cell : Nat) : Statement (.quorumDeadline cl cell) := of_device rfl
theorem deadlinePass (u : Nat) : Statement (.deadlinePass u) := of_device rfl
theorem garnetUpdate (u : Nat) : Statement (.garnetUpdate u) := of_device rfl
theorem launchCommit (vf slot : Nat) (word : BitVec 64) (relaxed : Bool) : Statement (.launchCommit vf slot word relaxed) := of_device rfl
theorem launchPlace  : Statement (.launchPlace) := of_device rfl
theorem priorityAging (l : Nat) : Statement (.priorityAging l) := of_device rfl
theorem sliceExpiry (l : Nat) : Statement (.sliceExpiry l) := of_device rfl
theorem preemption (l : Nat) : Statement (.preemption l) := of_device rfl
theorem graceExpiry (l : Nat) : Statement (.graceExpiry l) := of_device rfl
theorem coopHandlerBudgetEnd (u : Nat) : Statement (.coopHandlerBudgetEnd u) := of_device rfl
theorem registerCacheSwap (g : Nat) : Statement (.registerCacheSwap g) := of_device rfl
theorem launchRestore (l : Nat) : Statement (.launchRestore l) := of_device rfl
theorem launchEnd (l : Nat) : Statement (.launchEnd l) := of_device rfl
theorem gangReservation (l : Nat) (last : BitVec 64) : Statement (.gangReservation l last) := of_device rfl
theorem gangGo (l : Nat) : Statement (.gangGo l) := of_device rfl
theorem gangStart (l : Nat) : Statement (.gangStart l) := of_device rfl
theorem gangCancel (l : Nat) (stamp : BitVec 64) : Statement (.gangCancel l stamp) := of_device rfl
theorem functionLevelReset (vf : Nat) : Statement (.functionLevelReset vf) := of_device rfl
theorem setroot (vf : Nat) (approved : Bool) : Statement (.setroot vf approved) := of_device rfl
theorem getcfg (vf : Nat) : Statement (.getcfg vf) := of_device rfl
theorem pfmsg (vf : Nat) : Statement (.pfmsg vf) := of_device rfl
theorem mailboxBadop (vf : Nat) : Statement (.mailboxBadop vf) := of_device rfl
theorem pfMailboxAnswer (vf : Nat) (status : BitVec 16) (reply : List (BitVec 8)) : Statement (.pfMailboxAnswer vf status reply) := of_device rfl
theorem apply (vf : Nat) : Statement (.apply vf) := of_device rfl
theorem dissolve (vf : Nat) : Statement (.dissolve vf) := of_device rfl
theorem getVersion (vf : Nat) : Statement (.getVersion vf) := of_device rfl
theorem getCapabilities (vf : Nat) : Statement (.getCapabilities vf) := of_device rfl
theorem negotiateAlgorithms (vf : Nat) : Statement (.negotiateAlgorithms vf) := of_device rfl
theorem getDigests (vf : Nat) : Statement (.getDigests vf) := of_device rfl
theorem getCertificate (vf : Nat) : Statement (.getCertificate vf) := of_device rfl
theorem challenge (vf : Nat) : Statement (.challenge vf) := of_device rfl
theorem getMeasurements (vf : Nat) : Statement (.getMeasurements vf) := of_device rfl
theorem keyExchange (vf : Nat) : Statement (.keyExchange vf) := of_device rfl
theorem finish (vf session : Nat) : Statement (.finish vf session) := of_device rfl
theorem endSession (vf session : Nat) : Statement (.endSession vf session) := of_device rfl
theorem keySlotLoad (vf : Nat) (session slot : Nat) (key : BitVec 256) (model : BitVec 64) : Statement (.keySlotLoad vf session slot key model) := of_device rfl
theorem keySlotClear (vf : Nat) (session slot : Nat) : Statement (.keySlotClear vf session slot) := of_device rfl
theorem hostRead (vf : Nat) (addr : BitVec 64) (n : Nat) : Statement (.hostRead vf addr n) := of_device rfl
theorem hostWrite (vf : Nat) (addr : BitVec 64) (bytes : List (BitVec 8)) : Statement (.hostWrite vf addr bytes) := of_device rfl
theorem hostAtomicop (vf : Nat) (addr : BitVec 64) (op : HostAtomic) (w : Nat) (x cmp : BitVec 64) : Statement (.hostAtomicop vf addr op w x cmp) := of_device rfl
theorem bar0Write (vf : Nat) (off : Nat) (bytes : List (BitVec 8)) (relaxed : Bool) : Statement (.bar0Write vf off bytes relaxed) := of_device rfl
theorem tbaseWrite (vf : Nat) (v : BitVec 64) : Statement (.tbaseWrite vf v) := of_device rfl
theorem tsizeWrite (vf : Nat) (v : BitVec 64) : Statement (.tsizeWrite vf v) := of_device rfl
theorem twidxWrite (vf : Nat) (v : BitVec 64) : Statement (.twidxWrite vf v) := of_device rfl
theorem tridxWrite (vf : Nat) (v : BitVec 64) : Statement (.tridxWrite vf v) := of_device rfl
theorem traceControlWrite (vf : Nat) (v : BitVec 64) : Statement (.traceControlWrite vf v) := of_device rfl
theorem debuggerAttach  : Statement (.debuggerAttach) := of_device rfl
theorem debugStop (g : Nat) : Statement (.debugStop g) := of_device rfl
theorem debugResume (u : Nat) (at_ : ResumeAt) : Statement (.debugResume u at_) := of_device rfl
theorem debugAccess (g : Nat) (what : DebugAccess) : Statement (.debugAccess g what) := of_device rfl
theorem debuggerKill (u : Nat) : Statement (.debuggerKill u) := of_device rfl
theorem startSequence (results : List StepResult) : Statement (.startSequence results) := of_device rfl
theorem clearstart  : Statement (.clearstart) := of_device rfl
theorem droopStretch (cl : Nat) : Statement (.droopStretch cl) := of_device rfl
theorem stretchRelease (cl : Nat) : Statement (.stretchRelease cl) := of_device rfl
theorem powerLimitStretch  : Statement (.powerLimitStretch) := of_device rfl
theorem powerLimitRelease  : Statement (.powerLimitRelease) := of_device rfl
theorem softError (what : SoftError) : Statement (.softError what) := of_device rfl
theorem loadReturn (k : Nat) : Statement (.loadReturn k) := of_device rfl
theorem pfFunctionLevelReset  : Statement (.pfFunctionLevelReset) := of_device rfl

end Sys2Proof.Laws.FieldRoundTrip
end

