-- ==== Sys2Proof/Laws/Codec.lean ====
section
/-! SUPPORT. Words and bytes of instructions: what is packed reads back, and what an encoding leaves unused is 0. -/
namespace Sys2Proof.Laws.Codec

open Sys2Proof.Laws.FieldRoundTrip (join whole low)

/-- A slice of a joined word that lies in its low part. -/
theorem slice_low {m n : Nat} (x : BitVec m) (y : BitVec n) (s k : Nat) (h : s + k ≤ n) :
    (x ++ y).extractLsb' s k = y.extractLsb' s k := by
  apply BitVec.eq_of_getLsbD_eq
  intro i hi
  rw [BitVec.getLsbD_extractLsb', BitVec.getLsbD_extractLsb', BitVec.getLsbD_append]
  simp [show s + i < n by omega]
/-- A slice of a joined word that lies in its high part. -/
theorem slice_high {m n : Nat} (x : BitVec m) (y : BitVec n) (s k : Nat) (h : n ≤ s) :
    (x ++ y).extractLsb' s k = x.extractLsb' (s - n) k := by
  apply BitVec.eq_of_getLsbD_eq
  intro i hi
  rw [BitVec.getLsbD_extractLsb', BitVec.getLsbD_extractLsb', BitVec.getLsbD_append]
  simp [show ¬ s + i < n by omega, show s + i - n = s - n + i by omega]
theorem bit_low {m n : Nat} (x : BitVec m) (y : BitVec n) (i : Nat) (h : i < n) : (x ++ y).getLsbD i = y.getLsbD i := by
  rw [BitVec.getLsbD_append]; simp [h]
theorem bit_high {m n : Nat} (x : BitVec m) (y : BitVec n) (i : Nat) (h : n ≤ i) :
    (x ++ y).getLsbD i = x.getLsbD (i - n) := by
  rw [BitVec.getLsbD_append]; simp [show ¬ i < n by omega]

/-- A word's bytes give the word. -/
theorem word32_bytes (w : BitVec 32) :
    word32 (w.extractLsb' 0 8) (w.extractLsb' 8 8) (w.extractLsb' 16 8) (w.extractLsb' 24 8) = w := by
  have h1 : w.extractLsb' 24 8 ++ w.extractLsb' 16 8 = w.extractLsb' 16 16 := join 16 8 8 w
  have h2 : w.extractLsb' 16 16 ++ w.extractLsb' 8 8 = w.extractLsb' 8 24 := join 8 8 16 w
  have h3 : w.extractLsb' 8 24 ++ w.extractLsb' 0 8 = w.extractLsb' 0 32 := join 0 8 24 w
  unfold word32
  exact h1 ▸ h2 ▸ h3.trans (whole w)
/-- The bytes of words give the words, whatever follows. -/
theorem wordsOf_bytes (ws : List (BitVec 32)) (r : List (BitVec 8)) :
    wordsOf (ws.flatMap bytes32 ++ r) = ws ++ wordsOf r := by
  induction ws with
  | nil => rfl
  | cons w ws ih =>
    simp only [List.flatMap_cons, bytes32, List.cons_append, List.nil_append, wordsOf, word32_bytes]
    exact congrArg _ ih
theorem bytes_length (ws : List (BitVec 32)) : (ws.flatMap bytes32).length = 4 * ws.length := by
  induction ws with
  | nil => rfl
  | cons w ws ih => simp only [List.flatMap_cons, List.length_append, ih, List.length_cons, bytes32, List.length_nil]; omega

/-- Word 0 reads back, 03 R63. -/
theorem ofWord0_word0 (r : Raw) :
    Raw.ofWord0 r.word0 = { len := r.len, major := r.major, d := r.d, a := r.a, b := r.b, fn := r.fn } := by
  have e (s k : Nat) (h : s + k ≤ 2) : r.word0.extractLsb' s k = r.len.extractLsb' s k := slice_low _ _ s k h
  have h1 : r.word0.extractLsb' 0 2 = r.len := (e 0 2 (by omega)).trans (whole _)
  have h2 : r.word0.extractLsb' 2 6 = r.major :=
    (slice_high _ r.len 2 6 (by omega)).trans ((slice_low _ r.major 0 6 (by omega)).trans (whole _))
  have h3 : r.word0.extractLsb' 8 5 = r.d :=
    (slice_high _ r.len 8 5 (by omega)).trans ((slice_high _ r.major 6 5 (by omega)).trans
      ((slice_low _ r.d 0 5 (by omega)).trans (whole _)))
  have h4 : r.word0.extractLsb' 13 5 = r.a :=
    (slice_high _ r.len 13 5 (by omega)).trans ((slice_high _ r.major 11 5 (by omega)).trans
      ((slice_high _ r.d 5 5 (by omega)).trans ((slice_low _ r.a 0 5 (by omega)).trans (whole _))))
  have h5 : r.word0.extractLsb' 18 5 = r.b :=
    (slice_high _ r.len 18 5 (by omega)).trans ((slice_high _ r.major 16 5 (by omega)).trans
      ((slice_high _ r.d 10 5 (by omega)).trans ((slice_high _ r.a 5 5 (by omega)).trans
        ((slice_low _ r.b 0 5 (by omega)).trans (whole _)))))
  have h6 : r.word0.extractLsb' 23 9 = r.fn :=
    (slice_high _ r.len 23 9 (by omega)).trans ((slice_high _ r.major 21 9 (by omega)).trans
      ((slice_high _ r.d 15 9 (by omega)).trans ((slice_high _ r.a 10 9 (by omega)).trans
        ((slice_high _ r.b 5 9 (by omega)).trans (whole _)))))
  simp only [Raw.ofWord0, h1, h2, h3, h4, h5, h6]

/-- Words 1 and 2 read back, 03 R64. -/
theorem withX_word1 (q r : Raw) : q.withX r.word1 r.imm =
    { q with c := r.c, e := r.e, mask := r.mask, scope := r.scope, acq := r.acq, rel := r.rel, dtag := r.dtag,
             stag := r.stag, rm := r.rm, aux := r.aux, imm := r.imm } := by
  have b1 (b : Bool) : (BitVec.ofBool b).getLsbD 0 = b := by cases b <;> rfl
  have h1 : r.word1.extractLsb' 0 5 = r.c := (slice_low _ r.c 0 5 (by omega)).trans (whole _)
  have h2 : r.word1.extractLsb' 5 5 = r.e :=
    (slice_high _ r.c 5 5 (by omega)).trans ((slice_low _ r.e 0 5 (by omega)).trans (whole _))
  have h3 : r.word1.extractLsb' 10 3 = r.mask :=
    (slice_high _ r.c 10 3 (by omega)).trans ((slice_high _ r.e 5 3 (by omega)).trans
      ((slice_low _ r.mask 0 3 (by omega)).trans (whole _)))
  have h4 : r.word1.extractLsb' 13 3 = r.scope :=
    (slice_high _ r.c 13 3 (by omega)).trans ((slice_high _ r.e 8 3 (by omega)).trans
      ((slice_high _ r.mask 3 3 (by omega)).trans ((slice_low _ r.scope 0 3 (by omega)).trans (whole _))))
  have h5 : r.word1.getLsbD 16 = r.acq :=
    (bit_high _ r.c 16 (by omega)).trans ((bit_high _ r.e 11 (by omega)).trans
      ((bit_high _ r.mask 6 (by omega)).trans ((bit_high _ r.scope 3 (by omega)).trans
        ((bit_low _ (BitVec.ofBool r.acq) 0 (by omega)).trans (b1 _)))))
  have h6 : r.word1.getLsbD 17 = r.rel :=
    (bit_high _ r.c 17 (by omega)).trans ((bit_high _ r.e 12 (by omega)).trans
      ((bit_high _ r.mask 7 (by omega)).trans ((bit_high _ r.scope 4 (by omega)).trans
        ((bit_high _ (BitVec.ofBool r.acq) 1 (by omega)).trans
          ((bit_low _ (BitVec.ofBool r.rel) 0 (by omega)).trans (b1 _))))))
  have up (s k : Nat) (h : 18 ≤ s) : r.word1.extractLsb' s k =
      (r.aux ++ r.rm ++ r.stag ++ r.dtag).extractLsb' (s - 18) k :=
    (slice_high _ r.c s k (by omega)).trans ((slice_high _ r.e (s - 5) k (by omega)).trans
      ((slice_high _ r.mask (s - 5 - 5) k (by omega)).trans ((slice_high _ r.scope (s - 5 - 5 - 3) k (by omega)).trans
        ((slice_high _ (BitVec.ofBool r.acq) (s - 5 - 5 - 3 - 3) k (by omega)).trans
          ((slice_high _ (BitVec.ofBool r.rel) (s - 5 - 5 - 3 - 3 - 1) k (by omega)).trans (by congr 1))))))
  have h7 : r.word1.extractLsb' 18 4 = r.dtag :=
    (up 18 4 (by omega)).trans ((slice_low _ r.dtag 0 4 (by omega)).trans (whole _))
  have h8 : r.word1.extractLsb' 22 4 = r.stag :=
    (up 22 4 (by omega)).trans ((slice_high _ r.dtag 4 4 (by omega)).trans
      ((slice_low _ r.stag 0 4 (by omega)).trans (whole _)))
  have h9 : r.word1.extractLsb' 26 2 = r.rm :=
    (up 26 2 (by omega)).trans ((slice_high _ r.dtag 8 2 (by omega)).trans ((slice_high _ r.stag 4 2 (by omega)).trans
      ((slice_low _ r.rm 0 2 (by omega)).trans (whole _))))
  have h10 : r.word1.extractLsb' 28 4 = r.aux :=
    (up 28 4 (by omega)).trans ((slice_high _ r.dtag 10 4 (by omega)).trans ((slice_high _ r.stag 6 4 (by omega)).trans
      ((slice_high _ r.rm 2 4 (by omega)).trans (whole _))))
  simp only [Raw.withX, h1, h2, h3, h4, h5, h6, h7, h8, h9, h10]

/-- The literal word reads back, 03 R59. -/
theorem literal_words (v : BitVec 64) : v.extractLsb' 32 32 ++ v.extractLsb' 0 32 = v := (join 0 32 32 v).trans (whole v)

/-- What the words of a length do not hold is 0. -/
def Tidy (r : Raw) : Bool :=
  (r.len.getLsbD 1 || (r.c == 0#5 && r.e == 0#5 && r.mask == 0#3 && r.scope == 0#3 && !r.acq && !r.rel && r.dtag == 0#4 &&
    r.stag == 0#4 && r.rm == 0#2 && r.aux == 0#4 && r.imm == 0#32)) &&
  (r.len.getLsbD 0 || r.lit == 0#64)

/-- The words of tidy fields decode as the fields do. -/
theorem decodeWords_words {r : Raw} (h : Tidy r = true) (rest : List (BitVec 32)) :
    ∃ w0 ws, r.words = w0 :: ws ∧ w0 = r.word0 ∧ decodeWords w0 (ws ++ rest) = decodeRaw r := by
  have hl : r.word0.extractLsb' 0 2 = r.len := congrArg Raw.len (ofWord0_word0 r)
  obtain ⟨len, major, d, a, b, fn, c, e, mask, scope, acq, rel, dtag, stag, rm, aux, imm, lit⟩ := r
  have h4 : ∀ x : BitVec 2, x = 0#2 ∨ x = 1#2 ∨ x = 2#2 ∨ x = 3#2 := by decide
  rcases h4 len with rfl | rfl | rfl | rfl
  · simp [Tidy] at h
    obtain ⟨⟨⟨⟨⟨⟨⟨⟨⟨⟨⟨rfl, rfl⟩, rfl⟩, rfl⟩, rfl⟩, rfl⟩, rfl⟩, rfl⟩, rfl⟩, rfl⟩, rfl⟩, rfl⟩ := h
    refine ⟨_, [], rfl, rfl, ?_⟩
    unfold decodeWords
    rw [hl, ofWord0_word0]
    rfl
  · simp [Tidy] at h
    obtain ⟨⟨⟨⟨⟨⟨⟨⟨⟨⟨rfl, rfl⟩, rfl⟩, rfl⟩, rfl⟩, rfl⟩, rfl⟩, rfl⟩, rfl⟩, rfl⟩, rfl⟩ := h
    refine ⟨_, [_, _], rfl, rfl, ?_⟩
    unfold decodeWords
    rw [hl, ofWord0_word0]
    simp only [List.cons_append]
    show decodeRaw _ = _
    rw [literal_words]
  · simp [Tidy] at h
    subst h
    refine ⟨_, [_, _], rfl, rfl, ?_⟩
    unfold decodeWords
    rw [hl, ofWord0_word0]
    exact congrArg decodeRaw (withX_word1 _ (Raw.mk 2#2 major d a b fn c e mask scope acq rel dtag stag rm aux imm 0#64))
  · refine ⟨_, [_, _, _, _], rfl, rfl, ?_⟩
    unfold decodeWords
    rw [hl, ofWord0_word0]
    have hx := withX_word1 (Raw.mk 3#2 major d a b fn 0#5 0#5 0#3 0#3 false false 0#4 0#4 0#2 0#4 0#32 0#64)
      (Raw.mk 3#2 major d a b fn c e mask scope acq rel dtag stag rm aux imm lit)
    have hy := congrArg (fun q : Raw => decodeRaw { q with lit := lit.extractLsb' 32 32 ++ lit.extractLsb' 0 32 }) hx
    refine hy.trans ?_
    simp only [literal_words]

set_option linter.unusedSimpArgs false
set_option Elab.async false

/-- An encoding leaves what it does not use at 0, and its first word is one that the opcode map assigns (03 R70). -/
theorem encodeRaw_tidy {i : Instr} {r : Raw} (h : encodeRaw i = some r) : Tidy r = true ∧ headOk r.word0 = true := by
  have hd : ∀ q : Raw, headOk q.word0 = headOk (Raw.word0 { len := q.len, major := q.major }) := by
    intro q
    have e1 := congrArg Raw.len (ofWord0_word0 q)
    have e2 := congrArg Raw.major (ofWord0_word0 q)
    have f1 := congrArg Raw.len (ofWord0_word0 { len := q.len, major := q.major })
    have f2 := congrArg Raw.major (ofWord0_word0 { len := q.len, major := q.major })
    simp only [Raw.ofWord0] at e1 e2 f1 f2
    simp only [headOk, e1, e2, f1, f2]
  have fin {q : Raw} (h1 : Tidy q = true) (h2 : headOk (Raw.word0 { len := q.len, major := q.major }) = true) :
      Tidy q = true ∧ headOk q.word0 = true := ⟨h1, (hd q).trans h2⟩
  cases i <;> simp only [encodeRaw, Option.some.injEq, reduceCtorEq] at h <;> subst h <;>
    first
      | exact fin (by simp [Tidy]) (by dsimp only; decide)
      | (rename Src => x; cases x <;> exact fin (by simp [Tidy, Src.len, Src.immPart, Src.litPart]) (by simp only [Src.len]; decide))
      | (rename LeafSrc => x
         cases x <;> exact fin (by simp [Tidy, LeafSrc.len, LeafSrc.litPart]) (by simp only [LeafSrc.len]; decide))

end Sys2Proof.Laws.Codec
end

