-- ==== Sys2Proof/Laws/Memory.lean ====
section
/-! SUPPORT. Memory: a byte reads as it was last written, other bytes are unchanged, and every operation on memory keeps
its canonical form. -/
namespace Sys2Proof.Machine

/-! ### The form -/

theorem memWfFrom_mono {m : List Host.Cell} : ∀ {lo k : Nat}, memWfFrom lo m = true → k ≤ lo → memWfFrom k m = true := by
  cases m with
  | nil => intros; rfl
  | cons c m =>
    intro lo k h hk
    simp only [memWfFrom, Bool.and_eq_true, decide_eq_true_eq] at h ⊢
    exact ⟨⟨Nat.le_trans hk h.1.1, h.1.2⟩, h.2⟩

/-- Below the first cell every byte reads 0. -/
theorem memGet_below {m : List Host.Cell} {lo a : Nat} (h : memWfFrom lo m = true) (ha : a < lo) : memGet m a = 0#8 := by
  cases m with
  | nil => rfl
  | cons c m =>
    simp only [memWfFrom, Bool.and_eq_true, decide_eq_true_eq] at h
    simp [memGet, show c.1 ≠ a by omega, show a < c.1 by omega]

/-- A write keeps the form. -/
theorem memSet_wfFrom {m : List Host.Cell} : ∀ {lo : Nat} (a : Nat) (x : Byte), memWfFrom lo m = true → lo ≤ a →
    memWfFrom lo (memSet m a x) = true := by
  induction m with
  | nil =>
    intro lo a x _ ha
    simp only [memSet]
    split <;> simp_all [memWfFrom]
  | cons c m ih =>
    obtain ⟨b, y⟩ := c
    intro lo a x h ha
    simp only [memWfFrom, Bool.and_eq_true, decide_eq_true_eq] at h
    obtain ⟨⟨hb, hy⟩, hm⟩ := h
    simp only [memSet]
    by_cases h1 : b = a
    · subst h1
      by_cases hx : x = 0#8
      · simpa [hx] using memWfFrom_mono hm (show lo ≤ b + 1 by omega)
      · simp [hx, memWfFrom, hb, hm]
    · by_cases h2 : a < b
      · by_cases hx : x = 0#8
        · simp [h1, h2, hx, memWfFrom, hb, hm]
          simpa using hy
        · simp [h1, h2, hx, memWfFrom, ha, hm, show a + 1 ≤ b by omega]
          simpa using hy
      · simp [h1, h2, memWfFrom, hb, ih a x hm (by omega)]
        simpa using hy

theorem memSet_wf {m : List Host.Cell} (a : Nat) (x : Byte) (h : Memory.wf m = true) : Memory.wf (memSet m a x) = true :=
  memSet_wfFrom a x h (Nat.zero_le a)

/-- Writing cells keeps the form. -/
theorem memPut_wf {cs : List Host.Cell} : ∀ {m : List Host.Cell}, Memory.wf m = true → Memory.wf (memPut m cs) = true := by
  induction cs with
  | nil => intro m h; exact h
  | cons c cs ih => intro m h; exact ih (memSet_wf c.1 c.2 h)

/-- Dropping cells keeps the form. -/
theorem memWfFrom_filter {m : List Host.Cell} (f : Host.Cell → Bool) :
    ∀ {lo : Nat}, memWfFrom lo m = true → memWfFrom lo (m.filter f) = true := by
  induction m with
  | nil => intros; rfl
  | cons c m ih =>
    intro lo h
    simp only [memWfFrom, Bool.and_eq_true, decide_eq_true_eq] at h
    cases hc : f c with
    | true => simp [hc, memWfFrom, h.1.1, ih h.2]; simpa using h.1.2
    | false =>
      simp only [List.filter_cons, hc]
      exact memWfFrom_mono (ih h.2) (by omega)
theorem filter_wf {m : List Host.Cell} (f : Host.Cell → Bool) (h : Memory.wf m = true) : Memory.wf (m.filter f) = true :=
  memWfFrom_filter f h

/-- Lists of cells one above the other join to one. -/
theorem memWfFrom_append {m n : List Host.Cell} : ∀ {lo k : Nat}, memWfFrom lo m = true → memWfFrom k n = true →
    lo ≤ k → (∀ c ∈ m, c.1 < k) → memWfFrom lo (m ++ n) = true := by
  induction m with
  | nil => intro lo k _ hn hk _; exact memWfFrom_mono hn hk
  | cons c m ih =>
    intro lo k hm hn hk hc
    simp only [memWfFrom, Bool.and_eq_true, decide_eq_true_eq, List.cons_append] at hm ⊢
    have h1 := hc c (by simp)
    exact ⟨hm.1, ih hm.2 hn (by omega) (fun d hd => hc d (List.mem_cons_of_mem _ hd))⟩

theorem runCells_wf {bs : List Byte} : ∀ {a : Nat}, memWfFrom a (runCells a bs) = true := by
  induction bs with
  | nil => intros; rfl
  | cons b bs ih =>
    intro a
    simp only [runCells]
    split
    · exact memWfFrom_mono ih (by omega)
    · rename_i h
      simp [memWfFrom, ih, h]
theorem runCells_lt {bs : List Byte} : ∀ {a : Nat}, ∀ c ∈ runCells a bs, c.1 < a + bs.length := by
  induction bs with
  | nil => intro a c hc; simp [runCells] at hc
  | cons b bs ih =>
    intro a c hc
    simp only [runCells] at hc
    have h (hc : c ∈ runCells (a + 1) bs) : c.1 < a + (b :: bs).length := by
      have := ih c hc
      simp only [List.length_cons]; omega
    split at hc
    · exact h hc
    · rcases List.mem_cons.1 hc with rfl | hc
      · simp
      · exact h hc

/-- Cells from an address on. -/
theorem filter_from {m : List Host.Cell} : ∀ {lo : Nat} (k : Nat), memWfFrom lo m = true →
    memWfFrom k (m.filter (fun c => decide (k ≤ c.1))) = true := by
  induction m with
  | nil => intros; rfl
  | cons c m ih =>
    intro lo k h
    simp only [memWfFrom, Bool.and_eq_true, decide_eq_true_eq] at h
    by_cases hc : k ≤ c.1
    · have h2 := memWfFrom_filter (fun c => decide (k ≤ c.1)) h.2
      simp [hc, memWfFrom, h2]
      simpa using h.1.2
    · simpa [List.filter_cons, hc] using ih k h.2

/-- Writing a run keeps the form. -/
theorem memSplice_wf {m : List Host.Cell} (a : Nat) (bs : List Byte) (h : Memory.wf m = true) :
    Memory.wf (memSplice m a bs) = true := by
  unfold memSplice Memory.wf
  rw [List.append_assoc]
  refine memWfFrom_append (k := a) (memWfFrom_filter _ h) ?_ (Nat.zero_le _) (fun c hc => by simpa using (List.mem_filter.1 hc).2)
  exact memWfFrom_append (k := a + bs.length) runCells_wf (filter_from _ h) (by omega) runCells_lt

/-! ### Reading what was written -/

theorem memGet_memSet_same {m : List Host.Cell} : ∀ {lo : Nat} (a : Nat) (x : Byte), memWfFrom lo m = true →
    memGet (memSet m a x) a = x := by
  induction m with
  | nil => intro lo a x _; simp only [memSet]; split <;> simp_all [memGet]
  | cons c m ih =>
    obtain ⟨b, y⟩ := c
    intro lo a x h
    simp only [memWfFrom, Bool.and_eq_true, decide_eq_true_eq] at h
    simp only [memSet]
    by_cases h1 : b = a
    · subst h1
      by_cases hx : x = 0#8
      · simp [hx, memGet_below h.2 (Nat.lt_succ_self b)]
      · simp [hx, memGet]
    · by_cases h2 : a < b
      · by_cases hx : x = 0#8 <;> simp [h1, h2, hx, memGet]
      · simp [h1, h2, memGet, ih a x h.2]

/-- A byte reads as it was last written. -/
theorem memGet_set {m : List Host.Cell} (a : Nat) (x : Byte) (h : Memory.wf m = true) : memGet (memSet m a x) a = x :=
  memGet_memSet_same a x h

/-- Other bytes are unchanged. -/
theorem memGet_set_ne {m : List Host.Cell} : ∀ {lo a n : Nat} (x : Byte), memWfFrom lo m = true → n ≠ a →
    memGet (memSet m a x) n = memGet m n := by
  induction m with
  | nil =>
    intro lo a n x _ hn
    simp only [memSet]
    split <;> simp [memGet, Ne.symm hn]
  | cons c m ih =>
    obtain ⟨b, y⟩ := c
    intro lo a n x h hn
    simp only [memWfFrom, Bool.and_eq_true, decide_eq_true_eq] at h
    simp only [memSet]
    by_cases h1 : b = a
    · subst h1
      by_cases hx : x = 0#8
      · simp only [hx, if_true, memGet, Ne.symm hn, if_false]
        split
        · rename_i hlt
          exact memGet_below h.2 (by omega)
        · rfl
      · simp [hx, memGet, Ne.symm hn]
    · by_cases h2 : a < b
      · by_cases hx : x = 0#8
        · simp [h1, h2, hx]
        · simp only [h1, h2, hx, if_true, if_false, memGet, Ne.symm hn]
          by_cases h3 : n < a
          · simp [h3, show b ≠ n by omega, show n < b by omega]
          · simp [h3]
      · simp only [h1, h2, if_false, memGet, ih x h.2 hn]

/-- Cells elsewhere leave a byte unchanged. -/
theorem memGet_put_ne {cs : List Host.Cell} : ∀ {m : List Host.Cell} {n : Nat}, Memory.wf m = true →
    (∀ c ∈ cs, c.1 ≠ n) → memGet (memPut m cs) n = memGet m n := by
  induction cs with
  | nil => intros; rfl
  | cons c cs ih =>
    intro m n h hn
    have h1 := ih (m := memSet m c.1 c.2) (n := n) (memSet_wf _ _ h) (fun d hd => hn d (List.mem_cons_of_mem _ hd))
    exact h1.trans (memGet_set_ne (lo := 0) c.2 h (Ne.symm (hn c (by simp))))

end Sys2Proof.Machine
end

