-- ==== Sys2Proof/Laws/Keys.lean ====
section
/-! SUPPORT. Encryption of DRAM: what taking a sector under a key changes, that nothing changes where every sector is held under
the key it is read with, and that memory keeps its canonical form. -/
namespace Sys2Proof.Machine

/-- A sector that is taken under a key: only memory and the memory system's own fields may differ. -/
theorem rekeySector_frame (s : State) (vf : Nat) (k : Option (BitVec 256)) (sec : Nat) :
    ∃ m ms, s.rekeySector vf k sec = { s with mem := m, ms := ms } := by
  simp only [State.rekeySector]
  split
  · exact ⟨s.mem, s.ms, rfl⟩
  · exact ⟨_, _, rfl⟩

/-- Memory keeps its canonical form. -/
theorem rekeySector_wf (s : State) (vf : Nat) (k : Option (BitVec 256)) (sec : Nat) (h : Memory.wf s.mem = true) :
    Memory.wf (s.rekeySector vf k sec).mem = true := by
  simp only [State.rekeySector]
  split
  · exact h
  · exact memPut_wf h

/-- The same of every sector of a list. -/
theorem foldRekey_frame (vf : Nat) (f : Nat → Option (BitVec 256)) (l : List Nat) : ∀ s : State,
    ∃ m ms, l.foldl (fun s sec => s.rekeySector vf (f sec) sec) s = { s with mem := m, ms := ms } := by
  induction l with
  | nil => exact fun s => ⟨s.mem, s.ms, rfl⟩
  | cons a l ih =>
    intro s
    obtain ⟨m, ms, h⟩ := rekeySector_frame s vf (f a) a
    obtain ⟨m', ms', h'⟩ := ih { s with mem := m, ms := ms }
    exact ⟨m', ms', by rw [List.foldl_cons, h, h']⟩
theorem foldRekey_wf (vf : Nat) (f : Nat → Option (BitVec 256)) (l : List Nat) : ∀ s : State, Memory.wf s.mem = true →
    Memory.wf (l.foldl (fun s sec => s.rekeySector vf (f sec) sec) s).mem = true := by
  induction l with
  | nil => exact fun s h => h
  | cons a l ih => exact fun s h => ih _ (rekeySector_wf s vf (f a) a h)

/-- An access under the key of slot 0 changes nothing where no sector is held under another. -/
theorem underKey_slot0 (s : State) (vf loc n : Nat) (h : s.ms.slot0 = true) : s.underKey vf none loc n = s := by
  simp [State.underKey, h]
theorem underKeys_slot0 (s : State) (vf : Nat) (locs : List Nat) (h : s.ms.slot0 = true) : s.underKeys vf [] locs = s := by
  simp [State.underKeys, h]

/-- What an access under a key may change. -/
theorem underKey_frame (s : State) (vf : Nat) (k : Option (BitVec 256)) (loc n : Nat) :
    ∃ m ms, s.underKey vf k loc n = { s with mem := m, ms := ms } := by
  simp only [State.underKey]
  split
  · exact ⟨s.mem, s.ms, rfl⟩
  · exact foldRekey_frame vf (fun _ => k) _ s
theorem underKeys_frame (s : State) (vf : Nat) (keys : Map (BitVec 256)) (locs : List Nat) :
    ∃ m ms, s.underKeys vf keys locs = { s with mem := m, ms := ms } := by
  simp only [State.underKeys]
  split
  · exact ⟨s.mem, s.ms, rfl⟩
  · exact foldRekey_frame vf (Map.get? keys) _ s
theorem underKey_wf (s : State) (vf : Nat) (k : Option (BitVec 256)) (loc n : Nat) (h : Memory.wf s.mem = true) :
    Memory.wf (s.underKey vf k loc n).mem = true := by
  simp only [State.underKey]
  split
  · exact h
  · exact foldRekey_wf vf (fun _ => k) _ s h
theorem underKeys_wf (s : State) (vf : Nat) (keys : Map (BitVec 256)) (locs : List Nat) (h : Memory.wf s.mem = true) :
    Memory.wf (s.underKeys vf keys locs).mem = true := by
  simp only [State.underKeys]
  split
  · exact h
  · exact foldRekey_wf vf (Map.get? keys) _ s h

/-- The kill record of a launch, 01 R30: it counts one more, and only its three fields of kills may differ. -/
theorem addKrec_frame (x : Launch) (r : FaultRec) :
    ∃ k, (k = x.krec ∨ k = r) ∧
      x.addKrec r = { x with krec := k, krecIn := x.phase, kills := min 0xFFFF (x.kills + 1) } := by
  simp only [Launch.addKrec]
  split
  · exact ⟨x.krec, .inl rfl, rfl⟩
  · exact ⟨r, .inr rfl, rfl⟩

end Sys2Proof.Machine
end

