-- ==== Sys2Proof/Laws/Maps.lean ====
section
/-! SUPPORT. Sparse tables: reading what was written, and what was not. -/
namespace Sys2Proof

@[simp] theorem Map.get?_set_same {α : Type} (m : Map α) (n : Nat) (x : α) : Map.get? (Map.set m n x) n = some x := by
  induction m with
  | nil => simp [Map.set, Map.get?]
  | cons p m ih =>
    obtain ⟨k, v⟩ := p
    by_cases h : k = n <;> simp [Map.set, Map.get?, h, ih]

theorem Map.get?_set_ne {α : Type} (m : Map α) {n k : Nat} (x : α) (h : k ≠ n) :
    Map.get? (Map.set m n x) k = Map.get? m k := by
  induction m with
  | nil => simp [Map.set, Map.get?, Ne.symm h]
  | cons p m ih =>
    obtain ⟨j, v⟩ := p
    by_cases hj : j = n
    · subst hj
      simp [Map.set, Map.get?, Ne.symm h]
    · by_cases hk : j = k
      · subst hk; simp [Map.set, Map.get?, hj]
      · simp [Map.set, Map.get?, hj, hk, ih]

theorem Map.get?_set {α : Type} (m : Map α) (n k : Nat) (x : α) :
    Map.get? (Map.set m n x) k = if k = n then some x else Map.get? m k := by
  by_cases h : k = n
  · subst h; simp
  · simp [h, Map.get?_set_ne m x h]

@[simp] theorem Map.get?_del_same {α : Type} (m : Map α) (n : Nat) : Map.get? (Map.del m n) n = none := by
  induction m with
  | nil => rfl
  | cons p m ih =>
    obtain ⟨k, v⟩ := p
    by_cases h : k = n <;> simp [Map.del, Map.get?, h, ih]

theorem Map.get?_del_ne {α : Type} (m : Map α) {n k : Nat} (h : k ≠ n) : Map.get? (Map.del m n) k = Map.get? m k := by
  induction m with
  | nil => rfl
  | cons p m ih =>
    obtain ⟨j, v⟩ := p
    by_cases hj : j = n
    · subst hj
      simp [Map.del, Map.get?, Ne.symm h, ih]
    · by_cases hk : j = k
      · subst hk; simp [Map.del, Map.get?, hj]
      · simp [Map.del, Map.get?, hj, hk, ih]

@[simp] theorem Map.get_set_same {α : Type} (d : α) (m : Map α) (n : Nat) (x : α) : Map.get d (Map.set m n x) n = x := by
  simp [Map.get]

theorem Map.get_set_ne {α : Type} (d : α) (m : Map α) {n k : Nat} (x : α) (h : k ≠ n) :
    Map.get d (Map.set m n x) k = Map.get d m k := by
  simp [Map.get, Map.get?_set_ne m x h]

/-- A lookup finds an entry of the list. -/
theorem Map.mem_of_get? {α : Type} {m : Map α} {n : Nat} {x : α} (h : Map.get? m n = some x) : (n, x) ∈ m := by
  induction m with
  | nil => simp [Map.get?] at h
  | cons p m ih =>
    obtain ⟨k, v⟩ := p
    by_cases hk : k = n
    · subst hk
      simp [Map.get?] at h
      simp [h]
    · simp [Map.get?, hk] at h
      exact List.mem_cons_of_mem _ (ih h)

end Sys2Proof
end

