-- ==== Sys2Proof/Laws/State.lean ====
section
/-! SUPPORT. What every update of a part of the state does to every field of the state, and the parts of a task: each by
unfolding, so that later proofs unfold no record update. -/
namespace Sys2Proof.Machine

/-! ### The state -/

@[simp] theorem State.setTask_agenda (s : State) (u : Nat) (t : Task) : (s.setTask u t).agenda = s.agenda := rfl
@[simp] theorem State.setTask_turn (s : State) (u : Nat) (t : Task) : (s.setTask u t).turn = s.turn := rfl
@[simp] theorem State.setTask_cur (s : State) (u : Nat) (t : Task) : (s.setTask u t).cur = s.cur := rfl
@[simp] theorem State.setTask_nextUid (s : State) (u : Nat) (t : Task) : (s.setTask u t).nextUid = s.nextUid := rfl
@[simp] theorem State.setTask_freeCtr (s : State) (u : Nat) (t : Task) : (s.setTask u t).freeCtr = s.freeCtr := rfl
@[simp] theorem State.setTask_dtime (s : State) (u : Nat) (t : Task) : (s.setTask u t).dtime = s.dtime := rfl
@[simp] theorem State.setTask_mem (s : State) (u : Nat) (t : Task) : (s.setTask u t).mem = s.mem := rfl
@[simp] theorem State.setTask_ms (s : State) (u : Nat) (t : Task) : (s.setTask u t).ms = s.ms := rfl
@[simp] theorem State.setTask_tasks (s : State) (u : Nat) (t : Task) : (s.setTask u t).tasks = Map.set s.tasks u t := rfl
@[simp] theorem State.setTask_cores (s : State) (u : Nat) (t : Task) : (s.setTask u t).cores = s.cores := rfl
@[simp] theorem State.setTask_clusters (s : State) (u : Nat) (t : Task) : (s.setTask u t).clusters = s.clusters := rfl
@[simp] theorem State.setTask_launches (s : State) (u : Nat) (t : Task) : (s.setTask u t).launches = s.launches := rfl
@[simp] theorem State.setTask_vfs (s : State) (u : Nat) (t : Task) : (s.setTask u t).vfs = s.vfs := rfl
@[simp] theorem State.setTask_msgs (s : State) (u : Nat) (t : Task) : (s.setTask u t).msgs = s.msgs := rfl
@[simp] theorem State.setTask_hub (s : State) (u : Nat) (t : Task) : (s.setTask u t).hub = s.hub := rfl
@[simp] theorem State.setTask_hostOut (s : State) (u : Nat) (t : Task) : (s.setTask u t).hostOut = s.hostOut := rfl

@[simp] theorem State.setMe_agenda (s : State) (t : Task) : (s.setMe t).agenda = s.agenda := rfl
@[simp] theorem State.setMe_turn (s : State) (t : Task) : (s.setMe t).turn = s.turn := rfl
@[simp] theorem State.setMe_cur (s : State) (t : Task) : (s.setMe t).cur = s.cur := rfl
@[simp] theorem State.setMe_nextUid (s : State) (t : Task) : (s.setMe t).nextUid = s.nextUid := rfl
@[simp] theorem State.setMe_freeCtr (s : State) (t : Task) : (s.setMe t).freeCtr = s.freeCtr := rfl
@[simp] theorem State.setMe_dtime (s : State) (t : Task) : (s.setMe t).dtime = s.dtime := rfl
@[simp] theorem State.setMe_mem (s : State) (t : Task) : (s.setMe t).mem = s.mem := rfl
@[simp] theorem State.setMe_ms (s : State) (t : Task) : (s.setMe t).ms = s.ms := rfl
@[simp] theorem State.setMe_tasks (s : State) (t : Task) : (s.setMe t).tasks = Map.set s.tasks s.cur t := rfl
@[simp] theorem State.setMe_cores (s : State) (t : Task) : (s.setMe t).cores = s.cores := rfl
@[simp] theorem State.setMe_clusters (s : State) (t : Task) : (s.setMe t).clusters = s.clusters := rfl
@[simp] theorem State.setMe_launches (s : State) (t : Task) : (s.setMe t).launches = s.launches := rfl
@[simp] theorem State.setMe_vfs (s : State) (t : Task) : (s.setMe t).vfs = s.vfs := rfl
@[simp] theorem State.setMe_msgs (s : State) (t : Task) : (s.setMe t).msgs = s.msgs := rfl
@[simp] theorem State.setMe_hub (s : State) (t : Task) : (s.setMe t).hub = s.hub := rfl
@[simp] theorem State.setMe_hostOut (s : State) (t : Task) : (s.setMe t).hostOut = s.hostOut := rfl

@[simp] theorem State.onMe_agenda (s : State) (f : Task → Task) : (s.onMe f).agenda = s.agenda := rfl
@[simp] theorem State.onMe_turn (s : State) (f : Task → Task) : (s.onMe f).turn = s.turn := rfl
@[simp] theorem State.onMe_cur (s : State) (f : Task → Task) : (s.onMe f).cur = s.cur := rfl
@[simp] theorem State.onMe_nextUid (s : State) (f : Task → Task) : (s.onMe f).nextUid = s.nextUid := rfl
@[simp] theorem State.onMe_freeCtr (s : State) (f : Task → Task) : (s.onMe f).freeCtr = s.freeCtr := rfl
@[simp] theorem State.onMe_dtime (s : State) (f : Task → Task) : (s.onMe f).dtime = s.dtime := rfl
@[simp] theorem State.onMe_mem (s : State) (f : Task → Task) : (s.onMe f).mem = s.mem := rfl
@[simp] theorem State.onMe_ms (s : State) (f : Task → Task) : (s.onMe f).ms = s.ms := rfl
@[simp] theorem State.onMe_tasks (s : State) (f : Task → Task) : (s.onMe f).tasks = Map.set s.tasks s.cur (f s.me) := rfl
@[simp] theorem State.onMe_cores (s : State) (f : Task → Task) : (s.onMe f).cores = s.cores := rfl
@[simp] theorem State.onMe_clusters (s : State) (f : Task → Task) : (s.onMe f).clusters = s.clusters := rfl
@[simp] theorem State.onMe_launches (s : State) (f : Task → Task) : (s.onMe f).launches = s.launches := rfl
@[simp] theorem State.onMe_vfs (s : State) (f : Task → Task) : (s.onMe f).vfs = s.vfs := rfl
@[simp] theorem State.onMe_msgs (s : State) (f : Task → Task) : (s.onMe f).msgs = s.msgs := rfl
@[simp] theorem State.onMe_hub (s : State) (f : Task → Task) : (s.onMe f).hub = s.hub := rfl
@[simp] theorem State.onMe_hostOut (s : State) (f : Task → Task) : (s.onMe f).hostOut = s.hostOut := rfl

@[simp] theorem State.setX_agenda (s : State) (r : BitVec 5) (v : Word) : (s.setX r v).agenda = s.agenda := rfl
@[simp] theorem State.setX_turn (s : State) (r : BitVec 5) (v : Word) : (s.setX r v).turn = s.turn := rfl
@[simp] theorem State.setX_cur (s : State) (r : BitVec 5) (v : Word) : (s.setX r v).cur = s.cur := rfl
@[simp] theorem State.setX_nextUid (s : State) (r : BitVec 5) (v : Word) : (s.setX r v).nextUid = s.nextUid := rfl
@[simp] theorem State.setX_freeCtr (s : State) (r : BitVec 5) (v : Word) : (s.setX r v).freeCtr = s.freeCtr := rfl
@[simp] theorem State.setX_dtime (s : State) (r : BitVec 5) (v : Word) : (s.setX r v).dtime = s.dtime := rfl
@[simp] theorem State.setX_mem (s : State) (r : BitVec 5) (v : Word) : (s.setX r v).mem = s.mem := rfl
@[simp] theorem State.setX_ms (s : State) (r : BitVec 5) (v : Word) : (s.setX r v).ms = s.ms := rfl
@[simp] theorem State.setX_tasks (s : State) (r : BitVec 5) (v : Word) : (s.setX r v).tasks = Map.set s.tasks s.cur (s.me.setX r v) := rfl
@[simp] theorem State.setX_cores (s : State) (r : BitVec 5) (v : Word) : (s.setX r v).cores = s.cores := rfl
@[simp] theorem State.setX_clusters (s : State) (r : BitVec 5) (v : Word) : (s.setX r v).clusters = s.clusters := rfl
@[simp] theorem State.setX_launches (s : State) (r : BitVec 5) (v : Word) : (s.setX r v).launches = s.launches := rfl
@[simp] theorem State.setX_vfs (s : State) (r : BitVec 5) (v : Word) : (s.setX r v).vfs = s.vfs := rfl
@[simp] theorem State.setX_msgs (s : State) (r : BitVec 5) (v : Word) : (s.setX r v).msgs = s.msgs := rfl
@[simp] theorem State.setX_hub (s : State) (r : BitVec 5) (v : Word) : (s.setX r v).hub = s.hub := rfl
@[simp] theorem State.setX_hostOut (s : State) (r : BitVec 5) (v : Word) : (s.setX r v).hostOut = s.hostOut := rfl

@[simp] theorem State.orFlags_agenda (s : State) (f : BitVec 5) : (s.orFlags f).agenda = s.agenda := rfl
@[simp] theorem State.orFlags_turn (s : State) (f : BitVec 5) : (s.orFlags f).turn = s.turn := rfl
@[simp] theorem State.orFlags_cur (s : State) (f : BitVec 5) : (s.orFlags f).cur = s.cur := rfl
@[simp] theorem State.orFlags_nextUid (s : State) (f : BitVec 5) : (s.orFlags f).nextUid = s.nextUid := rfl
@[simp] theorem State.orFlags_freeCtr (s : State) (f : BitVec 5) : (s.orFlags f).freeCtr = s.freeCtr := rfl
@[simp] theorem State.orFlags_dtime (s : State) (f : BitVec 5) : (s.orFlags f).dtime = s.dtime := rfl
@[simp] theorem State.orFlags_mem (s : State) (f : BitVec 5) : (s.orFlags f).mem = s.mem := rfl
@[simp] theorem State.orFlags_ms (s : State) (f : BitVec 5) : (s.orFlags f).ms = s.ms := rfl
@[simp] theorem State.orFlags_tasks (s : State) (f : BitVec 5) : (s.orFlags f).tasks = Map.set s.tasks s.cur (s.me.orFlags f) := rfl
@[simp] theorem State.orFlags_cores (s : State) (f : BitVec 5) : (s.orFlags f).cores = s.cores := rfl
@[simp] theorem State.orFlags_clusters (s : State) (f : BitVec 5) : (s.orFlags f).clusters = s.clusters := rfl
@[simp] theorem State.orFlags_launches (s : State) (f : BitVec 5) : (s.orFlags f).launches = s.launches := rfl
@[simp] theorem State.orFlags_vfs (s : State) (f : BitVec 5) : (s.orFlags f).vfs = s.vfs := rfl
@[simp] theorem State.orFlags_msgs (s : State) (f : BitVec 5) : (s.orFlags f).msgs = s.msgs := rfl
@[simp] theorem State.orFlags_hub (s : State) (f : BitVec 5) : (s.orFlags f).hub = s.hub := rfl
@[simp] theorem State.orFlags_hostOut (s : State) (f : BitVec 5) : (s.orFlags f).hostOut = s.hostOut := rfl

@[simp] theorem State.setPc_agenda (s : State) (v : Word) : (s.setPc v).agenda = s.agenda := rfl
@[simp] theorem State.setPc_turn (s : State) (v : Word) : (s.setPc v).turn = s.turn := rfl
@[simp] theorem State.setPc_cur (s : State) (v : Word) : (s.setPc v).cur = s.cur := rfl
@[simp] theorem State.setPc_nextUid (s : State) (v : Word) : (s.setPc v).nextUid = s.nextUid := rfl
@[simp] theorem State.setPc_freeCtr (s : State) (v : Word) : (s.setPc v).freeCtr = s.freeCtr := rfl
@[simp] theorem State.setPc_dtime (s : State) (v : Word) : (s.setPc v).dtime = s.dtime := rfl
@[simp] theorem State.setPc_mem (s : State) (v : Word) : (s.setPc v).mem = s.mem := rfl
@[simp] theorem State.setPc_ms (s : State) (v : Word) : (s.setPc v).ms = s.ms := rfl
@[simp] theorem State.setPc_tasks (s : State) (v : Word) : (s.setPc v).tasks = Map.set s.tasks s.cur (s.me.onRf (fun f => { f with pc := v })) := rfl
@[simp] theorem State.setPc_cores (s : State) (v : Word) : (s.setPc v).cores = s.cores := rfl
@[simp] theorem State.setPc_clusters (s : State) (v : Word) : (s.setPc v).clusters = s.clusters := rfl
@[simp] theorem State.setPc_launches (s : State) (v : Word) : (s.setPc v).launches = s.launches := rfl
@[simp] theorem State.setPc_vfs (s : State) (v : Word) : (s.setPc v).vfs = s.vfs := rfl
@[simp] theorem State.setPc_msgs (s : State) (v : Word) : (s.setPc v).msgs = s.msgs := rfl
@[simp] theorem State.setPc_hub (s : State) (v : Word) : (s.setPc v).hub = s.hub := rfl
@[simp] theorem State.setPc_hostOut (s : State) (v : Word) : (s.setPc v).hostOut = s.hostOut := rfl

@[simp] theorem State.retireTo_agenda (s : State) (p : Word) : (s.retireTo p).agenda = s.agenda := rfl
@[simp] theorem State.retireTo_turn (s : State) (p : Word) : (s.retireTo p).turn = s.turn := rfl
@[simp] theorem State.retireTo_cur (s : State) (p : Word) : (s.retireTo p).cur = s.cur := rfl
@[simp] theorem State.retireTo_nextUid (s : State) (p : Word) : (s.retireTo p).nextUid = s.nextUid := rfl
@[simp] theorem State.retireTo_freeCtr (s : State) (p : Word) : (s.retireTo p).freeCtr = s.freeCtr := rfl
@[simp] theorem State.retireTo_dtime (s : State) (p : Word) : (s.retireTo p).dtime = s.dtime := rfl
@[simp] theorem State.retireTo_mem (s : State) (p : Word) : (s.retireTo p).mem = s.mem := rfl
@[simp] theorem State.retireTo_ms (s : State) (p : Word) : (s.retireTo p).ms = s.ms := rfl
@[simp] theorem State.retireTo_tasks (s : State) (p : Word) : (s.retireTo p).tasks = Map.set s.tasks s.cur (s.me.retired s.det p) := rfl
@[simp] theorem State.retireTo_cores (s : State) (p : Word) : (s.retireTo p).cores = s.cores := rfl
@[simp] theorem State.retireTo_clusters (s : State) (p : Word) : (s.retireTo p).clusters = s.clusters := rfl
@[simp] theorem State.retireTo_launches (s : State) (p : Word) : (s.retireTo p).launches = s.launches := rfl
@[simp] theorem State.retireTo_vfs (s : State) (p : Word) : (s.retireTo p).vfs = s.vfs := rfl
@[simp] theorem State.retireTo_msgs (s : State) (p : Word) : (s.retireTo p).msgs = s.msgs := rfl
@[simp] theorem State.retireTo_hub (s : State) (p : Word) : (s.retireTo p).hub = s.hub := rfl
@[simp] theorem State.retireTo_hostOut (s : State) (p : Word) : (s.retireTo p).hostOut = s.hostOut := rfl

@[simp] theorem State.retire_agenda (s : State) (n : Nat) : (s.retire n).agenda = s.agenda := rfl
@[simp] theorem State.retire_turn (s : State) (n : Nat) : (s.retire n).turn = s.turn := rfl
@[simp] theorem State.retire_cur (s : State) (n : Nat) : (s.retire n).cur = s.cur := rfl
@[simp] theorem State.retire_nextUid (s : State) (n : Nat) : (s.retire n).nextUid = s.nextUid := rfl
@[simp] theorem State.retire_freeCtr (s : State) (n : Nat) : (s.retire n).freeCtr = s.freeCtr := rfl
@[simp] theorem State.retire_dtime (s : State) (n : Nat) : (s.retire n).dtime = s.dtime := rfl
@[simp] theorem State.retire_mem (s : State) (n : Nat) : (s.retire n).mem = s.mem := rfl
@[simp] theorem State.retire_ms (s : State) (n : Nat) : (s.retire n).ms = s.ms := rfl
@[simp] theorem State.retire_tasks (s : State) (n : Nat) : (s.retire n).tasks = Map.set s.tasks s.cur (s.me.retired s.det (s.pc + BitVec.ofNat 64 n)) := rfl
@[simp] theorem State.retire_cores (s : State) (n : Nat) : (s.retire n).cores = s.cores := rfl
@[simp] theorem State.retire_clusters (s : State) (n : Nat) : (s.retire n).clusters = s.clusters := rfl
@[simp] theorem State.retire_launches (s : State) (n : Nat) : (s.retire n).launches = s.launches := rfl
@[simp] theorem State.retire_vfs (s : State) (n : Nat) : (s.retire n).vfs = s.vfs := rfl
@[simp] theorem State.retire_msgs (s : State) (n : Nat) : (s.retire n).msgs = s.msgs := rfl
@[simp] theorem State.retire_hub (s : State) (n : Nat) : (s.retire n).hub = s.hub := rfl
@[simp] theorem State.retire_hostOut (s : State) (n : Nat) : (s.retire n).hostOut = s.hostOut := rfl

@[simp] theorem State.setCore_agenda (s : State) (g : Nat) (c : CoreSt) : (s.setCore g c).agenda = s.agenda := rfl
@[simp] theorem State.setCore_turn (s : State) (g : Nat) (c : CoreSt) : (s.setCore g c).turn = s.turn := rfl
@[simp] theorem State.setCore_cur (s : State) (g : Nat) (c : CoreSt) : (s.setCore g c).cur = s.cur := rfl
@[simp] theorem State.setCore_nextUid (s : State) (g : Nat) (c : CoreSt) : (s.setCore g c).nextUid = s.nextUid := rfl
@[simp] theorem State.setCore_freeCtr (s : State) (g : Nat) (c : CoreSt) : (s.setCore g c).freeCtr = s.freeCtr := rfl
@[simp] theorem State.setCore_dtime (s : State) (g : Nat) (c : CoreSt) : (s.setCore g c).dtime = s.dtime := rfl
@[simp] theorem State.setCore_mem (s : State) (g : Nat) (c : CoreSt) : (s.setCore g c).mem = s.mem := rfl
@[simp] theorem State.setCore_ms (s : State) (g : Nat) (c : CoreSt) : (s.setCore g c).ms = s.ms := rfl
@[simp] theorem State.setCore_tasks (s : State) (g : Nat) (c : CoreSt) : (s.setCore g c).tasks = s.tasks := rfl
@[simp] theorem State.setCore_cores (s : State) (g : Nat) (c : CoreSt) : (s.setCore g c).cores = Map.set s.cores g c := rfl
@[simp] theorem State.setCore_clusters (s : State) (g : Nat) (c : CoreSt) : (s.setCore g c).clusters = s.clusters := rfl
@[simp] theorem State.setCore_launches (s : State) (g : Nat) (c : CoreSt) : (s.setCore g c).launches = s.launches := rfl
@[simp] theorem State.setCore_vfs (s : State) (g : Nat) (c : CoreSt) : (s.setCore g c).vfs = s.vfs := rfl
@[simp] theorem State.setCore_msgs (s : State) (g : Nat) (c : CoreSt) : (s.setCore g c).msgs = s.msgs := rfl
@[simp] theorem State.setCore_hub (s : State) (g : Nat) (c : CoreSt) : (s.setCore g c).hub = s.hub := rfl
@[simp] theorem State.setCore_hostOut (s : State) (g : Nat) (c : CoreSt) : (s.setCore g c).hostOut = s.hostOut := rfl

@[simp] theorem State.onCore_agenda (s : State) (g : Nat) (f : CoreSt → CoreSt) : (s.onCore g f).agenda = s.agenda := rfl
@[simp] theorem State.onCore_turn (s : State) (g : Nat) (f : CoreSt → CoreSt) : (s.onCore g f).turn = s.turn := rfl
@[simp] theorem State.onCore_cur (s : State) (g : Nat) (f : CoreSt → CoreSt) : (s.onCore g f).cur = s.cur := rfl
@[simp] theorem State.onCore_nextUid (s : State) (g : Nat) (f : CoreSt → CoreSt) : (s.onCore g f).nextUid = s.nextUid := rfl
@[simp] theorem State.onCore_freeCtr (s : State) (g : Nat) (f : CoreSt → CoreSt) : (s.onCore g f).freeCtr = s.freeCtr := rfl
@[simp] theorem State.onCore_dtime (s : State) (g : Nat) (f : CoreSt → CoreSt) : (s.onCore g f).dtime = s.dtime := rfl
@[simp] theorem State.onCore_mem (s : State) (g : Nat) (f : CoreSt → CoreSt) : (s.onCore g f).mem = s.mem := rfl
@[simp] theorem State.onCore_ms (s : State) (g : Nat) (f : CoreSt → CoreSt) : (s.onCore g f).ms = s.ms := rfl
@[simp] theorem State.onCore_tasks (s : State) (g : Nat) (f : CoreSt → CoreSt) : (s.onCore g f).tasks = s.tasks := rfl
@[simp] theorem State.onCore_cores (s : State) (g : Nat) (f : CoreSt → CoreSt) : (s.onCore g f).cores = Map.set s.cores g (f (s.coreSt g)) := rfl
@[simp] theorem State.onCore_clusters (s : State) (g : Nat) (f : CoreSt → CoreSt) : (s.onCore g f).clusters = s.clusters := rfl
@[simp] theorem State.onCore_launches (s : State) (g : Nat) (f : CoreSt → CoreSt) : (s.onCore g f).launches = s.launches := rfl
@[simp] theorem State.onCore_vfs (s : State) (g : Nat) (f : CoreSt → CoreSt) : (s.onCore g f).vfs = s.vfs := rfl
@[simp] theorem State.onCore_msgs (s : State) (g : Nat) (f : CoreSt → CoreSt) : (s.onCore g f).msgs = s.msgs := rfl
@[simp] theorem State.onCore_hub (s : State) (g : Nat) (f : CoreSt → CoreSt) : (s.onCore g f).hub = s.hub := rfl
@[simp] theorem State.onCore_hostOut (s : State) (g : Nat) (f : CoreSt → CoreSt) : (s.onCore g f).hostOut = s.hostOut := rfl

@[simp] theorem State.setCluster_agenda (s : State) (c : Nat) (x : ClusterSt) : (s.setCluster c x).agenda = s.agenda := rfl
@[simp] theorem State.setCluster_turn (s : State) (c : Nat) (x : ClusterSt) : (s.setCluster c x).turn = s.turn := rfl
@[simp] theorem State.setCluster_cur (s : State) (c : Nat) (x : ClusterSt) : (s.setCluster c x).cur = s.cur := rfl
@[simp] theorem State.setCluster_nextUid (s : State) (c : Nat) (x : ClusterSt) : (s.setCluster c x).nextUid = s.nextUid := rfl
@[simp] theorem State.setCluster_freeCtr (s : State) (c : Nat) (x : ClusterSt) : (s.setCluster c x).freeCtr = s.freeCtr := rfl
@[simp] theorem State.setCluster_dtime (s : State) (c : Nat) (x : ClusterSt) : (s.setCluster c x).dtime = s.dtime := rfl
@[simp] theorem State.setCluster_mem (s : State) (c : Nat) (x : ClusterSt) : (s.setCluster c x).mem = s.mem := rfl
@[simp] theorem State.setCluster_ms (s : State) (c : Nat) (x : ClusterSt) : (s.setCluster c x).ms = s.ms := rfl
@[simp] theorem State.setCluster_tasks (s : State) (c : Nat) (x : ClusterSt) : (s.setCluster c x).tasks = s.tasks := rfl
@[simp] theorem State.setCluster_cores (s : State) (c : Nat) (x : ClusterSt) : (s.setCluster c x).cores = s.cores := rfl
@[simp] theorem State.setCluster_clusters (s : State) (c : Nat) (x : ClusterSt) : (s.setCluster c x).clusters = Map.set s.clusters c x := rfl
@[simp] theorem State.setCluster_launches (s : State) (c : Nat) (x : ClusterSt) : (s.setCluster c x).launches = s.launches := rfl
@[simp] theorem State.setCluster_vfs (s : State) (c : Nat) (x : ClusterSt) : (s.setCluster c x).vfs = s.vfs := rfl
@[simp] theorem State.setCluster_msgs (s : State) (c : Nat) (x : ClusterSt) : (s.setCluster c x).msgs = s.msgs := rfl
@[simp] theorem State.setCluster_hub (s : State) (c : Nat) (x : ClusterSt) : (s.setCluster c x).hub = s.hub := rfl
@[simp] theorem State.setCluster_hostOut (s : State) (c : Nat) (x : ClusterSt) : (s.setCluster c x).hostOut = s.hostOut := rfl

@[simp] theorem State.onCluster_agenda (s : State) (c : Nat) (f : ClusterSt → ClusterSt) : (s.onCluster c f).agenda = s.agenda := rfl
@[simp] theorem State.onCluster_turn (s : State) (c : Nat) (f : ClusterSt → ClusterSt) : (s.onCluster c f).turn = s.turn := rfl
@[simp] theorem State.onCluster_cur (s : State) (c : Nat) (f : ClusterSt → ClusterSt) : (s.onCluster c f).cur = s.cur := rfl
@[simp] theorem State.onCluster_nextUid (s : State) (c : Nat) (f : ClusterSt → ClusterSt) : (s.onCluster c f).nextUid = s.nextUid := rfl
@[simp] theorem State.onCluster_freeCtr (s : State) (c : Nat) (f : ClusterSt → ClusterSt) : (s.onCluster c f).freeCtr = s.freeCtr := rfl
@[simp] theorem State.onCluster_dtime (s : State) (c : Nat) (f : ClusterSt → ClusterSt) : (s.onCluster c f).dtime = s.dtime := rfl
@[simp] theorem State.onCluster_mem (s : State) (c : Nat) (f : ClusterSt → ClusterSt) : (s.onCluster c f).mem = s.mem := rfl
@[simp] theorem State.onCluster_ms (s : State) (c : Nat) (f : ClusterSt → ClusterSt) : (s.onCluster c f).ms = s.ms := rfl
@[simp] theorem State.onCluster_tasks (s : State) (c : Nat) (f : ClusterSt → ClusterSt) : (s.onCluster c f).tasks = s.tasks := rfl
@[simp] theorem State.onCluster_cores (s : State) (c : Nat) (f : ClusterSt → ClusterSt) : (s.onCluster c f).cores = s.cores := rfl
@[simp] theorem State.onCluster_clusters (s : State) (c : Nat) (f : ClusterSt → ClusterSt) : (s.onCluster c f).clusters = Map.set s.clusters c (f (s.cluster c)) := rfl
@[simp] theorem State.onCluster_launches (s : State) (c : Nat) (f : ClusterSt → ClusterSt) : (s.onCluster c f).launches = s.launches := rfl
@[simp] theorem State.onCluster_vfs (s : State) (c : Nat) (f : ClusterSt → ClusterSt) : (s.onCluster c f).vfs = s.vfs := rfl
@[simp] theorem State.onCluster_msgs (s : State) (c : Nat) (f : ClusterSt → ClusterSt) : (s.onCluster c f).msgs = s.msgs := rfl
@[simp] theorem State.onCluster_hub (s : State) (c : Nat) (f : ClusterSt → ClusterSt) : (s.onCluster c f).hub = s.hub := rfl
@[simp] theorem State.onCluster_hostOut (s : State) (c : Nat) (f : ClusterSt → ClusterSt) : (s.onCluster c f).hostOut = s.hostOut := rfl

@[simp] theorem State.setLaunch_agenda (s : State) (l : Nat) (x : Launch) : (s.setLaunch l x).agenda = s.agenda := rfl
@[simp] theorem State.setLaunch_turn (s : State) (l : Nat) (x : Launch) : (s.setLaunch l x).turn = s.turn := rfl
@[simp] theorem State.setLaunch_cur (s : State) (l : Nat) (x : Launch) : (s.setLaunch l x).cur = s.cur := rfl
@[simp] theorem State.setLaunch_nextUid (s : State) (l : Nat) (x : Launch) : (s.setLaunch l x).nextUid = s.nextUid := rfl
@[simp] theorem State.setLaunch_freeCtr (s : State) (l : Nat) (x : Launch) : (s.setLaunch l x).freeCtr = s.freeCtr := rfl
@[simp] theorem State.setLaunch_dtime (s : State) (l : Nat) (x : Launch) : (s.setLaunch l x).dtime = s.dtime := rfl
@[simp] theorem State.setLaunch_mem (s : State) (l : Nat) (x : Launch) : (s.setLaunch l x).mem = s.mem := rfl
@[simp] theorem State.setLaunch_ms (s : State) (l : Nat) (x : Launch) : (s.setLaunch l x).ms = s.ms := rfl
@[simp] theorem State.setLaunch_tasks (s : State) (l : Nat) (x : Launch) : (s.setLaunch l x).tasks = s.tasks := rfl
@[simp] theorem State.setLaunch_cores (s : State) (l : Nat) (x : Launch) : (s.setLaunch l x).cores = s.cores := rfl
@[simp] theorem State.setLaunch_clusters (s : State) (l : Nat) (x : Launch) : (s.setLaunch l x).clusters = s.clusters := rfl
@[simp] theorem State.setLaunch_launches (s : State) (l : Nat) (x : Launch) : (s.setLaunch l x).launches = Map.set s.launches l x := rfl
@[simp] theorem State.setLaunch_vfs (s : State) (l : Nat) (x : Launch) : (s.setLaunch l x).vfs = s.vfs := rfl
@[simp] theorem State.setLaunch_msgs (s : State) (l : Nat) (x : Launch) : (s.setLaunch l x).msgs = s.msgs := rfl
@[simp] theorem State.setLaunch_hub (s : State) (l : Nat) (x : Launch) : (s.setLaunch l x).hub = s.hub := rfl
@[simp] theorem State.setLaunch_hostOut (s : State) (l : Nat) (x : Launch) : (s.setLaunch l x).hostOut = s.hostOut := rfl

@[simp] theorem State.setVf_agenda (s : State) (v : Nat) (x : Vf) : (s.setVf v x).agenda = s.agenda := rfl
@[simp] theorem State.setVf_turn (s : State) (v : Nat) (x : Vf) : (s.setVf v x).turn = s.turn := rfl
@[simp] theorem State.setVf_cur (s : State) (v : Nat) (x : Vf) : (s.setVf v x).cur = s.cur := rfl
@[simp] theorem State.setVf_nextUid (s : State) (v : Nat) (x : Vf) : (s.setVf v x).nextUid = s.nextUid := rfl
@[simp] theorem State.setVf_freeCtr (s : State) (v : Nat) (x : Vf) : (s.setVf v x).freeCtr = s.freeCtr := rfl
@[simp] theorem State.setVf_dtime (s : State) (v : Nat) (x : Vf) : (s.setVf v x).dtime = s.dtime := rfl
@[simp] theorem State.setVf_mem (s : State) (v : Nat) (x : Vf) : (s.setVf v x).mem = s.mem := rfl
@[simp] theorem State.setVf_ms (s : State) (v : Nat) (x : Vf) : (s.setVf v x).ms = s.ms := rfl
@[simp] theorem State.setVf_tasks (s : State) (v : Nat) (x : Vf) : (s.setVf v x).tasks = s.tasks := rfl
@[simp] theorem State.setVf_cores (s : State) (v : Nat) (x : Vf) : (s.setVf v x).cores = s.cores := rfl
@[simp] theorem State.setVf_clusters (s : State) (v : Nat) (x : Vf) : (s.setVf v x).clusters = s.clusters := rfl
@[simp] theorem State.setVf_launches (s : State) (v : Nat) (x : Vf) : (s.setVf v x).launches = s.launches := rfl
@[simp] theorem State.setVf_vfs (s : State) (v : Nat) (x : Vf) : (s.setVf v x).vfs = Map.set s.vfs v x := rfl
@[simp] theorem State.setVf_msgs (s : State) (v : Nat) (x : Vf) : (s.setVf v x).msgs = s.msgs := rfl
@[simp] theorem State.setVf_hub (s : State) (v : Nat) (x : Vf) : (s.setVf v x).hub = s.hub := rfl
@[simp] theorem State.setVf_hostOut (s : State) (v : Nat) (x : Vf) : (s.setVf v x).hostOut = s.hostOut := rfl

@[simp] theorem State.onVf_agenda (s : State) (v : Nat) (f : Vf → Vf) : (s.onVf v f).agenda = s.agenda := rfl
@[simp] theorem State.onVf_turn (s : State) (v : Nat) (f : Vf → Vf) : (s.onVf v f).turn = s.turn := rfl
@[simp] theorem State.onVf_cur (s : State) (v : Nat) (f : Vf → Vf) : (s.onVf v f).cur = s.cur := rfl
@[simp] theorem State.onVf_nextUid (s : State) (v : Nat) (f : Vf → Vf) : (s.onVf v f).nextUid = s.nextUid := rfl
@[simp] theorem State.onVf_freeCtr (s : State) (v : Nat) (f : Vf → Vf) : (s.onVf v f).freeCtr = s.freeCtr := rfl
@[simp] theorem State.onVf_dtime (s : State) (v : Nat) (f : Vf → Vf) : (s.onVf v f).dtime = s.dtime := rfl
@[simp] theorem State.onVf_mem (s : State) (v : Nat) (f : Vf → Vf) : (s.onVf v f).mem = s.mem := rfl
@[simp] theorem State.onVf_ms (s : State) (v : Nat) (f : Vf → Vf) : (s.onVf v f).ms = s.ms := rfl
@[simp] theorem State.onVf_tasks (s : State) (v : Nat) (f : Vf → Vf) : (s.onVf v f).tasks = s.tasks := rfl
@[simp] theorem State.onVf_cores (s : State) (v : Nat) (f : Vf → Vf) : (s.onVf v f).cores = s.cores := rfl
@[simp] theorem State.onVf_clusters (s : State) (v : Nat) (f : Vf → Vf) : (s.onVf v f).clusters = s.clusters := rfl
@[simp] theorem State.onVf_launches (s : State) (v : Nat) (f : Vf → Vf) : (s.onVf v f).launches = s.launches := rfl
@[simp] theorem State.onVf_vfs (s : State) (v : Nat) (f : Vf → Vf) : (s.onVf v f).vfs = Map.set s.vfs v (f (s.vf v)) := rfl
@[simp] theorem State.onVf_msgs (s : State) (v : Nat) (f : Vf → Vf) : (s.onVf v f).msgs = s.msgs := rfl
@[simp] theorem State.onVf_hub (s : State) (v : Nat) (f : Vf → Vf) : (s.onVf v f).hub = s.hub := rfl
@[simp] theorem State.onVf_hostOut (s : State) (v : Nat) (f : Vf → Vf) : (s.onVf v f).hostOut = s.hostOut := rfl

@[simp] theorem State.onMs_agenda (s : State) (f : MemSt → MemSt) : (s.onMs f).agenda = s.agenda := rfl
@[simp] theorem State.onMs_turn (s : State) (f : MemSt → MemSt) : (s.onMs f).turn = s.turn := rfl
@[simp] theorem State.onMs_cur (s : State) (f : MemSt → MemSt) : (s.onMs f).cur = s.cur := rfl
@[simp] theorem State.onMs_nextUid (s : State) (f : MemSt → MemSt) : (s.onMs f).nextUid = s.nextUid := rfl
@[simp] theorem State.onMs_freeCtr (s : State) (f : MemSt → MemSt) : (s.onMs f).freeCtr = s.freeCtr := rfl
@[simp] theorem State.onMs_dtime (s : State) (f : MemSt → MemSt) : (s.onMs f).dtime = s.dtime := rfl
@[simp] theorem State.onMs_mem (s : State) (f : MemSt → MemSt) : (s.onMs f).mem = s.mem := rfl
@[simp] theorem State.onMs_ms (s : State) (f : MemSt → MemSt) : (s.onMs f).ms = f s.ms := rfl
@[simp] theorem State.onMs_tasks (s : State) (f : MemSt → MemSt) : (s.onMs f).tasks = s.tasks := rfl
@[simp] theorem State.onMs_cores (s : State) (f : MemSt → MemSt) : (s.onMs f).cores = s.cores := rfl
@[simp] theorem State.onMs_clusters (s : State) (f : MemSt → MemSt) : (s.onMs f).clusters = s.clusters := rfl
@[simp] theorem State.onMs_launches (s : State) (f : MemSt → MemSt) : (s.onMs f).launches = s.launches := rfl
@[simp] theorem State.onMs_vfs (s : State) (f : MemSt → MemSt) : (s.onMs f).vfs = s.vfs := rfl
@[simp] theorem State.onMs_msgs (s : State) (f : MemSt → MemSt) : (s.onMs f).msgs = s.msgs := rfl
@[simp] theorem State.onMs_hub (s : State) (f : MemSt → MemSt) : (s.onMs f).hub = s.hub := rfl
@[simp] theorem State.onMs_hostOut (s : State) (f : MemSt → MemSt) : (s.onMs f).hostOut = s.hostOut := rfl

@[simp] theorem State.onHub_agenda (s : State) (f : Hub → Hub) : (s.onHub f).agenda = s.agenda := rfl
@[simp] theorem State.onHub_turn (s : State) (f : Hub → Hub) : (s.onHub f).turn = s.turn := rfl
@[simp] theorem State.onHub_cur (s : State) (f : Hub → Hub) : (s.onHub f).cur = s.cur := rfl
@[simp] theorem State.onHub_nextUid (s : State) (f : Hub → Hub) : (s.onHub f).nextUid = s.nextUid := rfl
@[simp] theorem State.onHub_freeCtr (s : State) (f : Hub → Hub) : (s.onHub f).freeCtr = s.freeCtr := rfl
@[simp] theorem State.onHub_dtime (s : State) (f : Hub → Hub) : (s.onHub f).dtime = s.dtime := rfl
@[simp] theorem State.onHub_mem (s : State) (f : Hub → Hub) : (s.onHub f).mem = s.mem := rfl
@[simp] theorem State.onHub_ms (s : State) (f : Hub → Hub) : (s.onHub f).ms = s.ms := rfl
@[simp] theorem State.onHub_tasks (s : State) (f : Hub → Hub) : (s.onHub f).tasks = s.tasks := rfl
@[simp] theorem State.onHub_cores (s : State) (f : Hub → Hub) : (s.onHub f).cores = s.cores := rfl
@[simp] theorem State.onHub_clusters (s : State) (f : Hub → Hub) : (s.onHub f).clusters = s.clusters := rfl
@[simp] theorem State.onHub_launches (s : State) (f : Hub → Hub) : (s.onHub f).launches = s.launches := rfl
@[simp] theorem State.onHub_vfs (s : State) (f : Hub → Hub) : (s.onHub f).vfs = s.vfs := rfl
@[simp] theorem State.onHub_msgs (s : State) (f : Hub → Hub) : (s.onHub f).msgs = s.msgs := rfl
@[simp] theorem State.onHub_hub (s : State) (f : Hub → Hub) : (s.onHub f).hub = f s.hub := rfl
@[simp] theorem State.onHub_hostOut (s : State) (f : Hub → Hub) : (s.onHub f).hostOut = s.hostOut := rfl

/-! Updates of a task or launch that need not exist. -/

@[simp] theorem State.updTask_agenda (s : State) (u : Nat) (f : Task → Task) : (s.updTask u f).agenda = s.agenda := by
  unfold State.updTask; split <;> rfl
@[simp] theorem State.updTask_turn (s : State) (u : Nat) (f : Task → Task) : (s.updTask u f).turn = s.turn := by
  unfold State.updTask; split <;> rfl
@[simp] theorem State.updTask_cur (s : State) (u : Nat) (f : Task → Task) : (s.updTask u f).cur = s.cur := by
  unfold State.updTask; split <;> rfl
@[simp] theorem State.updTask_nextUid (s : State) (u : Nat) (f : Task → Task) : (s.updTask u f).nextUid = s.nextUid := by
  unfold State.updTask; split <;> rfl
@[simp] theorem State.updTask_freeCtr (s : State) (u : Nat) (f : Task → Task) : (s.updTask u f).freeCtr = s.freeCtr := by
  unfold State.updTask; split <;> rfl
@[simp] theorem State.updTask_dtime (s : State) (u : Nat) (f : Task → Task) : (s.updTask u f).dtime = s.dtime := by
  unfold State.updTask; split <;> rfl
@[simp] theorem State.updTask_mem (s : State) (u : Nat) (f : Task → Task) : (s.updTask u f).mem = s.mem := by
  unfold State.updTask; split <;> rfl
@[simp] theorem State.updTask_ms (s : State) (u : Nat) (f : Task → Task) : (s.updTask u f).ms = s.ms := by
  unfold State.updTask; split <;> rfl
@[simp] theorem State.updTask_cores (s : State) (u : Nat) (f : Task → Task) : (s.updTask u f).cores = s.cores := by
  unfold State.updTask; split <;> rfl
@[simp] theorem State.updTask_clusters (s : State) (u : Nat) (f : Task → Task) : (s.updTask u f).clusters = s.clusters := by
  unfold State.updTask; split <;> rfl
@[simp] theorem State.updTask_launches (s : State) (u : Nat) (f : Task → Task) : (s.updTask u f).launches = s.launches := by
  unfold State.updTask; split <;> rfl
@[simp] theorem State.updTask_vfs (s : State) (u : Nat) (f : Task → Task) : (s.updTask u f).vfs = s.vfs := by
  unfold State.updTask; split <;> rfl
@[simp] theorem State.updTask_msgs (s : State) (u : Nat) (f : Task → Task) : (s.updTask u f).msgs = s.msgs := by
  unfold State.updTask; split <;> rfl
@[simp] theorem State.updTask_hub (s : State) (u : Nat) (f : Task → Task) : (s.updTask u f).hub = s.hub := by
  unfold State.updTask; split <;> rfl
@[simp] theorem State.updTask_hostOut (s : State) (u : Nat) (f : Task → Task) : (s.updTask u f).hostOut = s.hostOut := by
  unfold State.updTask; split <;> rfl
@[simp] theorem State.onLaunch_agenda (s : State) (l : Nat) (f : Launch → Launch) : (s.onLaunch l f).agenda = s.agenda := by
  unfold State.onLaunch; split <;> rfl
@[simp] theorem State.onLaunch_turn (s : State) (l : Nat) (f : Launch → Launch) : (s.onLaunch l f).turn = s.turn := by
  unfold State.onLaunch; split <;> rfl
@[simp] theorem State.onLaunch_cur (s : State) (l : Nat) (f : Launch → Launch) : (s.onLaunch l f).cur = s.cur := by
  unfold State.onLaunch; split <;> rfl
@[simp] theorem State.onLaunch_nextUid (s : State) (l : Nat) (f : Launch → Launch) : (s.onLaunch l f).nextUid = s.nextUid := by
  unfold State.onLaunch; split <;> rfl
@[simp] theorem State.onLaunch_freeCtr (s : State) (l : Nat) (f : Launch → Launch) : (s.onLaunch l f).freeCtr = s.freeCtr := by
  unfold State.onLaunch; split <;> rfl
@[simp] theorem State.onLaunch_dtime (s : State) (l : Nat) (f : Launch → Launch) : (s.onLaunch l f).dtime = s.dtime := by
  unfold State.onLaunch; split <;> rfl
@[simp] theorem State.onLaunch_mem (s : State) (l : Nat) (f : Launch → Launch) : (s.onLaunch l f).mem = s.mem := by
  unfold State.onLaunch; split <;> rfl
@[simp] theorem State.onLaunch_ms (s : State) (l : Nat) (f : Launch → Launch) : (s.onLaunch l f).ms = s.ms := by
  unfold State.onLaunch; split <;> rfl
@[simp] theorem State.onLaunch_tasks (s : State) (l : Nat) (f : Launch → Launch) : (s.onLaunch l f).tasks = s.tasks := by
  unfold State.onLaunch; split <;> rfl
@[simp] theorem State.onLaunch_cores (s : State) (l : Nat) (f : Launch → Launch) : (s.onLaunch l f).cores = s.cores := by
  unfold State.onLaunch; split <;> rfl
@[simp] theorem State.onLaunch_clusters (s : State) (l : Nat) (f : Launch → Launch) : (s.onLaunch l f).clusters = s.clusters := by
  unfold State.onLaunch; split <;> rfl
@[simp] theorem State.onLaunch_vfs (s : State) (l : Nat) (f : Launch → Launch) : (s.onLaunch l f).vfs = s.vfs := by
  unfold State.onLaunch; split <;> rfl
@[simp] theorem State.onLaunch_msgs (s : State) (l : Nat) (f : Launch → Launch) : (s.onLaunch l f).msgs = s.msgs := by
  unfold State.onLaunch; split <;> rfl
@[simp] theorem State.onLaunch_hub (s : State) (l : Nat) (f : Launch → Launch) : (s.onLaunch l f).hub = s.hub := by
  unfold State.onLaunch; split <;> rfl
@[simp] theorem State.onLaunch_hostOut (s : State) (l : Nat) (f : Launch → Launch) : (s.onLaunch l f).hostOut = s.hostOut := by
  unfold State.onLaunch; split <;> rfl
@[simp] theorem State.takeFree_agenda (s : State) : s.takeFree.2.agenda = s.agenda := rfl
@[simp] theorem State.takeFree_turn (s : State) : s.takeFree.2.turn = s.turn := rfl
@[simp] theorem State.takeFree_cur (s : State) : s.takeFree.2.cur = s.cur := rfl
@[simp] theorem State.takeFree_nextUid (s : State) : s.takeFree.2.nextUid = s.nextUid := rfl
@[simp] theorem State.takeFree_freeCtr (s : State) : s.takeFree.2.freeCtr = s.freeCtr + 1 := rfl
@[simp] theorem State.takeFree_dtime (s : State) : s.takeFree.2.dtime = s.dtime := rfl
@[simp] theorem State.takeFree_mem (s : State) : s.takeFree.2.mem = s.mem := rfl
@[simp] theorem State.takeFree_ms (s : State) : s.takeFree.2.ms = s.ms := rfl
@[simp] theorem State.takeFree_tasks (s : State) : s.takeFree.2.tasks = s.tasks := rfl
@[simp] theorem State.takeFree_cores (s : State) : s.takeFree.2.cores = s.cores := rfl
@[simp] theorem State.takeFree_clusters (s : State) : s.takeFree.2.clusters = s.clusters := rfl
@[simp] theorem State.takeFree_launches (s : State) : s.takeFree.2.launches = s.launches := rfl
@[simp] theorem State.takeFree_vfs (s : State) : s.takeFree.2.vfs = s.vfs := rfl
@[simp] theorem State.takeFree_msgs (s : State) : s.takeFree.2.msgs = s.msgs := rfl
@[simp] theorem State.takeFree_hub (s : State) : s.takeFree.2.hub = s.hub := rfl
@[simp] theorem State.takeFree_hostOut (s : State) : s.takeFree.2.hostOut = s.hostOut := rfl

/-! ### The parts of a task -/

@[simp] theorem Task.onPl_tid (t : Task) (f : Place → Place) : (t.onPl f).tid = t.tid := rfl
@[simp] theorem Task.onPl_pl (t : Task) (f : Place → Place) : (t.onPl f).pl = f t.pl := rfl
@[simp] theorem Task.onPl_rf (t : Task) (f : Place → Place) : (t.onPl f).rf = t.rf := rfl
@[simp] theorem Task.onPl_sy (t : Task) (f : Place → Place) : (t.onPl f).sy = t.sy := rfl
@[simp] theorem Task.onPl_io (t : Task) (f : Place → Place) : (t.onPl f).io = t.io := rfl
@[simp] theorem Task.onRf_tid (t : Task) (f : Regs → Regs) : (t.onRf f).tid = t.tid := rfl
@[simp] theorem Task.onRf_pl (t : Task) (f : Regs → Regs) : (t.onRf f).pl = t.pl := rfl
@[simp] theorem Task.onRf_rf (t : Task) (f : Regs → Regs) : (t.onRf f).rf = f t.rf := rfl
@[simp] theorem Task.onRf_sy (t : Task) (f : Regs → Regs) : (t.onRf f).sy = t.sy := rfl
@[simp] theorem Task.onRf_io (t : Task) (f : Regs → Regs) : (t.onRf f).io = t.io := rfl
@[simp] theorem Task.onSy_tid (t : Task) (f : Sys → Sys) : (t.onSy f).tid = t.tid := rfl
@[simp] theorem Task.onSy_pl (t : Task) (f : Sys → Sys) : (t.onSy f).pl = t.pl := rfl
@[simp] theorem Task.onSy_rf (t : Task) (f : Sys → Sys) : (t.onSy f).rf = t.rf := rfl
@[simp] theorem Task.onSy_sy (t : Task) (f : Sys → Sys) : (t.onSy f).sy = f t.sy := rfl
@[simp] theorem Task.onSy_io (t : Task) (f : Sys → Sys) : (t.onSy f).io = t.io := rfl
@[simp] theorem Task.onIo_tid (t : Task) (f : Io → Io) : (t.onIo f).tid = t.tid := rfl
@[simp] theorem Task.onIo_pl (t : Task) (f : Io → Io) : (t.onIo f).pl = t.pl := rfl
@[simp] theorem Task.onIo_rf (t : Task) (f : Io → Io) : (t.onIo f).rf = t.rf := rfl
@[simp] theorem Task.onIo_sy (t : Task) (f : Io → Io) : (t.onIo f).sy = t.sy := rfl
@[simp] theorem Task.onIo_io (t : Task) (f : Io → Io) : (t.onIo f).io = f t.io := rfl

/-! ### Looking up what was written -/

@[simp] theorem State.task_setTask (s : State) (u : Nat) (t : Task) : (s.setTask u t).task u = t := by
  simp [State.task, Map.get]
theorem State.task_setTask_ne (s : State) {u v : Nat} (t : Task) (h : v ≠ u) : (s.setTask u t).task v = s.task v := by
  simp [State.task, Map.get, Map.get?_set_ne _ _ h]
@[simp] theorem State.me_setMe (s : State) (t : Task) : (s.setMe t).me = t := by
  simp [State.me, State.task, Map.get]
@[simp] theorem State.me_onMe (s : State) (f : Task → Task) : (s.onMe f).me = f s.me := State.me_setMe _ _
@[simp] theorem State.coreSt_setCore (s : State) (g : Nat) (c : CoreSt) : (s.setCore g c).coreSt g = c := by
  simp [State.coreSt, Map.get]
theorem State.coreSt_setCore_ne (s : State) {g k : Nat} (c : CoreSt) (h : k ≠ g) : (s.setCore g c).coreSt k = s.coreSt k := by
  simp [State.coreSt, Map.get, Map.get?_set_ne _ _ h]
@[simp] theorem State.cluster_setCluster (s : State) (c : Nat) (x : ClusterSt) : (s.setCluster c x).cluster c = x := by
  simp [State.cluster, Map.get]
theorem State.cluster_setCluster_ne (s : State) {c k : Nat} (x : ClusterSt) (h : k ≠ c) :
    (s.setCluster c x).cluster k = s.cluster k := by
  simp [State.cluster, Map.get, Map.get?_set_ne _ _ h]
@[simp] theorem State.launch_setLaunch (s : State) (l : Nat) (x : Launch) : (s.setLaunch l x).launch l = x := by
  simp [State.launch, Map.get]
theorem State.launch_setLaunch_ne (s : State) {l k : Nat} (x : Launch) (h : k ≠ l) :
    (s.setLaunch l x).launch k = s.launch k := by
  simp [State.launch, Map.get, Map.get?_set_ne _ _ h]
@[simp] theorem State.vf_setVf (s : State) (v : Nat) (x : Vf) : (s.setVf v x).vf v = x := by
  simp [State.vf, Map.get]
theorem State.vf_setVf_ne (s : State) {v k : Nat} (x : Vf) (h : k ≠ v) : (s.setVf v x).vf k = s.vf k := by
  simp [State.vf, Map.get, Map.get?_set_ne _ _ h]
/-- A launch lookup does not see a change of the acting task. -/
@[simp] theorem State.launch_setMe (s : State) (t : Task) (l : Nat) : (s.setMe t).launch l = s.launch l := rfl
@[simp] theorem State.launch_onMe (s : State) (f : Task → Task) (l : Nat) : (s.onMe f).launch l = s.launch l := rfl

end Sys2Proof.Machine
end

