-- ==== Sys2Proof/Laws/Home.lean ====
section
/-! SUPPORT. What the shared operations at a location's home do: memory stays as it was or keeps its canonical form, and where
there is nothing to recall, to write back or to apply they change nothing. -/
namespace Sys2Proof.Machine

/-- A fold keeps what each of its steps keeps. -/
theorem foldl_keeps {α β : Type} (P : α → Prop) (f : α → β → α) (l : List β) (h : ∀ a b, P a → P (f a b)) :
    ∀ a, P a → P (l.foldl f a) := by
  induction l with
  | nil => exact fun _ ha => ha
  | cons b l ih => exact fun a ha => ih _ (h a b ha)

/-! ### Operations that leave memory as it is -/

@[simp] theorem State.doom_mem (s : State) (u : Nat) : (s.doom u).mem = s.mem := by
  unfold State.doom; split <;> simp
@[simp] theorem State.doomAll_mem (us : List Nat) : ∀ s : State, (s.doomAll us).mem = s.mem := by
  induction us with
  | nil => exact fun _ => rfl
  | cons u us ih => exact fun s => by simp [State.doomAll, ih]
@[simp] theorem State.staleReaders_mem (s : State) (self : Nat) (w : Option Pair) (cs : List Host.Cell) :
    (s.staleReaders self w cs).mem = s.mem := by simp [State.staleReaders]
@[simp] theorem State.reap_mem (s : State) : s.reap.mem = s.mem := rfl
@[simp] theorem State.arrive_mem (s : State) (f : Flight → Bool) : (s.arrive f).mem = s.mem := by
  simp only [State.arrive]; split
  · rfl
  · split <;> simp
@[simp] theorem State.settle_mem (s : State) (d : Nat) : (s.settle d).mem = s.mem := by
  unfold State.settle; split <;> simp
@[simp] theorem State.settleAt_mem (s : State) (d : Nat) (ls : List Nat) : (s.settleAt d ls).mem = s.mem := by
  unfold State.settleAt; split <;> simp
@[simp] theorem State.settleHomes_mem (s : State) (vf : Nat) (ls : List Nat) : (s.settleHomes vf ls).mem = s.mem := by
  unfold State.settleHomes; split
  · rfl
  · exact foldl_keeps (fun t : State => t.mem = s.mem) _ _ (fun t d h => by simp [h]) s rfl
@[simp] theorem State.drain_mem (s : State) : s.drain.mem = s.mem := by
  unfold State.drain; split <;> simp
@[simp] theorem State.catchUp_mem (s : State) (d b : Nat) : (s.catchUp d b).mem = s.mem := by
  unfold State.catchUp; split <;> simp
@[simp] theorem State.newReplica_mem (s : State) (vf d l : Nat) : (s.newReplica vf d l).mem = s.mem := by
  simp [State.newReplica]
@[simp] theorem State.newReplicas_mem (vf d : Nat) (ls : List Nat) : ∀ s : State, (s.newReplicas vf d ls).mem = s.mem := by
  induction ls with
  | nil => exact fun _ => rfl
  | cons l ls ih => exact fun s => by simp [State.newReplicas, ih]
@[simp] theorem State.tookReplica_mem (s : State) (vf d : Nat) (locs : List Nat) : (s.tookReplica vf d locs).mem = s.mem := by
  simp only [State.tookReplica]; split <;> simp
@[simp] theorem State.lagBehind_mem (s : State) (x l : Nat) : (s.lagBehind x l).mem = s.mem := by
  simp only [State.lagBehind]; split <;> simp
@[simp] theorem State.lagAll_mem (x : Nat) (ls : List Nat) : ∀ s : State, (s.lagAll x ls).mem = s.mem := by
  induction ls with
  | nil => exact fun _ => rfl
  | cons l ls ih => exact fun s => by simp [State.lagAll, ih]
@[simp] theorem State.send_mem (vf src : Nat) (st : Map Nat) (cs : List Host.Cell) (ser : Nat) (xs : List Nat) :
    ∀ s : State, (s.send vf src st cs ser xs).mem = s.mem := by
  induction xs with
  | nil => exact fun _ => rfl
  | cons x xs ih => exact fun s => by simp [State.send, ih]
@[simp] theorem State.applyCells_mem (s : State) (d : Nat) (a : Bool) (cs : List Host.Cell) : (s.applyCells d a cs).mem = s.mem := by
  simp [State.applyCells]
/-- A write that reaches a die is in memory already. -/
@[simp] theorem State.applyFlight_mem (s : State) (i : Nat) (f : Flight) : (s.applyFlight i f).mem = s.mem := by
  simp only [State.applyFlight]; split <;> simp

/-! ### Operations that write memory and keep its form -/

theorem writeRaw_wf (s : State) (vf d : Nat) (cs : List Host.Cell) (ser : Nat) (h : Memory.wf s.mem = true) :
    Memory.wf (s.writeRaw vf d cs ser).mem = true := by
  simp only [State.writeRaw, State.onMs_mem]
  exact memPut_wf (by split <;> simpa using h)
theorem write_wf (s : State) (vf d self : Nat) (w : Option Pair) (cs : List Host.Cell) (ser : Nat) (h : Memory.wf s.mem = true) :
    Memory.wf (s.write vf d self w cs ser).mem = true := writeRaw_wf _ _ _ _ _ (by simpa using h)
theorem writeCells_wf (s : State) (vf d self : Nat) (w : Option Pair) (cs : List Host.Cell) (ser : Nat)
    (h : Memory.wf s.mem = true) : Memory.wf (s.writeCells vf d self w cs ser).mem = true :=
  foldl_keeps (fun t : State => Memory.wf t.mem = true) _ _ (fun t c ht => write_wf t vf d self w c ser ht) s h
theorem combine_wf (s : State) (vf : Nat) (c : RedCopy) (h : Memory.wf s.mem = true) : Memory.wf (s.combine vf c).mem = true := by
  simpa [State.combine] using write_wf _ _ _ _ _ _ _ (underKey_wf s vf c.key c.loc (c.t.width / 8) h)
theorem combineAll_wf (vf : Nat) (cs : List RedCopy) : ∀ s : State, Memory.wf s.mem = true →
    Memory.wf (s.combineAll vf cs).mem = true := by
  induction cs with
  | nil => exact fun _ h => h
  | cons c cs ih => exact fun s h => ih _ (combine_wf s vf c h)
theorem gather_wf (s : State) (vf l : Nat) (h : Memory.wf s.mem = true) : Memory.wf (s.gather vf l).mem = true := by
  simp only [State.gather]; split
  · exact h
  · exact combineAll_wf vf _ _ h
theorem gatherAll_wf (vf : Nat) (ls : List Nat) : ∀ s : State, Memory.wf s.mem = true → Memory.wf (s.gatherAll vf ls).mem = true := by
  induction ls with
  | nil => exact fun _ h => h
  | cons l ls ih => exact fun s h => ih _ (gather_wf s vf l h)
theorem writePiece_wf (s : State) (p : L1Piece) (h : Memory.wf s.mem = true) : Memory.wf (s.writePiece p).mem = true := by
  simp only [State.writePiece]
  exact writeCells_wf _ _ _ _ _ _ _ (underKeys_wf _ _ _ _ (gatherAll_wf _ _ s h))
theorem writePieces_wf (s : State) (f : L1Piece → Bool) (h : Memory.wf s.mem = true) : Memory.wf (s.writePieces f).mem = true := by
  simp only [State.writePieces]; split
  · exact h
  · exact foldl_keeps (fun t : State => Memory.wf t.mem = true) _ _ (fun t p ht => writePiece_wf t p ht) _ h
theorem liftPins_wf (s : State) (ls : List Nat) (h : Memory.wf s.mem = true) : Memory.wf (s.liftPins ls).mem = true := by
  simp only [State.liftPins]; split
  · exact h
  · exact foldl_keeps (fun t : State => Memory.wf t.mem = true) _ _ (fun t p ht => by simpa using ht) _ (writePieces_wf _ _ h)
theorem writeBack_wf (s : State) (f : L1Piece → Bool) (h : Memory.wf s.mem = true) : Memory.wf (s.writeBack f).mem = true := by
  simp only [State.writeBack]; split
  · exact writePieces_wf s f h
  · exact writePieces_wf _ f (liftPins_wf s _ h)
theorem recall_wf (s : State) (vf l : Nat) (h : Memory.wf s.mem = true) : Memory.wf (s.recall vf l).mem = true := by
  simp only [State.recall]; split
  · exact gather_wf _ vf l (liftPins_wf s _ h)
  · exact h
theorem recallAll_wf (vf : Nat) (ls : List Nat) : ∀ s : State, Memory.wf s.mem = true → Memory.wf (s.recallAll vf ls).mem = true := by
  induction ls with
  | nil => exact fun _ h => h
  | cons l ls ih => exact fun s h => ih _ (recall_wf s vf l h)
theorem recallLocs_wf (s : State) (vf : Nat) (locs : List Nat) (h : Memory.wf s.mem = true) :
    Memory.wf (s.recallLocs vf locs).mem = true := by
  simp only [State.recallLocs]; split
  · exact h
  · exact recallAll_wf vf _ s h
theorem atHome_wf (s : State) (vf : Nat) (locs : List Nat) (h : Memory.wf s.mem = true) : Memory.wf (s.atHome vf locs).mem = true :=
  recallLocs_wf _ vf locs (liftPins_wf s _ h)
/-- Before an instruction: the write of an AMO that comes back. -/
theorem closeLoads_wf (s : State) (i : Instr) (h : Memory.wf s.mem = true) : Memory.wf (s.closeLoads i).mem = true := by
  simp only [State.closeLoads]; split
  · exact h
  · refine foldl_keeps (fun t : State => Memory.wf t.mem = true) _ _ (fun t e ht => ?_) _ h
    split
    · exact ht
    · exact writeCells_wf t _ _ _ _ _ _ ht

/-! ### Where there is nothing to do -/

theorem writePieces_none (s : State) (f : L1Piece → Bool) (h : s.ms.l1 = []) : s.writePieces f = s := by
  simp [State.writePieces, h]
theorem liftPins_none (s : State) (ls : List Nat) (h : s.ms.pins = []) : s.liftPins ls = s := by
  simp [State.liftPins, h]
theorem writeBack_none (s : State) (f : L1Piece → Bool) (h : s.ms.l1 = []) (hp : s.ms.pins = []) : s.writeBack f = s := by
  simp [State.writeBack, hp, writePieces_none s f h]
theorem recallLocs_none (s : State) (vf : Nat) (locs : List Nat) (h : s.ms.reds = []) : s.recallLocs vf locs = s := by
  simp [State.recallLocs, h]
theorem atHome_none (s : State) (vf : Nat) (locs : List Nat) (h : s.ms.reds = []) (hp : s.ms.pins = []) : s.atHome vf locs = s := by
  simp [State.atHome, liftPins_none s _ hp, recallLocs_none s vf locs h]
theorem settleHomes_none (s : State) (vf : Nat) (ls : List Nat) (h : s.ms.lagging = []) : s.settleHomes vf ls = s := by
  simp [State.settleHomes, h]
theorem drain_none (s : State) (h : s.ms.flights = []) : s.drain = s := by simp [State.drain, h]
/-- No load on its way and nothing read ahead. -/
theorem closeLoads_none (s : State) (i : Instr) (h : s.me.io.lq = []) (he : s.me.io.early = []) : s.closeLoads i = s := by
  simp [State.closeLoads, h, he]
/-- No poisoned word in the task's window and in any engine. -/
theorem consumeBad_none (s : State) (i : Instr) (h : s.me.rf.bad = []) (hc : ∀ c ∈ s.clusters, c.2.bad = []) : s.consumeBad i = s := by
  have : s.clusters.all (fun c => c.2.bad.isEmpty) = true := by simpa using hc
  simp [State.consumeBad, h, this]

/-! ### The wait for an answer, 20 R375 -/

@[simp] theorem State.awaitAnswer_me (s : State) : s.awaitAnswer.me = s.me.onPl (fun p => { p with run := .wait, answer := true }) :=
  State.me_onMe s _
@[simp] theorem State.awaitAnswer_mem (s : State) : s.awaitAnswer.mem = s.mem := rfl
@[simp] theorem State.awaitAnswer_clusters (s : State) : s.awaitAnswer.clusters = s.clusters := rfl

end Sys2Proof.Machine
end

