-- ==== Sys2Proof/Laws/Regs.lean ====
section
/-! SUPPORT. Registers of a task: a register reads as it was last written, other registers are unchanged, and what writing a
register leaves alone. -/
namespace Sys2Proof.Machine

/-- The window's sixteen registers lie in sixteen slots (07 R154). -/
theorem Task.slotOf_inj (t : Task) {i j : Nat} (hi : i < 16) (hj : j < 16) (h : t.slotOf i = t.slotOf j) : i = j := by
  unfold Task.slotOf at h
  have hw := t.rf.wbase.isLt
  simp only [BitVec.toNat_add, BitVec.toNat_ofNat] at h
  omega

/-- X(r) after X(d) := v. -/
theorem Task.x_setX (t : Task) (d r : BitVec 5) (v : Word) :
    (t.setX d v).x r = if r = d then (if d.toNat < 24 then v else 0#64) else t.x r := by
  by_cases hr : r = d
  · subst hr
    unfold Task.setX Task.x
    by_cases h1 : r.toNat < 16
    · simp [h1, show r.toNat < 24 by omega, Task.slotOf]
    · by_cases h2 : r.toNat < 24 <;> simp [h1, h2]
  · have hne : r.toNat ≠ d.toNat := fun h => hr (BitVec.eq_of_toNat_eq h)
    simp only [hr, if_false]
    unfold Task.setX
    by_cases h1 : d.toNat < 16
    · simp only [h1, if_true]
      unfold Task.x
      by_cases h3 : r.toNat < 16
      · have : t.slotOf r.toNat ≠ t.slotOf d.toNat := fun h => hne (t.slotOf_inj h3 h1 h)
        simp only [h3, if_true]
        exact Map.get_set_ne _ _ _ this
      · simp [h3]
    · by_cases h2 : d.toNat < 24
      · simp only [h1, h2, if_true, if_false]
        unfold Task.x
        by_cases h3 : r.toNat < 16
        · simp [h3, Task.slotOf]
        · by_cases h4 : r.toNat < 24
          · simp only [h3, h4, if_true, if_false]
            exact Map.get_set_ne _ _ _ (by omega)
          · simp [h3, h4]
      · simp [h1, h2]

/-- zr and the unassigned codes read 0 (03 R80). -/
theorem Task.x_zero (t : Task) {r : BitVec 5} (h : 24 ≤ r.toNat) : t.x r = 0#64 := by
  simp [Task.x, show ¬ r.toNat < 16 by omega, show ¬ r.toNat < 24 by omega]

/-! Writing a scalar register leaves every other part of the task alone. -/

theorem Task.setX_eq (t : Task) (d : BitVec 5) (v : Word) :
    t.setX d v = { t with rf := { t.rf with slots := (t.setX d v).rf.slots, lines := (t.setX d v).rf.lines,
                                            g := (t.setX d v).rf.g } } := by
  unfold Task.setX
  split
  · rfl
  · split <;> rfl
@[simp] theorem Task.setX_tid (t : Task) (d : BitVec 5) (v : Word) : (t.setX d v).tid = t.tid := by rw [Task.setX_eq]
@[simp] theorem Task.setX_pl (t : Task) (d : BitVec 5) (v : Word) : (t.setX d v).pl = t.pl := by rw [Task.setX_eq]
@[simp] theorem Task.setX_sy (t : Task) (d : BitVec 5) (v : Word) : (t.setX d v).sy = t.sy := by rw [Task.setX_eq]
@[simp] theorem Task.setX_io (t : Task) (d : BitVec 5) (v : Word) : (t.setX d v).io = t.io := by rw [Task.setX_eq]
@[simp] theorem Task.setX_pc (t : Task) (d : BitVec 5) (v : Word) : (t.setX d v).rf.pc = t.rf.pc := by rw [Task.setX_eq]
@[simp] theorem Task.setX_wbase (t : Task) (d : BitVec 5) (v : Word) : (t.setX d v).rf.wbase = t.rf.wbase := by
  rw [Task.setX_eq]
@[simp] theorem Task.setX_v (t : Task) (d : BitVec 5) (v : Word) : (t.setX d v).rf.v = t.rf.v := by rw [Task.setX_eq]
@[simp] theorem Task.setX_vt (t : Task) (d : BitVec 5) (v : Word) : (t.setX d v).rf.vt = t.rf.vt := by rw [Task.setX_eq]
@[simp] theorem Task.setX_m (t : Task) (d : BitVec 5) (v : Word) : (t.setX d v).rf.m = t.rf.m := by rw [Task.setX_eq]
@[simp] theorem Task.setX_h (t : Task) (d : BitVec 5) (v : Word) : (t.setX d v).rf.h = t.rf.h := by rw [Task.setX_eq]
@[simp] theorem Task.setX_k (t : Task) (d : BitVec 5) (v : Word) : (t.setX d v).rf.k = t.rf.k := by rw [Task.setX_eq]

/-! A change of another part of the task leaves the scalar registers alone. -/

@[simp] theorem Task.x_onPl (t : Task) (f : Place → Place) (r : BitVec 5) : (t.onPl f).x r = t.x r := rfl
@[simp] theorem Task.x_onSy (t : Task) (f : Sys → Sys) (r : BitVec 5) : (t.onSy f).x r = t.x r := rfl
@[simp] theorem Task.x_onIo (t : Task) (f : Io → Io) (r : BitVec 5) : (t.onIo f).x r = t.x r := rfl
@[simp] theorem Task.x_setPc (t : Task) (p : Word) (r : BitVec 5) :
    (t.onRf (fun f => { f with pc := p })).x r = t.x r := rfl
@[simp] theorem Task.x_setMask (t : Task) (m : BitVec 3) (v : BitVec 32) (r : BitVec 5) : (t.setMask m v).x r = t.x r := rfl
@[simp] theorem Task.x_setV (t : Task) (d : BitVec 5) (v : BitVec 1024) (g : Tag) (r : BitVec 5) :
    (t.setV d v g).x r = t.x r := rfl
@[simp] theorem Task.x_setH (t : Task) (h : BitVec 4) (v : Word) (r : BitVec 5) : (t.setH h v).x r = t.x r := rfl
@[simp] theorem Task.x_setK (t : Task) (k : BitVec 4) (v : BitVec 32) (r : BitVec 5) : (t.setK k v).x r = t.x r := rfl

/-! ### Retiring -/

/-- Counting events changes only the capture of perf. -/
theorem Task.count_eq (t : Task) (g i n : Nat) : t.count g i n = { t with io := { t.io with perf := (t.count g i n).io.perf } } := by
  unfold Task.count
  split <;> rfl

/-- What retiring does to a task. -/
theorem Task.retired_eq (t : Task) (det : Bool) (p : Word) :
    t.retired det p = { tid := t.tid, pl := { t.pl with retired := t.pl.retired + 1, run := .ready },
                        rf := { t.rf with pc := p },
                        sy := { t.sy with budLeft := if det && t.sy.budOn then BitVec.ofNat 63 (t.sy.budLeft.toNat - 1)
                                                     else t.sy.budLeft },
                        io := { t.io with perf := (t.retired det p).io.perf } } := by
  unfold Task.retired
  rw [Task.count_eq]
  cases h : (det && t.sy.budOn) <;> (simp only [Task.onPl, Task.onRf, h]; rfl)

theorem Task.retired_parts (t : Task) (det : Bool) (p : Word) :
    (t.retired det p).tid = t.tid ∧ (t.retired det p).pl = { t.pl with retired := t.pl.retired + 1, run := .ready } ∧
    (t.retired det p).rf = { t.rf with pc := p } ∧
    (t.retired det p).sy = { t.sy with budLeft := if det && t.sy.budOn then BitVec.ofNat 63 (t.sy.budLeft.toNat - 1)
                                                  else t.sy.budLeft } ∧
    (t.retired det p).io = { t.io with perf := (t.retired det p).io.perf } := by
  generalize hr : t.retired det p = r
  rw [Task.retired_eq] at hr
  subst hr
  exact ⟨rfl, rfl, rfl, rfl, rfl⟩
@[simp] theorem Task.retired_tid (t : Task) (det : Bool) (p : Word) : (t.retired det p).tid = t.tid := (t.retired_parts det p).1
@[simp] theorem Task.retired_pl (t : Task) (det : Bool) (p : Word) :
    (t.retired det p).pl = { t.pl with retired := t.pl.retired + 1, run := .ready } := (t.retired_parts det p).2.1
@[simp] theorem Task.retired_rf (t : Task) (det : Bool) (p : Word) : (t.retired det p).rf = { t.rf with pc := p } :=
  (t.retired_parts det p).2.2.1
@[simp] theorem Task.retired_sy (t : Task) (det : Bool) (p : Word) :
    (t.retired det p).sy = { t.sy with budLeft := if det && t.sy.budOn then BitVec.ofNat 63 (t.sy.budLeft.toNat - 1)
                                                  else t.sy.budLeft } := (t.retired_parts det p).2.2.2.1
theorem Task.retired_io (t : Task) (det : Bool) (p : Word) :
    (t.retired det p).io = { t.io with perf := (t.retired det p).io.perf } := (t.retired_parts det p).2.2.2.2

@[simp] theorem Task.retired_x (t : Task) (det : Bool) (p : Word) (r : BitVec 5) : (t.retired det p).x r = t.x r := by
  rw [Task.retired_eq]; rfl

end Sys2Proof.Machine
end

