-- ==== Sys2Proof/Laws/Result.lean ====
section
/-! SUPPORT. What the shared endings of instructions do, in the terms of Safety: writing a register, a vector, a mask or
nothing and retiring, and taking a trap. -/
namespace Sys2Proof.Machine

/-- A state in which only the acting task is replaced. -/
theorem onlyTasks_setMe (s : State) (t : Task) : OnlyTasks s (s.setMe t) := rfl
theorem otherTasks_setMe (s : State) (t : Task) : OtherTasks s (s.setMe t) :=
  fun _ h => Map.get?_set_ne _ _ h
theorem Map.set_set {α : Type} (m : Map α) (n : Nat) (x y : α) : Map.set (Map.set m n x) n y = Map.set m n y := by
  induction m with
  | nil => simp [Map.set]
  | cons p m ih =>
    obtain ⟨k, v⟩ := p
    by_cases h : k = n <;> simp [Map.set, h, ih]
/-- Replacing the acting task twice is replacing it once. -/
@[simp] theorem State.setMe_setMe (s : State) (a b : Task) : (s.setMe a).setMe b = s.setMe b := by
  simp [State.setMe, State.setTask, Map.set_set]
theorem State.det_setMe (s : State) {t : Task} (h : t.tid = s.me.tid) : (s.setMe t).det = s.det := by
  unfold State.det State.lmode State.launchOf
  change (dmodeOf (s.launch ((s.setMe t).me).tid.launch).mode != 0) = (dmodeOf (s.launch s.me.tid.launch).mode != 0)
  rw [State.me_setMe, h]

/-- Retiring after a change of the task that keeps its identity and its pc. -/
theorem State.retire_setMe (s : State) (t : Task) (n : Nat) (h1 : t.tid = s.me.tid) (h2 : t.rf.pc = s.me.rf.pc) :
    (s.setMe t).retire n = s.setMe (t.retired s.det (s.pc + BitVec.ofNat 64 n)) := by
  unfold State.retire State.retireTo State.onMe
  rw [State.setMe_setMe, State.me_setMe, State.det_setMe s h1]
  unfold State.pc
  rw [State.me_setMe, h2]

/-- Writing X(d) with flags and retiring. -/
theorem State.wresult_eq (s : State) (d : BitVec 5) (v : Word) (f : BitVec 5) (n : Nat) :
    s.wresult d v f n = s.setMe (((s.me.orFlags f).setX d v).retired s.det (s.pc + BitVec.ofNat 64 n)) := by
  unfold State.wresult State.result State.orFlags State.setX State.onMe
  rw [State.setMe_setMe, State.me_setMe]
  exact State.retire_setMe s _ n (by simp [Task.orFlags]) (by simp [Task.orFlags])

/-- Retiring after a change of the task that keeps its identity, its queues, its place and its window. -/
theorem frame_retired {s : State} {t : Task} (p : Word) (h1 : t.tid = s.me.tid) (h2 : t.io = s.me.io)
    (h3 : t.pl = s.me.pl) (h4 : t.rf.wbase = s.me.rf.wbase) :
    RetiresTo p s (s.setMe (t.retired s.det p)) ∧ Frame s (s.setMe (t.retired s.det p)) := by
  refine ⟨⟨?_, ?_⟩, onlyTasks_setMe _ _, otherTasks_setMe _ _, ⟨rfl, ?_⟩, ?_, ?_⟩
  · simp
  · simp [h3]
  · simp [h1]
  · simp [SameWindow, h4]
  · unfold SameQueues
    rw [State.me_setMe, Task.retired_io, h2]

/-- An instruction that ends in `wresult` writes its register and nothing else. -/
theorem writes_of_wresult {i : Instr} {s : State} {d : BitVec 5} {v : Word} {f : BitVec 5} {n : Nat}
    (h : exec i s = .next (s.wresult d v f n)) : Writes i s d v f n := by
  refine ⟨_, h, ?_⟩
  rw [State.wresult_eq]
  obtain ⟨hr, hf⟩ := frame_retired (s := s) (t := (s.me.orFlags f).setX d v) (s.pc + BitVec.ofNat 64 n)
    (by simp [Task.orFlags]) (by simp [Task.orFlags]) (by simp [Task.orFlags]) (by simp [Task.orFlags])
  refine ⟨?_, hr, ?_, ⟨?_, ?_, ?_⟩, ⟨?_, ?_⟩, ?_, hf⟩
  · simp [Task.x_setX]
  · intro r hr
    simp [Task.x_setX, hr, Task.orFlags]
  all_goals simp [SystemBut, Task.orFlags]

/-- An instruction that ends in `result` writes its register and nothing else. -/
theorem writes_of_result {i : Instr} {s : State} {d : BitVec 5} {v : Word} {n : Nat}
    (h : exec i s = .next (s.result d v n)) : Writes i s d v 0#5 n := by
  refine writes_of_wresult (h.trans ?_)
  have : s.orFlags 0#5 = s.setMe s.me := by
    unfold State.orFlags State.onMe Task.orFlags
    congr 1
    simp [Task.onSy]
  unfold State.wresult State.result State.setX State.onMe
  rw [this, State.setMe_setMe, State.me_setMe]

/-- An instruction that only retires. -/
theorem goesTo_of_retireTo {i : Instr} {s : State} {p : Word} (h : exec i s = .next (s.retireTo p)) : GoesTo i s p := by
  refine ⟨_, h, ?_⟩
  unfold State.retireTo State.onMe
  obtain ⟨hr, hf⟩ := frame_retired (s := s) (t := s.me) p rfl rfl rfl rfl
  refine ⟨hr, ?_, ⟨?_, ?_, ?_⟩, ⟨?_, ?_⟩, ?_, hf⟩
  · intro r
    simp
  all_goals simp [SystemBut]

/-- Writing a vector register with flags and retiring. -/
theorem writesVector_of {i : Instr} {s : State} {d : BitVec 5} {v : BitVec 1024} {g : Tag} {f : BitVec 5} {n : Nat}
    (h : exec i s = .next (((s.setMe ((s.me.orFlags f).setV d v g))).retire n)) : WritesVector i s d v g f n := by
  refine ⟨_, h, ?_⟩
  rw [State.retire_setMe s _ n (by simp [Task.orFlags, Task.setV]) (by simp [Task.orFlags, Task.setV])]
  obtain ⟨hr, hf⟩ := frame_retired (s := s) (t := (s.me.orFlags f).setV d v g) (s.pc + BitVec.ofNat 64 n)
    (by simp [Task.orFlags, Task.setV]) (by simp [Task.orFlags, Task.setV]) (by simp [Task.orFlags, Task.setV])
    (by simp [Task.orFlags, Task.setV])
  refine ⟨?_, ?_, hr, ?_, ?_, ?_, ⟨?_, ?_⟩, ?_, hf⟩
  · simp [Task.vreg, Task.setV]
  · simp [Task.vtag, Task.setV]
  · intro r hr
    have hne : r.toNat ≠ d.toNat := fun h => hr (BitVec.eq_of_toNat_eq h)
    simp only [State.me_setMe, Task.vreg, Task.vtag, Task.retired_rf, Task.setV, Task.onRf_rf, Task.orFlags, Task.onSy_rf]
    exact ⟨Map.get_set_ne _ _ _ hne, Map.get_set_ne _ _ _ hne⟩
  · simp [Task.setV, Task.orFlags]
  · intro r
    simp [Task.orFlags]
  all_goals simp [SystemBut, Task.setV, Task.orFlags]

/-- Writing a mask register with flags and retiring. -/
theorem writesMask_of {i : Instr} {s : State} {d : BitVec 3} {v : BitVec 32} {f : BitVec 5} {n : Nat} (hd : d ≠ 0#3)
    (h : exec i s = .next (((s.setMe ((s.me.orFlags f).setMask d v))).retire n)) : WritesMask i s d v f n := by
  refine ⟨_, h, ?_⟩
  rw [State.retire_setMe s _ n (by simp [Task.orFlags, Task.setMask]) (by simp [Task.orFlags, Task.setMask])]
  obtain ⟨hr, hf⟩ := frame_retired (s := s) (t := (s.me.orFlags f).setMask d v) (s.pc + BitVec.ofNat 64 n)
    (by simp [Task.orFlags, Task.setMask]) (by simp [Task.orFlags, Task.setMask]) (by simp [Task.orFlags, Task.setMask])
    (by simp [Task.orFlags, Task.setMask])
  refine ⟨?_, hr, ?_, ?_, ?_, ?_, ⟨?_, ?_⟩, ?_, hf⟩
  · simp [Task.mask, Task.setMask, hd]
  · intro r hr
    have hne : r.toNat ≠ d.toNat := fun h => hr (BitVec.eq_of_toNat_eq h)
    simp only [State.me_setMe, Task.mask, Task.retired_rf, Task.setMask, Task.onRf_rf, Task.orFlags, Task.onSy_rf]
    split
    · rfl
    · exact Map.get_set_ne _ _ _ hne
  · simp [Task.setMask, Task.orFlags]
  · simp [Task.setMask, Task.orFlags]
  · intro r
    simp [Task.orFlags]
  all_goals simp [SystemBut, Task.setMask, Task.orFlags]

/-- A trap is taken at level 1, 2, or 3 for none. -/
theorem trapLevel_cases (y : Sys) : y.trapLevel = 1 ∨ y.trapLevel = 2 ∨ y.trapLevel = 3 := by
  unfold Sys.trapLevel
  dsimp only
  split
  · exact .inl rfl
  · split
    · exact .inr (.inl rfl)
    · exact .inr (.inr rfl)

/-- Taking a trap to a level with a handler. -/
theorem traps_of {i : Instr} {s : State} {x : TrapInfo} {p : Word} (h : exec i s = .next (s.takeTrap x p))
    (hl : s.me.sy.trapLevel ≠ 3) :
    Traps i s s.me.sy.trapLevel
      (causeWord x (if x.imp then s.me.io.sfq.length else 0) (x.imp && s.me.io.ovf)) p x.tval x.xval := by
  refine ⟨_, h, ?_⟩
  have e : s.takeTrap x p = s.setMe (s.me.enter s.me.sy.trapLevel x p (if x.imp then s.me.io.sfq.length else 0)
      (x.imp && s.me.io.ovf)) := by
    unfold State.takeTrap
    simp [hl]
  rw [e]
  rcases trapLevel_cases s.me.sy with h1 | h1 | h1
  · rw [h1]
    refine ⟨?_, ?_, ?_, ?_, ?_, ?_, ?_, ⟨?_, ?_, ?_⟩, ⟨?_, ?_⟩, ?_, onlyTasks_setMe _ _, otherTasks_setMe _ _, ⟨rfl, ?_⟩, ?_⟩
    all_goals simp [Task.enter, Sys.setBank, Sys.bank, AllRegs, SameWindow]
  · rw [h1]
    refine ⟨?_, ?_, ?_, ?_, ?_, ?_, ?_, ⟨?_, ?_, ?_⟩, ⟨?_, ?_⟩, ?_, onlyTasks_setMe _ _, otherTasks_setMe _ _, ⟨rfl, ?_⟩, ?_⟩
    all_goals simp [Task.enter, Sys.setBank, Sys.bank, AllRegs, SameWindow]
  · exact absurd h1 hl

end Sys2Proof.Machine
end

