-- ==== Sys2Proof/Tests/Slice0.lean ====
section
/-! SUPPORT. Tests: terms that are ill-formed, words written out from the encoding tables of the spec, single steps, and
states that meet the hypotheses of the statements. -/
namespace Sys2Proof.Tests
open Sys2Proof Sys2Proof.Machine
set_option Elab.async false

/-! ### Words, from the encoding tables of spec/03, 08, 10, 11, 13, 15, 17 and 20 -/

/-- Word 0: fn[31:23] b[22:18] a[17:13] d[12:8] major[7:2] len[1:0] (03 R63). -/
def w0 (fn b a d major len : Nat) : BitVec 32 :=
  BitVec.ofNat 32 (fn * 2 ^ 23 + b * 2 ^ 18 + a * 2 ^ 13 + d * 2 ^ 8 + major * 4 + len)
/-- Word 1: aux[31:28] rm[27:26] stag[25:22] dtag[21:18] rel[17] acq[16] scope[15:13] mask[12:10] e[9:5] c[4:0] (03 R64); `flags` is
2 rel + acq. -/
def w1 (aux rm stag dtag flags scope mask e c : Nat) : BitVec 32 :=
  BitVec.ofNat 32 (aux * 2 ^ 28 + rm * 2 ^ 26 + stag * 2 ^ 22 + dtag * 2 ^ 18 + flags * 2 ^ 16 + scope * 2 ^ 13 + mask * 2 ^ 10 +
    e * 2 ^ 5 + c)
/-- The words decode to the instructions beside them. -/
abbrev decodesTo (ps : List (BitVec 32 × List (BitVec 32) × Instr)) : Prop := ∀ p ∈ ps, decodeWords p.1 p.2.1 = some p.2.2


theorem test_wordsInteger : decodesTo [
    (w0 0x1 3 2 1 0x00 0, [], .add 1 2 3),
    (w0 0x2 3 2 1 0x00 0, [], .sub 1 2 3),
    (w0 0x3 3 2 1 0x00 0, [], .and 1 2 3),
    (w0 0x4 3 2 1 0x00 0, [], .or 1 2 3),
    (w0 0x5 3 2 1 0x00 0, [], .xor 1 2 3),
    (w0 0x6 3 2 1 0x00 0, [], .andn 1 2 3),
    (w0 0x7 3 2 1 0x00 0, [], .sll 1 2 3),
    (w0 0x8 3 2 1 0x00 0, [], .srl 1 2 3),
    (w0 0x9 3 2 1 0x00 0, [], .sra 1 2 3),
    (w0 0xa 3 2 1 0x00 0, [], .addw 1 2 3),
    (w0 0xb 3 2 1 0x00 0, [], .subw 1 2 3),
    (w0 0xc 3 2 1 0x00 0, [], .min 1 2 3),
    (w0 0xd 3 2 1 0x00 0, [], .max 1 2 3),
    (w0 0xe 3 2 1 0x00 0, [], .minn 1 2 3),
    (w0 0xf 3 2 1 0x00 0, [], .maxn 1 2 3),
    (w0 0x1 3 2 1 0x02 0, [], .mul 1 2 3),
    (w0 0x2 3 2 1 0x02 0, [], .mulh 1 2 3),
    (w0 0x3 3 2 1 0x02 0, [], .mulhn 1 2 3),
    (w0 0x4 3 2 1 0x02 0, [], .div 1 2 3),
    (w0 0x5 3 2 1 0x02 0, [], .divn 1 2 3),
    (w0 0x6 3 2 1 0x02 0, [], .rem 1 2 3),
    (w0 0x7 3 2 1 0x02 0, [], .remn 1 2 3),
    (w0 0x8 3 2 1 0x02 0, [], .mulw 1 2 3),
    (w0 0x9 3 2 1 0x02 0, [], .divw 1 2 3),
    (w0 0xa 3 2 1 0x02 0, [], .remw 1 2 3),
    (w0 0x1 0 2 1 0x03 0, [], .clz 1 2),
    (w0 0x2 0 2 1 0x03 0, [], .ctz 1 2),
    (w0 0x3 0 2 1 0x03 0, [], .popc 1 2),
    (w0 0x4 0 2 1 0x03 0, [], .rev8 1 2),
    (w0 0x5 3 2 1 0x03 0, [], .rotl 1 2 3),
    (w0 0x6 3 2 1 0x03 0, [], .rotr 1 2 3),
    (w0 0x7 3 2 1 0x03 0, [], .bext 1 2 3),
    (w0 0x8 3 2 1 0x03 0, [], .bdep 1 2 3),
    (w0 0x1 3 2 1 0x05 0, [], .seq 1 2 3),
    (w0 0x2 3 2 1 0x05 0, [], .sne 1 2 3),
    (w0 0x3 3 2 1 0x05 0, [], .slt 1 2 3),
    (w0 0x4 3 2 1 0x05 0, [], .sltn 1 2 3),
    (w0 0x5 3 2 1 0x05 0, [], .sel 1 2 3)] := by decide +kernel

theorem test_wordsImmediate : decodesTo [
    (0xFFFC0000#32 ||| w0 0x0 0 2 1 0x01 0, [], .addi 1 2 0x3FFF),
    (w0 0x0 0 2 1 0x01 1, [0x89ABCDEF, 0x01234567], .addiLit 1 2 0x0123456789ABCDEF),
    (w0 0x1 0 2 1 0x01 2, [0, 0xFFFFFFFE], .andi 1 2 (.imm 0xFFFFFFFE)),
    (w0 0x1 0 2 1 0x01 3, [0, 0, 5, 7], .andi 1 2 (.lit 0x0000000700000005)),
    (w0 0x2 0 2 1 0x01 2, [0, 0xFFFFFFFE], .ori 1 2 (.imm 0xFFFFFFFE)),
    (w0 0x2 0 2 1 0x01 3, [0, 0, 5, 7], .ori 1 2 (.lit 0x0000000700000005)),
    (w0 0x3 0 2 1 0x01 2, [0, 0xFFFFFFFE], .xori 1 2 (.imm 0xFFFFFFFE)),
    (w0 0x3 0 2 1 0x01 3, [0, 0, 5, 7], .xori 1 2 (.lit 0x0000000700000005)),
    (w0 0x4 0 2 1 0x01 2, [0, 63], .slli 1 2 63),
    (w0 0x5 0 2 1 0x01 2, [0, 63], .srli 1 2 63),
    (w0 0x6 0 2 1 0x01 2, [0, 63], .srai 1 2 63),
    (0x80000000#32 ||| w0 0x0 0 0 1 0x04 0, [], .li 1 0x2000),
    (w0 0x0 0 0 1 0x04 1, [1, 2], .liLit 1 0x0000000200000001)] := by decide +kernel

theorem test_wordsFloat : decodesTo [
    (w0 0x141 3 2 1 0x08 0, [], .fadd 2 true 1 2 3),
    (w0 0x142 3 2 1 0x08 0, [], .fsub 2 true 1 2 3),
    (w0 0x143 3 2 1 0x08 0, [], .fmul 2 true 1 2 3),
    (w0 0x144 3 2 1 0x08 0, [], .fdiv 2 true 1 2 3),
    (w0 0x185 0 2 1 0x08 0, [], .fsqrt 3 false 1 2),
    (w0 0x46 3 2 1 0x08 0, [], .fmin true 1 2 3),
    (w0 0x47 3 2 1 0x08 0, [], .fmax true 1 2 3),
    (w0 0x48 3 2 1 0x08 0, [], .fsgnj true 1 2 3),
    (w0 0x49 3 2 1 0x08 0, [], .fsgnjn true 1 2 3),
    (w0 0xd0 3 2 1 0x08 2, [w1 0 0 0x0 0x0 0 0 0 0 4, 0], .ffma 1 true 1 2 3 4),
    (w0 0xd1 3 2 1 0x08 2, [w1 0 0 0x0 0x0 0 0 0 0 4, 0], .ffms 1 true 1 2 3 4),
    (w0 0xd2 3 2 1 0x08 2, [w1 0 0 0x0 0x0 0 0 0 0 4, 0], .ffnma 1 true 1 2 3 4),
    (w0 0x41 0 2 1 0x09 0, [], .fcvt 0 true 1 2),
    (w0 0x82 0 2 1 0x09 0, [], .ftoi 1 false 1 2),
    (w0 0x83 0 2 1 0x09 0, [], .ftoiw 1 false 1 2),
    (w0 0x84 0 2 1 0x09 0, [], .fton 1 false 1 2),
    (w0 0x85 0 2 1 0x09 0, [], .ftonw 1 false 1 2),
    (w0 0x86 0 2 1 0x09 0, [], .itof 1 false 1 2),
    (w0 0x87 0 2 1 0x09 0, [], .ntof 1 false 1 2),
    (w0 0x88 0 2 1 0x09 0, [], .fround 1 false 1 2),
    (w0 0x49 0 2 1 0x09 0, [], .fclass true 1 2),
    (w0 0x41 3 2 1 0x0a 0, [], .feq true 1 2 3),
    (w0 0x42 3 2 1 0x0a 0, [], .flt true 1 2 3),
    (w0 0x43 3 2 1 0x0a 0, [], .fle true 1 2 3),
    (w0 0x44 3 2 1 0x0a 0, [], .funord true 1 2 3)] := by decide +kernel

theorem test_wordsControl : decodesTo [
    (BitVec.ofNat 32 (0x7FE * 2 ^ 21 + 0 * 2 ^ 18 + 3 * 2 ^ 13 + 2 * 2 ^ 8 + 0x10 * 4), [], .beq 2 3 0x7FE),
    (BitVec.ofNat 32 (0x7FE * 2 ^ 21 + 1 * 2 ^ 18 + 3 * 2 ^ 13 + 2 * 2 ^ 8 + 0x10 * 4), [], .bne 2 3 0x7FE),
    (BitVec.ofNat 32 (0x7FE * 2 ^ 21 + 2 * 2 ^ 18 + 3 * 2 ^ 13 + 2 * 2 ^ 8 + 0x10 * 4), [], .blt 2 3 0x7FE),
    (BitVec.ofNat 32 (0x7FE * 2 ^ 21 + 3 * 2 ^ 18 + 3 * 2 ^ 13 + 2 * 2 ^ 8 + 0x10 * 4), [], .bge 2 3 0x7FE),
    (BitVec.ofNat 32 (0x7FE * 2 ^ 21 + 4 * 2 ^ 18 + 3 * 2 ^ 13 + 2 * 2 ^ 8 + 0x10 * 4), [], .bltn 2 3 0x7FE),
    (BitVec.ofNat 32 (0x7FE * 2 ^ 21 + 5 * 2 ^ 18 + 3 * 2 ^ 13 + 2 * 2 ^ 8 + 0x10 * 4), [], .bgen 2 3 0x7FE),
    (BitVec.ofNat 32 (0x7FE * 2 ^ 21 + 6 * 2 ^ 18 + 3 * 2 ^ 13 + 2 * 2 ^ 8 + 0x10 * 4), [], .bany 2 3 0x7FE),
    (BitVec.ofNat 32 (0x7FE * 2 ^ 21 + 7 * 2 ^ 18 + 3 * 2 ^ 13 + 2 * 2 ^ 8 + 0x10 * 4), [], .bnone 2 3 0x7FE),
    (BitVec.ofNat 32 (0xFFFFFD * 2 ^ 8 + 0x11 * 4), [], .j 0xFFFFFD),
    (w0 0x1 0 0 0 0x11 3, [w1 4 0 0x0 0x0 0 0 0 0 0, 0, 0x1000, 1], .call 4 0x100001000),
    (w0 0x1 0 2 0 0x12 0, [], .jr 2),
    (w0 0x2 7 2 0 0x12 0, [], .callr 7 2),
    (w0 0x3 0 0 0 0x12 0, [], .ret),
    (w0 0x1 0 2 0 0x13 0, [], .trap 2),
    (w0 0x2 0 0 0 0x13 0, [], .tret)] := by decide +kernel

theorem test_wordsMemory : decodesTo [
    (0xFFE00000#32 ||| w0 0x0 0 2 1 0x18 0, [], .ld 1 2 0x3FF8),
    (0x00200000#32 ||| w0 0x0 0 2 1 0x19 0, [], .st 1 2 8),
    (w0 0x1 0 2 1 0x18 2, [w1 0 0 0x0 0x6 1 3 0 0 0, 0xFFFFFFF0], .ldX .n16 true 3 1 2 (.imm 0xFFFFFFF0)),
    (w0 0x2 3 2 1 0x18 2, [w1 2 0 0x0 0xa 0 0 0 0 0, 0], .ldIndexed .f32 false 0 1 2 3 2),
    (w0 0x1 0 2 1 0x19 3, [w1 0 0 0x1 0x0 2 1 0 0 0, 0, 0x10, 0x20], .stX .i8 true 1 1 2 (.lit 0x0000002000000010)),
    (w0 0x2 3 2 1 0x19 2, [w1 3 0 0x4 0x0 0 0 0 0 0, 0], .stIndexed .i64 false 0 1 2 3 3),
    (w0 0x1 3 2 1 0x1a 2, [w1 0 0 0x0 0x3 3 2 0 0 0, 16], .amoadd .i32 true true 2 1 2 3 (.imm 16)),
    (w0 0x2 3 2 1 0x1a 2, [w1 0 0 0x0 0x7 3 2 0 0 0, 16], .amoand .n32 true true 2 1 2 3 (.imm 16)),
    (w0 0x3 3 2 1 0x1a 2, [w1 0 0 0x0 0x4 3 2 0 0 0, 16], .amoor .i64 true true 2 1 2 3 (.imm 16)),
    (w0 0x4 3 2 1 0x1a 2, [w1 0 0 0x0 0x8 3 2 0 0 0, 16], .amoxor .n64 true true 2 1 2 3 (.imm 16)),
    (w0 0x5 3 2 1 0x1a 2, [w1 0 0 0x0 0xa 3 2 0 0 0, 16], .amoswap .f32 true true 2 1 2 3 (.imm 16)),
    (w0 0x7 3 2 1 0x1a 2, [w1 0 0 0x0 0x3 3 2 0 0 0, 16], .amomin .i32 true true 2 1 2 3 (.imm 16)),
    (w0 0x8 3 2 1 0x1a 2, [w1 0 0 0x0 0x4 3 2 0 0 0, 16], .amomax .i64 true true 2 1 2 3 (.imm 16)),
    (w0 0x9 3 2 1 0x1a 2, [w1 0 0 0x0 0x7 3 2 0 0 0, 16], .amominn .n32 true true 2 1 2 3 (.imm 16)),
    (w0 0xa 3 2 1 0x1a 2, [w1 0 0 0x0 0x8 3 2 0 0 0, 16], .amomaxn .n64 true true 2 1 2 3 (.imm 16)),
    (w0 0xb 3 2 1 0x1a 2, [w1 0 0 0x0 0x9 3 2 0 0 0, 16], .amofadd .f64 true true 2 1 2 3 (.imm 16)),
    (w0 0x6 3 2 1 0x1a 2, [w1 0 0 0x0 0x4 0 0 0 0 4, 16], .amocas .i64 false false 0 1 2 3 4 (.imm 16)),
    (w0 0x1 3 2 0 0x1b 2, [w1 0 0 0x3 0x0 2 4 0 0 0, 8], .redadd .i32 true 4 2 3 (.imm 8)),
    (w0 0x2 3 2 0 0x1b 2, [w1 0 0 0x7 0x0 2 4 0 0 0, 8], .redmin .n32 true 4 2 3 (.imm 8)),
    (w0 0x3 3 2 0 0x1b 2, [w1 0 0 0x4 0x0 2 4 0 0 0, 8], .redmax .i64 true 4 2 3 (.imm 8)),
    (w0 0x4 3 2 0 0x1b 2, [w1 0 0 0x8 0x0 2 4 0 0 0, 8], .redand .n64 true 4 2 3 (.imm 8)),
    (w0 0x5 3 2 0 0x1b 2, [w1 0 0 0x3 0x0 2 4 0 0 0, 8], .redor .i32 true 4 2 3 (.imm 8)),
    (w0 0x6 3 2 0 0x1b 2, [w1 0 0 0x7 0x0 2 4 0 0 0, 8], .redxor .n32 true 4 2 3 (.imm 8)),
    (w0 0x7 3 2 0 0x1b 2, [w1 0 0 0xa 0x0 2 4 0 0 0, 8], .redfadd .f32 true 4 2 3 (.imm 8))] := by decide +kernel

theorem test_wordsSystem : decodesTo [
    (w0 0x1 0 0 0 0x1c 2, [w1 0 0 0x0 0x0 3 5 0 0 0, 0], .fence true true 5),
    (w0 0x2 0 0 0 0x1c 2, [w1 0 0 0x0 0x0 0 0 0 0 0, 0], .drainst),
    (w0 0x3 0 0 0 0x1c 2, [w1 0 0 0x0 0x0 0 0 0 0 0, 0x01020304], .waitc 0x01020304),
    (w0 0x1 0 0 0 0x36 0, [], .nop),
    (w0 0x2 0 0 0 0x36 0, [], .brk),
    (w0 0x3 0 0 0 0x36 0, [], .kpoint),
    (w0 0x4 0 0 0 0x36 0, [], .icinv),
    (w0 0x5 0 24 0 0x36 0, [], .tlbinv 24),
    (w0 0x6 0 0 1 0x36 2, [w1 0 0 0x0 0x0 0 0 0 0 0, 0x1C0], .srr 1 0x1C0),
    (w0 0x7 0 2 0 0x36 2, [w1 0 0 0x0 0x0 0 0 0 0 0, 0x015], .srw 2 0x015),
    (w0 0x8 0 0 0 0x36 2, [w1 0 0 0x0 0x0 0 0 0 0 0, 3], .perfStart 3),
    (w0 0x8 0 2 0 0x36 2, [w1 1 0 0x0 0x0 0 0 0 0 0, 0], .perfStop 2)] := by decide +kernel

theorem test_wordsVector0 : decodesTo [
    (w0 0x1 3 2 1 0x20 2, [w1 0 0 0x2 0x2 0 0 5 0 0, 0], .vadd .i16 false 5 1 2 3),
    (w0 0x2 3 2 1 0x20 2, [w1 0 0 0x2 0x2 0 0 5 0 0, 0], .vsub .i16 false 5 1 2 3),
    (w0 0x3 3 2 1 0x20 2, [w1 0 0 0x2 0x2 0 0 5 0 0, 0], .vmul .i16 false 5 1 2 3),
    (w0 0x4 3 2 1 0x20 2, [w1 0 0 0x2 0x2 0 0 5 0 0, 0], .vmulh .i16 false 5 1 2 3),
    (w0 0x5 3 2 1 0x20 2, [w1 0 0 0x2 0x2 0 0 5 0 0, 0], .vmin .i16 false 5 1 2 3),
    (w0 0x6 3 2 1 0x20 2, [w1 0 0 0x2 0x2 0 0 5 0 0, 0], .vmax .i16 false 5 1 2 3),
    (w0 0x7 3 2 1 0x20 2, [w1 0 0 0x2 0x2 0 0 5 0 0, 0], .vand .i16 false 5 1 2 3),
    (w0 0x8 3 2 1 0x20 2, [w1 0 0 0x2 0x2 0 0 5 0 0, 0], .vor .i16 false 5 1 2 3),
    (w0 0x9 3 2 1 0x20 2, [w1 0 0 0x2 0x2 0 0 5 0 0, 0], .vxor .i16 false 5 1 2 3),
    (w0 0xa 3 2 1 0x20 2, [w1 0 0 0x2 0x2 0 0 5 0 0, 0], .vsll .i16 false 5 1 2 3),
    (w0 0xb 3 2 1 0x20 2, [w1 0 0 0x2 0x2 0 0 5 0 0, 0], .vsrl .i16 false 5 1 2 3),
    (w0 0xc 3 2 1 0x20 2, [w1 0 0 0x2 0x2 0 0 5 0 0, 0], .vsra .i16 false 5 1 2 3),
    (w0 0xd 3 2 1 0x20 2, [w1 0 0 0x2 0x2 0 0 5 0 0, 0], .vaddsat .i16 false 5 1 2 3),
    (w0 0xe 3 2 1 0x20 2, [w1 0 0 0x2 0x2 0 0 5 0 0, 0], .vsubsat .i16 false 5 1 2 3),
    (w0 0x1 24 2 1 0x20 2, [w1 1 0 0x5 0x5 0 0 0 0 0, 0], .vadd .n8 true 0 1 2 24),
    (w0 0xf 0 2 1 0x20 2, [w1 0 0 0x0 0xf 0 0 1 0 0, 0], .vmov .bits 1 1 2),
    (w0 0x10 0 0 1 0x20 2, [w1 0 0 0x0 0xa 0 0 1 0 0, 0x3F800000], .vli .f32 1 1 (.imm 0x3F800000)),
    (w0 0x1 3 2 1 0x21 2, [w1 0 1 0xb 0xb 0 0 2 0 0, 0], .vfadd 1 .bf16 false 2 1 2 3),
    (w0 0x2 3 2 1 0x21 2, [w1 0 1 0xb 0xb 0 0 2 0 0, 0], .vfsub 1 .bf16 false 2 1 2 3),
    (w0 0x3 3 2 1 0x21 2, [w1 0 1 0xb 0xb 0 0 2 0 0, 0], .vfmul 1 .bf16 false 2 1 2 3),
    (w0 0x4 3 2 1 0x21 2, [w1 0 1 0xb 0xb 0 0 2 0 0, 0], .vfdiv 1 .bf16 false 2 1 2 3),
    (w0 0x5 3 2 1 0x21 2, [w1 0 3 0xc 0xc 0 0 0 0 31, 0], .vffma 3 .f16 false 0 1 2 3 31),
    (w0 0x6 3 2 1 0x21 2, [w1 1 0 0x9 0x9 0 0 0 0 0, 0], .vfmin .f64 true 0 1 2 3),
    (w0 0x7 3 2 1 0x21 2, [w1 1 0 0x9 0x9 0 0 0 0 0, 0], .vfmax .f64 true 0 1 2 3),
    (w0 0x8 0 2 1 0x21 2, [w1 0 2 0xa 0xa 0 0 0 0 0, 0], .vfsqrt 2 .f32 0 1 2),
    (w0 0x1 3 2 7 0x22 2, [w1 0 0 0x7 0x0 0 0 6 0 0, 0], .vcmpeq .n32 false 6 7 2 3),
    (w0 0x2 3 2 7 0x22 2, [w1 0 0 0x7 0x0 0 0 6 0 0, 0], .vcmpne .n32 false 6 7 2 3),
    (w0 0x3 3 2 7 0x22 2, [w1 0 0 0x7 0x0 0 0 6 0 0, 0], .vcmplt .n32 false 6 7 2 3),
    (w0 0x4 3 2 7 0x22 2, [w1 0 0 0x7 0x0 0 0 6 0 0, 0], .vcmple .n32 false 6 7 2 3),
    (w0 0x5 3 2 1 0x22 2, [w1 0 0 0xd 0xd 0 0 4 0 0, 0], .vsel .e4m3 4 1 2 3),
    (w0 0x6 3 2 1 0x22 2, [w1 0 0 0x0 0x0 0 0 0 0 0, 0], .mand 1 2 3),
    (w0 0x7 3 2 1 0x22 2, [w1 0 0 0x0 0x0 0 0 0 0 0, 0], .mor 1 2 3),
    (w0 0x8 3 2 1 0x22 2, [w1 0 0 0x0 0x0 0 0 0 0 0, 0], .mandn 1 2 3),
    (w0 0x9 3 2 1 0x22 2, [w1 0 0 0x0 0x0 0 0 0 0 0, 0], .mxor 1 2 3),
    (w0 0xa 0 7 1 0x22 2, [w1 0 0 0x0 0x0 0 0 0 0 0, 0], .mpop 1 7),
    (w0 0xb 3 2 1 0x22 2, [w1 0 0 0x4 0x0 0 0 0 0 0, 0], .medge .i64 1 2 3),
    (w0 0x1 0 2 1 0x23 2, [w1 0 0 0x0 0x5 1 1 3 0 0, 64], .vld .n8 true 1 3 1 2 (.imm 64)),
    (w0 0x2 0 2 31 0x23 3, [w1 0 0 0xa 0x0 2 2 3 0 0, 0, 64, 0], .vst .f32 true 2 3 31 2 (.lit 64)),
    (w0 0x3 3 2 1 0x23 2, [w1 0 0 0x0 0x3 0 0 0 0 0, 4], .vlds .i32 false 0 0 1 2 3 (.imm 4)),
    (w0 0x4 3 2 1 0x23 2, [w1 0 0 0x3 0x0 0 0 0 0 0, 4], .vsts .i32 false 0 0 1 2 3 (.imm 4))] := by decide +kernel

theorem test_wordsVector1 : decodesTo [
    (w0 0x1 3 2 1 0x24 2, [w1 2 0 0x0 0xa 0 0 1 0 0, 4], .vgath .f32 false 0 1 1 2 3 (.imm 4) 2),
    (w0 0x2 3 2 1 0x24 2, [w1 3 0 0x8 0x0 0 0 1 0 0, 4], .vscat .n64 false 0 1 1 2 3 (.imm 4) 3),
    (w0 0x1 3 2 1 0x25 2, [w1 0 0 0x7 0x7 0 0 0 0 0, 0], .vperm .n32 0 1 2 3),
    (w0 0x2 0 24 1 0x25 2, [w1 0 0 0x0 0xc 0 0 0 0 0, 0], .vbcast .f16 0 1 24),
    (w0 0x3 0 2 1 0x25 2, [w1 0 0 0x1 0x1 0 0 0 0 0, 0xFFFFFFFF], .vslide .i8 0 1 2 0xFFFFFFFF),
    (w0 0x4 0 2 1 0x25 2, [w1 0 1 0xa 0x0 0 0 1 0 0, 0], .vredsum 1 .f32 1 1 2),
    (w0 0x5 0 2 1 0x25 2, [w1 0 0 0x3 0x0 0 0 0 0 0, 0], .vredmin .i32 0 1 2),
    (w0 0x6 0 2 1 0x25 2, [w1 0 0 0x8 0x0 0 0 0 0 0, 0], .vredmax .n64 0 1 2),
    (w0 0x7 0 2 1 0x25 2, [w1 0 0 0xa 0x0 0 0 0 0 0, 31], .vext .f32 1 2 31),
    (w0 0x1 0 2 1 0x26 2, [w1 9 2 0x0 0x5 0 0 1 0 0, 0], .vcvt .n8 2 1 1 2 1 true)] := by decide +kernel

theorem test_wordsMatrix : decodesTo [
    (w0 0x1 0 0 15 0x28 2, [w1 0 0 0x0 0xf 0 0 0 0 0, 0x3F], .tclaim .bits 15 7 7),
    (w0 0x2 0 3 0 0x28 2, [w1 0 0 0x0 0x0 0 0 0 0 0, 0], .tfree 3),
    (w0 0x3 0 2 1 0x28 2, [w1 0 0 0x0 0x0 0 0 0 0 0, 0], .hmov 1 2),
    (w0 0x4 24 3 5 0x28 2, [w1 10 0 0x0 0x0 0 0 0 0 0, 0], .hsend 24 10 5 3),
    (w0 0x5 0 2 1 0x28 2, [w1 0 0 0x0 0x0 0 0 0 0 0, 0], .hdup 1 2),
    (w0 0x6 0 2 1 0x28 2, [w1 0 0 0x0 0x0 0 0 0 0 0, 0], .hinfo 1 2),
    (w0 0x7 0 3 2 0x28 2, [w1 0 0 0x0 0x0 0 0 0 0 0, 0], .kset 2 (.reg 3)),
    (w0 0x7 0 0 2 0x28 2, [w1 1 0 0x0 0x0 0 0 0 0 0, 0x40000000], .kset 2 (.imm 0x40000000)),
    (w0 0x1 0 5 1 0x29 2, [w1 1 0 0x1 0x0 1 3 0 0 24, 64], .tld .i8 true true 3 1 5 24 64),
    (w0 0x2 0 7 3 0x29 2, [w1 1 0 0xa 0x0 2 2 0 4 9, 64], .tst .f32 true 2 3 7 9 4 1 64),
    (w0 0x1 2 1 3 0x2a 2, [w1 0 0 0x0 0x0 0 0 0 0 0, 0], .tmma 3 1 2),
    (w0 0x2 0 0 3 0x2a 2, [w1 0 0 0x0 0xa 0 0 0 0 0, 0], .tzero .f32 3),
    (w0 0x3 0 1 3 0x2a 2, [w1 1 1 0x0 0xb 0 0 0 2 0, 0], .tcvt .bf16 1 3 1 2 1),
    (w0 0x1 2 1 3 0x2b 2, [w1 1 0 0x0 0x0 0 0 0 0 0, 7], .tsplit true 3 1 2 7),
    (w0 0x2 2 1 3 0x2b 2, [w1 0 0 0x0 0x0 0 0 0 0 0, 0], .trejoin 3 1 2)] := by decide +kernel

theorem test_wordsCopy : decodesTo [
    (w0 0x1 3 2 1 0x2c 2, [w1 0 0 0x0 0x0 1 1 0 24 4, 0], .c1d true false 1 1 2 3 4 24),
    (w0 0x2 3 2 1 0x2c 2, [w1 0 0 0x0 0x0 1 1 0 24 4, 0], .c2d true false 1 1 2 3 4 24),
    (w0 0x3 3 2 1 0x2c 2, [w1 0 0 0x0 0x0 1 1 0 24 4, 0], .c3d true false 1 1 2 3 4 24),
    (w0 0x5 3 2 1 0x2c 2, [w1 0 0 0x0 0x0 1 1 0 24 4, 0], .cfill true false 1 1 2 3 4 24),
    (w0 0x4 15 2 1 0x2c 2, [w1 0 0 0x0 0x0 0 0 0 5 0, 0], .ctileLd false false 0 1 2 15 5),
    (w0 0x4 15 2 1 0x2c 2, [w1 1 0 0x0 0x0 0 0 0 5 0, 0], .ctileSt false false 0 1 2 15 5),
    (w0 0x6 3 2 1 0x2c 2, [w1 1 0 0x0 0x0 2 3 0 5 4, 0], .cunseal false true 3 true 1 2 3 4 5),
    (w0 0x1 0 2 0 0x2d 0, [], .cwait 2),
    (w0 0x2 0 2 1 0x2d 0, [], .cstat 1 2),
    (w0 0x3 0 2 0 0x2d 2, [w1 0 0 0x0 0x0 0 0 0 0 0, 500], .sleepu 2 500)] := by decide +kernel

theorem test_wordsTask : decodesTo [
    (w0 0x1 5 4 3 0x2e 2, [w1 10 0 0x0 0x0 0 0 0 24 6, 0x1000], .spawn 3 4 5 6 24 (.imm 0x1000) 2 true),
    (w0 0x2 0 0 3 0x2e 3, [w1 0 0 0x0 0x0 0 0 0 24 24, 0, 0x1000, 0], .start 3 0 24 24 (.lit 0x1000) 0),
    (w0 0x3 14 4 3 0x2e 2, [w1 2 0 0x0 0x0 0 0 0 7 6, 0x1000], .rfork 3 4 14 6 7 (.imm 0x1000) 2),
    (w0 0x1 0 0 0 0x2f 0, [], .exit),
    (w0 0x2 0 0 0 0x2f 0, [], .yield),
    (w0 0x3 0 2 0 0x2f 2, [w1 0 0 0x0 0x0 0 0 0 0 0, 0], .keyset 2),
    (w0 0x4 0 2 0 0x2f 2, [w1 0 0 0x0 0x0 0 0 0 0 0, 0], .budset 2),
    (w0 0x1 5 4 31 0x30 2, [w1 0 0 0x0 0x0 2 2 0 0 0, 0], .psend true 2 31 4 5),
    (w0 0x2 28 4 0 0x30 2, [w1 1 0 0xa 0x0 0 0 0 0 0, 0], .csend .f32 false 0 4 28 1),
    (w0 0x3 0 0 7 0x30 2, [w1 4 0 0x0 0x0 0 0 0 24 24, 0x40], .bind 24 24 (.imm 0x40) (.post 7) true),
    (w0 0x3 0 0 0 0x30 2, [w1 11 0 0x0 0x0 0 0 0 24 24, 0x40], .bind 24 24 (.imm 0x40) (.chan 3) false),
    (w0 0x4 0 31 1 0x30 0, [], .pwait 1 31),
    (w0 0x1 0 0 1 0x31 0, [], .horz 1),
    (w0 0x2 0 0 1 0x31 0, [], .getlid 1)] := by decide +kernel

theorem test_wordsSync : decodesTo [
    (w0 0x1 2 9 0 0x32 2, [w1 0 0 0x0 0x0 0 0 0 0 0, 0], .gjoin 9 2),
    (w0 0x2 0 9 0 0x32 2, [w1 0 0 0x0 0x0 0 0 0 0 0, 0], .gleave 9),
    (w0 0x3 3 9 0 0x32 2, [w1 0 0 0x0 0x0 0 0 0 0 0, 0], .barinit 9 3),
    (w0 0x4 0 9 0 0x32 2, [w1 0 0 0x0 0x0 0 0 0 0 0, 0], .bararr 9),
    (w0 0x5 0 9 0 0x32 2, [w1 0 0 0x0 0x0 0 0 0 0 0, 0], .barwait 9),
    (w0 0x1 7 8 6 0x33 2, [w1 0 0 0x0 0x0 0 0 0 0 0, 0], .qinit 6 8 7),
    (w0 0x2 0 8 0 0x33 2, [w1 0 0 0x0 0x0 0 0 0 0 0, 0], .qarr 8 .none),
    (w0 0x2 28 8 0 0x33 2, [w1 1 0 0xa 0x0 0 0 0 0 0, 0], .qarr 8 (.vec .f32 28)),
    (w0 0x3 0 8 1 0x33 2, [w1 0 0 0x0 0x0 0 0 0 0 0, 0], .qwait 1 8),
    (w0 0x4 0 8 1 0x33 2, [w1 0 0 0x0 0x0 0 0 0 0 0, 0], .qstat 1 8),
    (w0 0x5 0 8 1 0x33 2, [w1 0 0 0x0 0x0 0 0 0 0 0, 0], .qrec 1 8)] := by decide +kernel

theorem test_wordsGarnet : decodesTo [
    (w0 0x1 7 8 0 0x34 2, [w1 1 0 0x0 0x0 1 1 0 3 2, 0], .evcfg true true false 1 8 7 2 3),
    (w0 0x2 2 8 0 0x34 2, [w1 0 0 0x0 0x0 0 0 0 0 5, 0], .evset 8 2 (.reg 5)),
    (w0 0x2 2 8 0 0x34 2, [w1 8 0 0x0 0x0 0 0 0 0 0, 0xFFFFFFFD], .evset 8 2 (.imm 0xFFFFFFFD)),
    (w0 0x2 2 8 0 0x34 3, [w1 8 0 0x0 0x0 0 0 0 0 0, 0, 1, 2], .evset 8 2 (.lit 0x0000000200000001)),
    (w0 0x3 2 8 0 0x34 2, [w1 0 0 0x0 0x0 0 0 0 0 5, 0], .evadd 8 2 (.reg 5)),
    (w0 0x3 2 8 0 0x34 2, [w1 8 0 0x0 0x0 0 0 0 0 0, 0xFFFFFFFD], .evadd 8 2 (.imm 0xFFFFFFFD)),
    (w0 0x3 2 8 0 0x34 3, [w1 8 0 0x0 0x0 0 0 0 0 0, 0, 1, 2], .evadd 8 2 (.lit 0x0000000200000001)),
    (w0 0x4 2 8 4 0x34 2, [w1 0 0 0x0 0x0 0 0 0 0 0, 0], .evget 4 8 2),
    (w0 0x5 0 8 4 0x34 2, [w1 0 0 0x0 0x0 0 0 0 0 0, 0], .evsum 4 8),
    (w0 0x1 0 8 3 0x35 2, [w1 1 0 0x0 0x0 0 0 0 24 4, 0], .evnext true false false 0 3 8 4 24),
    (w0 0x2 2 8 9 0x35 2, [w1 0 0 0x0 0x0 0 0 0 6 5, 0], .evsched 9 8 2 5 6),
    (w0 0x3 0 8 4 0x35 2, [w1 0 0 0x0 0x0 0 0 0 0 0, 0], .evclkClock 4 8),
    (w0 0x3 0 8 4 0x35 2, [w1 1 0 0x0 0x0 0 0 0 0 0, 0], .evclkCount 4 8),
    (w0 0x4 0 8 4 0x35 2, [w1 0 0 0x0 0x0 0 0 0 0 0, 0], .evhorBound 4 8),
    (w0 0x4 0 8 4 0x35 2, [w1 1 0 0x0 0x0 0 0 0 0 0, 0], .evhorCommit 4 8),
    (w0 0x4 0 8 4 0x35 2, [w1 2 0 0x0 0x0 0 0 0 0 0, 0], .evhorStatus 4 8),
    (w0 0x5 5 8 0 0x35 2, [w1 2 0 0x0 0x0 0 0 0 0 9, 0], .evlook 8 5 9 2)] := by decide +kernel

/-! ### Ill-formed terms: one for each check of WellFormed -/

/-- Register classes, tags, scopes and the single limits: none of these is an instruction that the encoding admits. -/
theorem test_illFormed : ∀ i ∈ [
    Instr.add 25 0 0, .add 0 25 0, .add 0 0 31, .ld 0 16 0, .stIndexed .i64 false 0 1 2 16 0, .vadd .i32 false 0 28 0 0,
    .vadd .i32 true 0 1 2 25, .vadd .f32 false 0 1 2 3, .vand .f32 false 0 1 2 3, .vfadd 0 .i32 false 0 1 2 3,
    .vcmpeq .i8 false 0 1 2 3, .vmov .empty 0 1 2, .vperm .i8 0 1 2 3, .vcvt .bits 0 0 1 2 0 false, .ldX .bf16 false 0 1 2 (.imm 0),
    .amoadd .f32 false false 0 1 2 3 (.imm 0), .amomin .n32 false false 0 1 2 3 (.imm 0), .amominn .i32 false false 0 1 2 3 (.imm 0),
    .amofadd .i32 false false 0 1 2 3 (.imm 0), .tclaim .i16 0 0 0, .tcvt .bits 0 0 1 0 0, .ldX .i64 true 6 1 2 (.imm 0),
    .ldX .i64 false 1 1 2 (.imm 0), .fence false false 0, .fence true true 7, .fcvt 1 false 1 2, .call 0 0x1000, .callr 0 1,
    .vredsum 1 .i32 0 1 2, .vext .f32 1 2 32, .vcmpeq .i32 false 0 0 1 2, .mand 0 1 2, .vgath .i32 false 0 0 3 1 3 (.imm 0) 0,
    .hmov 4 4, .hdup 4 4, .hsend 1 11 0 0, .kset 1 (.reg 25), .tld .bits true false 0 1 2 3 0, .tmma 1 1 2, .tmma 1 2 1,
    .tsplit false 1 2 1 3, .trejoin 1 2 2, .cunseal false false 0 true 1 16 2 3 4, .spawn 1 2 0 3 4 (.imm 0) 5 false,
    .spawn 1 2 13 3 4 (.imm 0) 4 false, .spawn 1 2 3 4 5 (.imm 0) 0 false, .spawn 1 2 0 24 5 (.imm 0) 0 true,
    .rfork 1 2 0 3 4 (.imm 0) 3, .csend .empty false 0 1 2 0, .qarr 1 (.vec .f64 2), .evset 1 2 (.reg 25), .commit,
    .taskDispatch 0], i.wf = false := by decide +kernel

/-- FIPS 197: values of the substitution box, and one column of its MixColumns example; the unit of the field of GHASH. -/
theorem test_aesAndGhash : aesSub 0x00 = 0x63 ∧ aesSub 0x53 = 0xED ∧ aesSub 0xFF = 0x16 ∧
    (aesMix [0xDB, 0x13, 0x53, 0x45]).take 4 = [0x8E, 0x4D, 0xA1, 0xBC] ∧ ghashMul (2 ^ 127) 0x1234 = 0x1234 := by decide +kernel

/-! ### States for single steps -/

/-- A state whose task is about to issue a nop, as `withFetchWord` places it (word of nop: 08 R193). -/
def boot : State := State.reset.withWord (bytes32 0x008000D8#32)
/-- Registers set, in order. -/
def regs (s : State) (l : List (BitVec 5 × Word)) : State := l.foldl (fun s p => s.setX p.1 p.2) s
/-- The acting task with other system registers. -/
def sys (s : State) (f : Sys → Sys) : State := s.onMe (fun t => { t with sy := f t.sy })
/-- The acting task with other outstanding operations. -/
def ios (s : State) (f : Io → Io) : State := s.onMe (fun t => { t with io := f t.io })
/-- The acting task in another place. -/
def plc (s : State) (f : Place → Place) : State := s.onMe (fun t => { t with pl := f t.pl })
/-- The acting task with other registers. -/
def rfs (s : State) (f : Regs → Regs) : State := s.onMe (fun t => { t with rf := f t.rf })
/-- The acting task as another task. -/
def tids (s : State) (f : TaskId → TaskId) : State := s.onMe (fun t => { t with tid := f t.tid })
/-- The task with a handler at level 1. -/
def armed : State := sys boot (fun y => { y with b1 := { y.b1 with tvec := 0x1000100#64 } })
/-- The task with a kill pending. -/
def doomed : State := plc boot (fun p => { p with pend := some { code := 0x19#8 } })
/-- The task's launch in mode `m`. -/
def mode (s : State) (m : BitVec 32) : State := s.onLaunch 1 (fun x => { x with mode := m })
/-- The task ordered, and above the horizon, which another task of a lower key holds. -/
def above : State :=
  let s := tids (sys armed (fun y => { y with key := 5#64 })) (fun i => { i with ord := true })
  { s with tasks := Map.set s.tasks 2 { tid := { lid := 7#64, launch := 1, vf := 1, ord := true }, pl := { life := .queued } } }

/-- A run of n bytes of the placed page. -/
def dataSeg (va : Word) (n : Nat) : Seg := { va := va, at_ := { loc := va.toNat, det := true }, len := n }

/-! ### Single steps -/

/-- 08 R171: the sum wraps and zr stays 0. -/
theorem test_addWraps : (match exec (.add 1 2 3) (regs boot [(2, 0xFFFFFFFFFFFFFFFF), (3, 2)]) with
    | .next t => t.me.x 1 == 1#64 && t.me.x 24 == 0#64 && t.pc == 0x1000004#64
    | _ => false) = true := by decide +kernel
/-- The placed word runs in the next step. -/
theorem test_nopRuns : (match step boot with
    | .next t => t.pc == 0x1000004#64 && t.me.pl.retired == 1
    | _ => false) = true := by decide +kernel

/-! ### States that meet the hypotheses of the statements -/

theorem wit_EncodeDecodeRoundTrip : (Instr.add 1 2 3).wf = true ∧ (Instr.spawn 1 2 12 3 4 (.lit 0) 4 true).wf = true := by
  decide +kernel
theorem wit_DecodingIsCanonical : decode (bytes32 0x008000D8#32 ++ [7#8]) = .ok (.nop, [7#8]) := by decide +kernel

/-- What `AtIssue` says of task 1 of a state whose agenda lets it issue, and of the state after its window is filled. -/
def atIssue (s : State) : Prop :=
  let s1 := State.takePort { s with agenda := [], cur := 1 } 1
  (s.agenda = [.issue 1] ∧ (s.task 1).pl.life = .resident ∧ (s.task 1).pl.run ≠ .out) ∧ State.atPort { s with agenda := [] } 1 = true ∧
  ((Map.get? s1.tasks 1).isSome = true ∧ s1.me.pl.doomed = false ∧ s1.me.pl.stopped = false ∧ (s1.me.pl.run ≠ .wait ∨ s1.me.pl.pend = none) ∧
    s1.me.pl.saved = false ∧ s1.me.broke = false ∧ s1.me.boundDue = false) ∧ s1.firstFill.1 = .ok ()
def issued (s : State) : State := (State.takePort { s with agenda := [], cur := 1 } 1).firstFill.2
theorem atIssue_holds (s : State) (h : atIssue s) : s.AtIssue 1 (issued s) := by
  obtain ⟨⟨h1, h2, h3⟩, h4, ⟨h5, h6, h7, h8, h9, ha, hb⟩, hc⟩ := h
  exact ⟨[], _, h1, h2, h3, h4, rfl, h5, h6, h7, h8, h9, ha, hb, Prod.ext hc rfl⟩
/-- A nop, an instruction of five words, and a fence that finds a load of its task that has returned bytes of the agenda. -/
theorem wit_StepRunsDecoded :
    (let f := (issued boot).fetchWords (issued boot).pc 1
     atIssue boot ∧ f.1 = .ok [0x008000D8#32] ∧ lenBytes ((0x008000D8#32).extractLsb' 0 2) = 4 ∧
     decode (([0x008000D8#32]).flatMap bytes32) = .ok (.nop, []) ∧ f.2.noteStart.mustRedeem .nop = false) ∧
    (let s := State.reset.withWord ([0x00800047#32, 0x40000000#32, 0#32, 0x1234#32, 0#32].flatMap bytes32)
     let f := (issued s).fetchWords (issued s).pc 1
     atIssue s ∧ f.1 = .ok [0x00800047#32] ∧ headOk 0x00800047#32 = true ∧
     (f.2.fetchWords ((issued s).pc + 4#64) (lenBytes ((0x00800047#32).extractLsb' 0 2) / 4 - 1)).1 = .ok [0x40000000#32, 0#32, 0x1234#32, 0#32] ∧
     decode ([0x00800047#32, 0x40000000#32, 0#32, 0x1234#32, 0#32].flatMap bytes32) = .ok (.call 4#4 0x1234#64, []) ∧
     (f.2.fetchWords ((issued s).pc + 4#64) 4).2.noteStart.mustRedeem (.call 4#4 0x1234#64) = false) ∧
    (let s := boot.onMs (fun m => { m with owed := [{ owner := 1, vf := 1, locs := [0x1000800], bytes := [7#8] }] })
     atIssue s ∧ ((issued s).fetchWords (issued s).pc 1).2.noteStart.mustRedeem (.fence true true 5#3) = true) := by
  refine ⟨?_, ?_, ?_⟩ <;> unfold atIssue <;> decide +kernel
/-- A word at a reserved major, at level 1, above level 2 and above the horizon. -/
theorem wit_StepRunsDecoded_StepTakesIll :
    let at_ (f : Sys → Sys) : State := sys (State.reset.withWord (bytes32 (0x3F#32 * 4#32))) f
    let r (s : State) : State := ((issued s).fetchWords (issued s).pc 1).2.noteStart
    let low := at_ (fun y => { y with b1 := { y.b1 with tvec := 0x1000100#64 } })
    let top := at_ id
    (atIssue low ∧ ((issued low).fetchWords (issued low).pc 1).1 = .ok [0x3F#32 * 4#32] ∧ headOk (0x3F#32 * 4#32) = false ∧
      decode ((0x3F#32 * 4#32 :: []).flatMap bytes32) = .error (.illegal (0x3F#32 * 4#32)) ∧ (r low).provisional (r low).cur = false ∧
      (r low).me.sy.trapLevel = 1) ∧
    (atIssue top ∧ (r top).me.sy.trapLevel = 3) ∧
    (let s := { above with agenda := [.issue 1] }
     atIssue s ∧ (r s).provisional (r s).cur = true) := by
  unfold atIssue; decide +kernel
/-- A first word on a page that is not there, and the later words of an instruction that runs into one. -/
theorem wit_StepRunsDecoded_StepTakesFetchFault :
    (boot.xlate (boot.agentOf boot.cur) { x := true } 0x3FFFFFFC#64 4).1 = .error { va := 0x3FFFFFFC#64, code := 0x04#8, wlev := 2#4 } ∧
    (let s := rfs boot (fun r => { r with pc := 0x3FFFFFFC#64 })
     atIssue s ∧ ((issued s).fetchWords (issued s).pc 1).1 = .trap { code := 0x04#8, tval := 0x3FFFFFFC#64, kind := 3#4, wlev := 2#4 }) ∧
    (let s := rfs { boot with mem := memPut boot.mem ((locRange 0x11FFFFC 4).zip (bytes32 0x00800047#32)) } (fun r => { r with pc := 0x11FFFFC#64 })
     let f := (issued s).fetchWords (issued s).pc 1
     atIssue s ∧ f.1 = .ok [0x00800047#32] ∧ headOk 0x00800047#32 = true ∧
     (f.2.fetchWords ((issued s).pc + 4#64) 4).1 = .trap { code := 0x04#8, tval := 0x1200000#64, kind := 3#4, wlev := 2#4 }) ∧
    (let s := ios boot (fun o => { o with sq := [{ op := .red .add .i32 1#64, cells := (locRange 0x1000000 4).zip (leBytes 4 1) }] })
     atIssue s ∧ ((issued s).fetchWords (issued s).pc 1).1 = .wait) := by
  unfold atIssue; decide +kernel
theorem wit_DecodingIsCanonical_ReservedMajorsAreIllegal : ((0x3F#32 * 4#32).extractLsb' 2 6).toNat = 0x3F ∧ ((0x18#32).extractLsb' 2 6).toNat = 0x06 := by
  decide
theorem wit_ReadsAndFetches_FetchReadsMemory :
    let f := boot.xlate (boot.agentOf boot.cur) { x := true } 0x1000000#64 4
    (∃ g, f.1 = .ok [g] ∧ f.2.Calm ∧ f.2.tracks = false ∧ g.len = 4 ∧
      (∀ e ∈ f.2.me.io.sq, ∀ c ∈ e.cells, c.1 < g.at_.loc ∨ g.at_.loc + 4 ≤ c.1) ∧ f.2.hostBusy (locRange g.at_.loc 4) = false ∧
      f.2.tileBlocks (locRange g.at_.loc 4) = false ∧
      f.2.provisional f.2.cur = false ∧ ∀ k, k < 1 → Map.get? (Map.get [] f.2.ms.icache f.2.me.pl.core) (g.at_.loc + 4 * k) = none) :=
  ⟨{ va := 0x1000000#64, at_ := { loc := 0x1000000, det := true }, len := 4 },
    by unfold State.Calm State.MemOk State.OneKey State.HeldOneKey; decide +kernel⟩
theorem wit_StepKeepsMemoryForm : boot.MemOk ∧ Runs (step boot) :=
  ⟨by unfold State.MemOk; decide +kernel, _, rfl⟩

/-- The two ways in which a division goes on, and the corner of the most negative dividend. -/
theorem wit_MultiplyAndDivide :
    (boot.me.sy.dz = false ∧ boot.x 3#5 = 0#64) ∧
    (let s := regs (sys boot (fun y => { y with dz := true })) [(3, 1)]
     s.me.sy.dz = true ∧ s.x 3#5 ≠ 0#64 ∧ (s.x 3#5).extractLsb' 0 32 ≠ 0#32) := by decide +kernel
theorem wit_MultiplyAndDivide_DivideByZeroTraps :
    (let s := regs (sys armed (fun y => { y with dz := true })) [(2, 9), (3, 0x500000000)]
     s.me.sy.dz = true ∧ s.x 4#5 = 0#64 ∧ (s.x 3#5).extractLsb' 0 32 = 0#32 ∧ s.provisional s.cur = false ∧
       s.me.sy.trapLevel ≠ 3) ∧
    (let s := sys above (fun y => { y with dz := true })
     s.me.sy.dz = true ∧ s.x 3#5 = 0#64 ∧ s.provisional s.cur = true) := by decide +kernel
theorem wit_RoundingIsCorrect : (fpRound 0 .f32 false 3 0).2 &&& fOF = 0#5 ∧ (fpRound 1 .bf16 true 0x1FFFF 40).2 &&& fOF = 0#5 ∧
    (fpRound 0 .e4m3 false 1 (-12)).2 &&& fOF = 0#5 := by decide +kernel

theorem wit_BranchesAndJump : boot.me.pl.pend = none ∧ doomed.me.pl.pend = some { code := 0x19#8 } ∧
    (0#11).toInt ≤ 0 ∧ 0 < (1#11).toInt ∧ (0x400#11).toInt ≤ 0 := by decide +kernel
/-- A call whose window ends at the limit, with its lines resident after the spill and fill. -/
theorem wit_CallsAndReturns_CallSlidesTheWindow :
    let s := rfs boot (fun r => { r with wbase := 0x1180308#64, lines := [(0x23006, false), (0x23007, false)] })
    let f := s.callLines (s.me.rf.wbase + BitVec.ofNat 64 (8 * (15#4).toNat))
    15#4 ≠ 0#4 ∧ (0x1234#64).extractLsb' 0 2 = 0#2 ∧
    s.me.rf.wbase.toNat + 8 * (15#4).toNat + 128 ≤ s.me.sy.stklim.toNat ∧ f.1 = .ok () ∧ f.2.pc = s.pc ∧
    f.2.me.rf.wbase = s.me.rf.wbase := by decide +kernel
/-- A line of the stack of the placed task, and one on a page that is not there. -/
theorem wit_CallsAndReturns_LinesOfTheImage :
    (let f := boot.xlate (boot.agentOf boot.cur) { w := true } (BitVec.ofNat 64 (128 * 0x23000)) 128
     f.1 = .ok [dataSeg 0x1180000 128] ∧ f.2.Calm ∧ (boot.xlate (boot.agentOf boot.cur) { rd := true } (BitVec.ofNat 64 (128 * 0x23000)) 128).1 = .ok [dataSeg 0x1180000 128]) ∧
    (boot.xlate (boot.agentOf boot.cur) { w := true } (BitVec.ofNat 64 (128 * 0x7FFFFF)) 128).1 = .error { va := 0x3FFFFF80#64, code := 0x04#8, wlev := 2#4 } ∧
    (boot.xlate (boot.agentOf boot.cur) { rd := true } (BitVec.ofNat 64 (128 * 0x7FFFFF)) 128).1 = .error { va := 0x3FFFFF80#64, code := 0x04#8, wlev := 2#4 } := by
  unfold State.Calm State.MemOk State.OneKey State.HeldOneKey; decide +kernel
/-- A window whose lines are there; one that lacks a line with room for it and with 32 lines held, of which some or none are clean; and
fills that are refused. -/
theorem wit_CallsAndReturns_SpillsAndFills :
    let held (n : Nat) (dirty : Bool) : State := rfs boot (fun r => { r with wbase := 0x1180000#64, lines := (List.range n).map (fun k => (0x23001 + k, dirty)) })
    let wb := 0x1180000#64
    let miss (s : State) : Prop := s.me.rf.missing wb = [0x23000]
    (held 0 false).me.rf.missing 0x1180000#64 = [0x23000] ∧ linesOf wb = [0x23000] ∧ linesOf 0x1180008#64 = [0x23000, 0x23001] ∧
    (rfs boot (fun r => { r with lines := [(0x23000, false)] })).me.rf.missing wb = [] ∧
    (miss (held 4 true) ∧ ((held 4 true).callLines wb).1 = .ok () ∧ ((held 4 true).retLines wb [0x23000]).1 = .ok ()) ∧
    (miss (held 32 true) ∧ ((held 32 true).callLines wb).1 = .ok () ∧ ((held 32 true).retLines wb [0x23000]).1 = .ok () ∧
      32 ≤ (held 32 true).me.rf.lines.length ∧ ∀ q ∈ (held 32 true).me.rf.lines, q.2 = true ∧ q.1 ∉ linesOf wb ∧ 0x23001 ≤ q.1) ∧
    (((held 32 false).retLines wb [0x23000]).1 = .ok () ∧ ∀ q ∈ (held 32 false).me.rf.lines, q.2 = false ∧ 0x23001 ≤ q.1) ∧
    ((held 4 true).callLines 0x3FFFFF80#64).1 = .trap { code := 0x04#8, tval := 0x3FFFFF80#64, kind := 7#4, wlev := 2#4 } ∧
    ((held 4 true).writeLine 0x23001).1 = .ok () := by decide +kernel
theorem wit_CallsAndReturns_RetSlidesBack :
    let s := regs (rfs boot (fun r => { r with wbase := 0x1180020#64, lines := [(0x23000, false), (0x23001, false)] }))
      [(15, 0x0400000001000040)]
    let k := s.x 15#5
    let back : Word := (k.extractLsb' 56 4).setWidth 64 * 8#64
    (k.extractLsb' 60 4 = 0#4 ∧ k.extractLsb' 56 4 ≠ 0#4 ∧ k.extractLsb' 0 2 = 0#2 ∧
    s.me.sy.stkbase.toNat + back.toNat ≤ s.me.rf.wbase.toNat) ∧
    (s.retLines (s.me.rf.wbase - back) (s.me.rf.missing (s.me.rf.wbase - back))).1 = .ok () := by decide +kernel
theorem wit_CallsAndReturns_CallAndReturnChecks :
    armed.provisional armed.cur = false ∧ armed.me.sy.trapLevel ≠ 3 ∧
    (0x1002#64).extractLsb' 0 2 ≠ 0#2 ∧ ((regs armed [(1, 3)]).x 1#5).extractLsb' 0 2 ≠ 0#2 ∧
    (let s := rfs armed (fun r => { r with wbase := 0x1180380#64 })
     s.me.sy.stklim.toNat < s.me.rf.wbase.toNat + 8 * (1#4).toNat + 128 ∧ (s.x 1#5).extractLsb' 0 2 = 0#2) ∧
    (let bad (w : Word) (s : State) : Bool :=
       let k := (regs s [(15, w)]).x 15#5
       decide (k.extractLsb' 60 4 ≠ 0#4 ∨ k.extractLsb' 56 4 = 0#4 ∨
         s.me.rf.wbase.toNat < s.me.sy.stkbase.toNat + 8 * (k.extractLsb' 56 4).toNat)
     bad 0x1100000000000000 armed = true ∧ bad 0x1000000 armed = true ∧ bad 0x0100000001000000 armed = true ∧
       bad 0x0100000001000002 (rfs armed (fun r => { r with wbase := 0x1180008#64 })) = false) := by decide +kernel
theorem wit_TrapsAndReturns_TakingATrap :
    let at_ (l : Nat) (t1 t2 : Word) : Sys :=
      { boot.me.sy with tl := BitVec.ofNat 2 l, b1 := { tvec := t1 }, b2 := { tvec := t2 } }
    ((at_ 0 4 0).tl = 0#2 ∧ (at_ 0 4 0).b1.tvec ≠ 0#64) ∧
    ((at_ 0 0 4).tl.toNat ≤ 1 ∧ (at_ 0 0 4).b1.tvec = 0#64 ∧ (at_ 0 0 4).b2.tvec ≠ 0#64) ∧
    ((at_ 1 4 4).tl = 1#2 ∧ (at_ 1 4 4).b2.tvec ≠ 0#64) ∧
    ((at_ 0 0 0).b2.tvec = 0#64 ∧ (at_ 0 0 0).b1.tvec = 0#64) ∧ (2 ≤ (at_ 2 4 4).tl.toNat ∧ (at_ 2 4 4).tl ≠ 0#2) := by
  decide +kernel
theorem wit_TrapsAndReturns_TrapInstruction : (armed.provisional armed.cur = false ∧ armed.me.sy.trapLevel ≠ 3) ∧
    (boot.provisional boot.cur = false ∧ boot.me.sy.trapLevel = 3) ∧ above.provisional above.cur = true := by decide +kernel
theorem wit_TrapsAndReturns_TrapReturn :
    let s := sys armed (fun y => { y with tl := 1#2, b1 := { y.b1 with ret := 0x1000010#64 }, b2 := { tvec := 0x1000200#64 } })
    let q := ios s (fun o => { o with sfq := [{ q2 := 0x20804#64 }] })
    (armed.me.sy.tl = 0#2 ∧ armed.provisional armed.cur = false ∧ armed.me.sy.trapLevel ≠ 3) ∧
    (let r := rfs s (fun r => { r with lines := [] })
     r.me.sy.tl ≠ 0#2 ∧ r.me.rf.missing r.me.rf.wbase ≠ [] ∧ (r.retLines r.me.rf.wbase (r.me.rf.missing r.me.rf.wbase)).1 = .ok ()) ∧
    (s.me.sy.tl ≠ 0#2 ∧ s.me.io.sq = [] ∧ s.me.io.upds = [] ∧ s.me.io.sfq = [] ∧ s.me.rf.missing s.me.rf.wbase = [] ∧
      (s.retLines s.me.rf.wbase (s.me.rf.missing s.me.rf.wbase)).1 = .ok ()) ∧
    ((ios s (fun o => { o with sq := [{}] })).me.io.sq ≠ []) ∧
    (q.me.sy.tl ≠ 0#2 ∧ q.me.io.sq = [] ∧ q.me.io.upds = [] ∧ q.me.io.sfq = [{ q2 := 0x20804#64 }] ∧
      q.provisional q.cur = false ∧ q.me.sy.trapLevel ≠ 3 ∧ q.me.io.ovf = false ∧ q.me.io.sfq.length ≤ 8) := by decide +kernel
theorem wit_KillRecords : (boot.me.sy.lastBank ≠ 1#2 ∧ boot.me.sy.lastBank ≠ 2#2) ∧ Map.get? boot.tasks 1 = some bootTask ∧ Map.get? boot.launches bootTask.tid.launch = some bootLaunch ∧
    (sys boot (fun y => { y with lastBank := 1#2 })).me.sy.lastBank = 1#2 ∧
    (sys boot (fun y => { y with lastBank := 2#2 })).me.sy.lastBank = 2#2 ∧ dmodeOf bootLaunch.mode = 0 ∧
    (boot.me.tid.ord = false ∧ boot.me.io.upds = [] ∧ boot.me.tid.bind = none ∧ boot.me.tid.cell = none ∧ boot.me.tid.handler = false ∧
      boot.me.pl.life = .resident ∧ boot.halted boot.me.pl.core 1 = false ∧ Map.get? (boot.coreSt boot.me.pl.core).posts 31 = none ∧
      Map.get? (boot.coreSt boot.me.pl.core).binds 31 = none) := by decide +kernel
/-- A record of a lower lid, left in the same phase in dmode 1. -/
theorem wit_KillRecordsLower :
    let s := (tids (mode boot 1) (fun i => { i with lid := 9#64 })).onLaunch 1 (fun x => { x with kills := 1, krec := { q0 := 3#64 } })
    let x := s.launch 1
    s.me.tid.launch = 1 ∧ dmodeOf x.mode ≠ 0 ∧ x.kills ≠ 0 ∧ x.krecIn = x.phase ∧ x.krec.q0.toNat < s.me.tid.lid.toNat := by decide +kernel
theorem wit_FencesAndSystemForms_Breakpoint :
    (let s := (mode boot 0x100).onHub (fun h => { h with attached := true })
     s.hub.attached = true ∧ s.lmode.getLsbD 8 = true ∧ (Map.get? s.tasks s.cur).isSome = true ∧
       (s.vf s.me.tid.vf).trace.en = false) ∧
    (armed.hub.attached = false ∧ armed.provisional armed.cur = false ∧ armed.me.sy.trapLevel ≠ 3) := by decide +kernel

/-! Translations and reads of the placed page, calm, with room in every counter. -/
theorem calm_boot : boot.Calm := by unfold State.Calm State.MemOk State.OneKey State.HeldOneKey; decide +kernel

theorem wit_Translation_TranslationOnlyCaches : (boot.xlate (boot.agentOf 1) { rd := true } 0x1000800#64 8).1 = .ok [dataSeg 0x1000800 8] ∧
    boot.MemOk ∧ boot.ms.pins = [] ∧ boot.ms.reds = [] ∧ boot.OneKey := by unfold State.MemOk State.OneKey State.HeldOneKey; decide +kernel
/-- A state in which the page of 0x1200000 has the leaf entry e. -/
def page (e : Word) : State := { boot with
  mem := memPut boot.mem ((locRange 0x201048 8).zip (leBytes 8 0x202001) ++ (locRange 0x202000 8).zip (leBytes 8 e.toNat)) }
/-- Walks that stop at each level and that end at a leaf of each size. -/
theorem wit_Translation_TableWalk :
    let giant (e : Word) : State := { boot with mem := memPut boot.mem ((locRange 0x200008 8).zip (leBytes 8 e.toNat)) }
    boot.Calm ∧ (page 0x800000000120003B#64).Calm ∧ (giant 0x800000004000003B#64).Calm ∧
    (boot.walk 1 0x8000000000#64).1 = .error 0 ∧ (boot.walk 1 0x40000000#64).1 = .error 1 ∧ (boot.walk 1 0x1200000#64).1 = .error 2 ∧
    ((page 0#64).walk 1 0x1200000#64).1 = .error 3 ∧ ((giant 0x800000004000003B#64).walk 1 0x40000000#64).1 = .ok (0x800000004000003B#64, 1) ∧
    (boot.walk 1 0x1000000#64).1 = .ok (0x800000000100003B#64, 2) ∧
    ((page 0x800000000120003B#64).walk 1 0x1200000#64).1 = .ok (0x800000000120003B#64, 3) := by
  refine ⟨?_, ?_, ?_, ?_, ?_, ?_, ?_, ?_, ?_, ?_⟩ <;> (try unfold State.Calm State.MemOk State.OneKey State.HeldOneKey) <;> decide +kernel
/-- Each way to be malformed, at its level. -/
theorem wit_Translation_MalformedEntries :
    let bad (lv : Nat) (e : Word) : Bool := boot.malformed (boot.part 1) lv e
    bad 3 0x800000000120003B#64 = false ∧ bad 2 0x201001#64 = false ∧ bad 3 0x810000000120003B#64 = false ∧
    bad 3 0x830000000120003B#64 = true ∧ bad 3 0x8010000001200033B#64 = true ∧ bad 3 0x0000000001200013#64 = true ∧ bad 3 0x000000000120013B#64 = true ∧
    bad 2 0x000000000121003B#64 = true ∧ bad 1 0x000000004020003B#64 = true ∧ bad 0 0x000000000120003B#64 = true ∧ bad 3 0x201001#64 = true ∧
    bad 1 0x200101#64 = true ∧ bad 2 0x0008000000000001#64 = true ∧ bad 3 0x000000000120007B#64 = true := by decide +kernel
/-- A 64 KiB page at its last byte, granted, refused and under an empty key slot; leaves of 2 MiB and 1 GiB; a link that ends within the
page; the CLM, and addresses that the selector refuses and that no entry maps. -/
theorem wit_Translation_WalkPermits :
    let who : Agent := { vf := 1, core := 0, cl := 0, det := true }
    let va := 0x120FFFF#64
    let at_ (s : State) (va e : Word) (lv : Nat) : Prop := selectVa (s.part who.vf) who.cl va = .xlat ∧ s.tlbFind who.vf who.core va = [] ∧
      s.ms.poison = [] ∧ (s.walk who.vf va).1 = .ok (e, lv) ∧ va.toNat % 65536 + 1 ≤ 65536
    let same (e : Word) : Prop := at_ (page e) va e 3 ∧ 1 ≤ (page e).physRoom ((page e).part who.vf) (ptePage e + va.toNat % 65536)
    let giant : State := { boot with mem := memPut boot.mem ((locRange 0x200008 8).zip (leBytes 8 0x800000004000003B)) }
    let short : State := giant.onMs (fun m => { m with linkCap := [(0, 0x40000004)] })
    (same 0x800000000120003B#64 ∧ pteRd 0x800000000120003B#64 = true) ∧
    (same 0x0000000001200023#64 ∧ pteRd 0x0000000001200023#64 = false ∧ pteDet 0x0000000001200023#64 = false) ∧
    (same 0x8C0000000120003B#64 ∧ (page 0x8C0000000120003B#64).keyReady 1 (pteKey 0x8C0000000120003B#64) = false) ∧
    (page 0x800000000120003B#64).keyReady who.vf (pteKey 0x800000000120003B#64) = true ∧
    (at_ boot 0x1000800#64 0x800000000100003B#64 2 ∧ 8 ≤ boot.physRoom (boot.part 1) 0x1000800) ∧
    (at_ giant 0x40000000#64 0x800000004000003B#64 1 ∧ 8 ≤ giant.physRoom (giant.part 1) 0x40000000) ∧
    (at_ short 0x40000000#64 0x800000004000003B#64 1 ∧ short.physRoom (short.part 1) 0x40000000 = 4) ∧
    (selectVa (boot.part 1) 0 0xF0000000001000#64 = .clm 0 0x1000 ∧ 0x1000 + 8 ≤ 2 ^ 21 - 64 * (boot.part 1).qunits) ∧
    selectVa (boot.part 1) 0 0xF2000000000000#64 = .bad ∧ (boot.walk 1 0x3FFFFFFF#64).1 = .error 2 := by decide +kernel
theorem wit_ReadsAndFetches_ReadsLeaveMemory : boot.MemOk ∧
    (boot.readMem 1#4 0x1000000#64 4).1 = .ok [0xD8#8, 0#8, 0x80#8, 0#8] := by unfold State.MemOk; decide +kernel
theorem wit_ReadsAndFetches_CalmReads :
    let f := boot.xlate (boot.agentOf boot.cur) { rd := true } 0x1000800#64 8
    f.1 = .ok [dataSeg 0x1000800 8] ∧ boot.Calm ∧ boot.det = false ∧ boot.me.tid.ord = false ∧
    f.2.mustWait false (segLocs [dataSeg 0x1000800 8]) = false :=
  ⟨by decide +kernel, calm_boot, by decide +kernel, by decide +kernel, by decide +kernel⟩
theorem wit_LoadValues_LoadsExtend :
    let s := ios (regs boot [(2, 0x1000800), (3, 0x200)]) (fun o => { o with lq := List.replicate 63 {} })
    s.me.io.lq.length < 64 ∧ (s.readMem 1#4 (s.x 2#5 + (8#14).signExtend 64) 8).1 = .ok (List.replicate 8 0#8) ∧
    (s.x 2#5 + 8#64).toNat % (Tag.i64.width / 8) = 0 ∧
    (s.readMem 1#4 (s.x 2#5 + 8#64) (Tag.i64.width / 8) (s.wideAcq true 5#3)).1 = .ok (List.replicate 8 0#8) ∧
    (s.x 2#5 + (s.x 3#5 <<< (3#2).toNat)).toNat % (Tag.n8.width / 8) = 0 ∧
    (s.readMem 1#4 (s.x 2#5 + (s.x 3#5 <<< (3#2).toNat)) (Tag.n8.width / 8) (s.wideAcq true 0#3)).1 = .ok [0#8] := by decide +kernel
theorem wit_LoadValues_LoadFaults :
    let s := regs armed [(2, 0x3FFFFFFF), (3, 0x1000001)]
    loadForm s (.ld 1 2 0) (s.x 2#5 + (0#14).signExtend 64) 8 4 1 .i64 false 0 ∧
    loadForm s (.ldX .i16 true 2 1 3 (.imm 0)) (s.x 3#5 + (Src.imm 0).sext) 2 12 1 .i16 true 2 ∧
    loadForm s (.ldIndexed .i16 true 2 1 3 24 1) (s.x 3#5 + (s.x 24#5 <<< (1#2).toNat)) 2 12 1 .i16 true 2 ∧
    s.me.io.lq.length < 64 ∧ s.provisional s.cur = false ∧ s.me.sy.trapLevel ≠ 3 ∧
    (s.xlate (s.agentOf s.cur) { rd := true } (s.x 2#5 + (0#14).signExtend 64) 8).1 =
      .error { va := 0x3FFFFFFF#64, code := 0x04#8, wlev := 2#4 } ∧
    (s.addrD 3#5 (.imm 0)).toNat % (Tag.i16.width / 8) ≠ 0 := by
  refine ⟨⟨rfl, .inl ⟨_, _, rfl, rfl, rfl, rfl, rfl, rfl⟩⟩, ⟨rfl, .inr (.inl ⟨_, _, rfl, rfl, rfl⟩)⟩, ⟨rfl, .inr (.inr ⟨_, _, _, rfl, rfl, rfl⟩)⟩, ?_⟩
  decide +kernel
theorem wit_StoreEntries_StoresQueue :
    let s := ios (regs boot [(2, 0x1000800), (3, 0x100)]) (fun o => { o with sq := List.replicate 63 {} })
    let go (rel : Bool) (va : Word) (w : Nat) : Prop :=
      (rel = true → va.toNat % w = 0 ∧ s.tilesPending = false) ∧ s.me.io.sq.length < 64 ∧
      (s.xlate (s.agentOf s.cur) { w := true } va w).1 = .ok [dataSeg va w] ∧
      (s.xlate (s.agentOf s.cur) { w := true } va w).2.tileBlocks (segLocs [dataSeg va w]) = false ∧
      (s.xlate (s.agentOf s.cur) { w := true } va w).2.owesAt 1 (segLocs [dataSeg va w]) = false ∧
      (s.provisional s.cur = true → (segLocs [dataSeg va w]).all (fun l => !isClm l && !isHost l) = true)
    go false (s.x 2#5 + (1#14).signExtend 64) 8 ∧ go true (s.x 2#5 + (Src.imm 8).sext) (Tag.f64.width / 8) ∧
    go true (s.x 2#5 + (s.x 3#5 <<< (1#2).toNat)) (Tag.i8.width / 8) ∧ storeForm s (.st 1 2 1) (s.x 2#5 + (1#14).signExtend 64) 8 4 1 none ∧
    storeForm s (.stX .f64 true 2 1 2 (.imm 8)) (s.x 2#5 + (Src.imm 8).sext) (Tag.f64.width / 8) 12 1 (some 2#3) ∧
    storeForm s (.stIndexed .i8 true 2 1 2 3 1) (s.x 2#5 + (s.x 3#5 <<< (1#2).toNat)) (Tag.i8.width / 8) 12 1 (some 2#3) := by
  refine ⟨by decide +kernel, by decide +kernel, by decide +kernel, .inl ⟨_, _, rfl, rfl, rfl, rfl, rfl⟩,
    .inr (.inl ⟨_, _, _, _, _, rfl, rfl, rfl, rfl, rfl⟩), .inr (.inr ⟨_, _, _, _, _, _, rfl, rfl, rfl, rfl, rfl⟩)⟩
theorem wit_StoreEntries_RefusedStoreIsRecordedForm (s : State) : storeForm s (.st 1 2 0) (s.x 2#5 + (0#14).signExtend 64) 8 4 1 none :=
  .inl ⟨_, _, rfl, rfl, rfl, rfl, rfl⟩
theorem wit_StoreEntries_RefusedStoreIsRecorded :
    let s := regs boot [(2, 0x3FFFFFFF)]
    let full := ios s (fun o => { o with sfq := List.replicate 8 {} })
    s.me.io.sq.length < 64 ∧
    (s.xlate (s.agentOf s.cur) { w := true } (s.x 2#5 + (0#14).signExtend 64) 8).1 =
      .error { va := 0x3FFFFFFF#64, code := 0x04#8, wlev := 2#4 } ∧ s.me.io.sfq.length < 8 ∧
    full.me.io.sfq.length = 8 ∧ (∀ q ∈ full.me.io.sfq, q.issued ≤ full.me.pl.retired) ∧
    ((s.xlate (s.agentOf s.cur) { w := true } (s.x 2#5 + (0#14).signExtend 64) 8).2).provisional s.cur = false ∧
    ((above.xlate (above.agentOf above.cur) { w := true } 0x3FFFFFFF#64 8).2).provisional above.cur = true ∧
    above.me.pl.pend = none := by decide +kernel
/-- A store of one word in the queue. -/
def stored : State := ios boot (fun o => { o with sq := [{ cells := (locRange 0x1000800 8).zip (leBytes 8 7), vas := locRange 0x1000800 8 }] })
theorem wit_StoreEntries_StorePerformedWrites :
    let e : StoreEnt := { cells := (locRange 0x1000800 8).zip (leBytes 8 7), vas := locRange 0x1000800 8 }
    let go (s : State) : Prop :=
      (Map.get? s.tasks 1).isSome = true ∧ (s.storeParts 1)[0]? = some ⟨0, e.cells, none⟩ ∧ s.storeReady 1 0 e.cells = true ∧
      s.hostBusy (e.cells.map (·.1)) = false ∧ (s.task 1).tid.ord = false ∧ s.quorumOf 1 = none
    (go stored ∧ (stored.task 1).io.sq[0]? = some e ∧ stored.toL1 1 e = true ∧ stored.Calm) ∧ go (mode stored 8) ∧
    (mode stored 1).toL1 1 e = false := by unfold State.Calm State.MemOk State.OneKey State.HeldOneKey; decide +kernel
/-- The bytes of a store in the L1. -/
theorem wit_StoreEntries_LineWrittenBack :
    let q : L1Piece := { owner := 1, ser := 1, cells := (locRange 0x1000800 8).zip (leBytes 8 7) }
    let s := (ios boot (fun o => { o with sq := [{ ser := 1 }] })).onMs (fun m => { m with l1 := [q] })
    s.MemOk ∧ (s.storeParts 1)[0]? = some ⟨0, q.cells, some q⟩ ∧ s.ms.pins = [] ∧ s.ms.reds = [] ∧ s.ms.keyed = [] ∧ q.keys = [] ∧
    s.ms.l1.takeWhile (· != q) = [] := by unfold State.MemOk; decide +kernel
/-- A page of host memory. -/
def hosted (sysatom enabled : Bool) : State :=
  (page (BitVec.ofNat 64 (2 ^ 51 + 0x1B + if sysatom then 2 ^ 62 else 0))).onHub (fun h => { h with atomicReq := enabled })
/-- Its run of n bytes. -/
def hostSeg (sysatom : Bool) (n : Nat) : Seg := { va := 0x1200000#64, at_ := { loc := 2 ^ 51, sysatom := sysatom }, len := n }
/-- An AMO of the tag at `g.va` is granted in s. -/
def granted (s : State) (rel : Bool) (scope : BitVec 3) (g : Seg) : Prop :=
  g.va.toNat % g.len = 0 ∧ s.me.io.lq.length < 64 ∧ (rel = true → s.releaseWaits scope = false) ∧ (s.xlate (s.agentOf s.cur) { rd := true, w := true } g.va g.len).1 = .ok [g] ∧
  (s.xlate (s.agentOf s.cur) { rd := true, w := true } g.va g.len).2.mustWait true (locRange g.at_.loc g.len) = false ∧ s.Calm ∧ s.det = false ∧ s.me.tid.ord = false
/-- What `granted` says is what the statements ask for. -/
theorem amoGranted (s : State) (t : Tag) (rel : Bool) (scope : BitVec 3) (g : Seg) (hg : g.len = t.width / 8)
    (h : granted s rel scope g) :
    AmoGranted s (s.xlate (s.agentOf s.cur) { rd := true, w := true } g.va (t.width / 8)).2 t rel scope g.va g := by
  obtain ⟨a, b, c, d, e, f, i, j⟩ := h
  rw [hg] at a d e
  exact ⟨a, b, c, Prod.ext d rfl, hg, e, f, i, j⟩
/-- An AMO of each width, at every counter's last place, and on host pages. -/
theorem wit_Atomics_AtomicsAtHome :
    (let s := ios (regs boot [(2, 0x1000800), (3, 0xFFFFFFFFFFFFFFFF)]) (fun o => { o with lq := List.replicate 63 {} })
     granted s true 5#3 (dataSeg 0x1000808 (Tag.i64.width / 8)) ∧ granted s false 0#3 (dataSeg 0x1000808 (Tag.n32.width / 8)) ∧
     isHost 0x1000808 = false) ∧
    (granted (hosted true true) false 0#3 (hostSeg true 8) ∧ granted (hosted false false) false 0#3 (hostSeg false 8) ∧
     granted (hosted true false) false 0#3 (hostSeg true 8) ∧ isHost (2 ^ 51) = true) ∧
    Tag.i32.isSigned = true ∧ Tag.n64.isSigned = false := by
  refine ⟨⟨?_, ?_, ?_⟩, ⟨?_, ?_, ?_, ?_⟩, ?_, ?_⟩ <;> (try unfold granted State.Calm State.MemOk State.OneKey State.HeldOneKey) <;> decide +kernel
/-- The old value, 0, against an equal and an unequal comparison value; the other hypotheses are those above. -/
theorem wit_Atomics_CompareAndSwap :
    let s := regs boot [(2, 0x1000800), (3, 5), (4, 0x100000000), (5, 1)]
    oldOf s 0x1000800 .i32 = 0 ∧ (s.x 4#5).toNat % 2 ^ Tag.i32.width = 0 ∧ (s.x 5#5).toNat % 2 ^ Tag.i32.width ≠ 0 ∧
    s.x 2#5 + (Src.imm 0).sext = 0x1000800#64 ∧ granted s false 0#3 (dataSeg 0x1000800 (Tag.i32.width / 8)) := by
  unfold granted State.Calm State.MemOk State.OneKey State.HeldOneKey; decide +kernel
theorem wit_Reductions_ReductionsQueue :
    let s := regs boot [(2, 0x1000800), (3, 5)]
    (s.x 2#5 + (Src.imm 0).sext).toNat % (Tag.f32.width / 8) = 0 ∧ s.tilesPending = false ∧ s.me.io.sq.length < 64 ∧
    s.provisional s.cur = false ∧ s.det = false ∧
    (s.xlate (s.agentOf s.cur) { rd := true, w := true } 0x1000800#64 4).1 = .ok [dataSeg 0x1000800 4] ∧
    (s.xlate (s.agentOf s.cur) { rd := true, w := true } 0x1000800#64 4).2.tileBlocks (segLocs [dataSeg 0x1000800 4]) = false ∧
    (s.xlate (s.agentOf s.cur) { rd := true, w := true } 0x1000800#64 4).2.owesAt 1 (segLocs [dataSeg 0x1000800 4]) = false := by
  decide +kernel
theorem wit_Reductions_AtomicAndReductionTraps :
    let s := regs armed [(2, 0x1000801)]
    s.provisional s.cur = false ∧ s.me.sy.trapLevel ≠ 3 ∧ (s.x 2#5 + (Src.imm 0).sext).toNat % (Tag.i32.width / 8) ≠ 0 ∧
    (s.x 2#5 + (Src.imm 7).sext).toNat % (Tag.f64.width / 8) = 0 ∧ (mode s 1).det = true := by decide +kernel
/-- A RED in the queue, on a page that is cached and on one that is not. -/
def reduced (direct : Bool) : State := ios boot (fun o => { o with sq := [{ op := .red .add .i32 5, kind := 5, width := 4, direct := direct, cells := (locRange 0x1000800 4).zip (leBytes 4 5), vas := locRange 0x1000800 4 }] })
theorem wit_Reductions_ReductionPerformed :
    ∀ b, (∃ e, ((reduced b).task 1).io.sq[0]? = some e ∧ e.op = .red .add .i32 5 ∧ e.tracked = false ∧ e.rel = none ∧ e.cells ≠ [] ∧
      e.direct = b ∧ e.split = false ∧ ((reduced b).storeParts 1)[0]? = some ⟨0, e.cells, none⟩ ∧
      (reduced b).storeReady 1 0 e.cells = true ∧ (reduced b).hostBusy (e.cells.map (·.1)) = false) ∧
      (Map.get? (reduced b).tasks 1).isSome = true ∧ (reduced b).Calm ∧ ((reduced b).task 1).tid.ord = false := by
  intro b
  refine ⟨⟨_, rfl, rfl, rfl, rfl, by cases b <;> decide +kernel, rfl, rfl, ?_⟩, ?_⟩
  · cases b <;> decide +kernel
  · unfold State.Calm State.MemOk State.OneKey State.HeldOneKey; cases b <;> decide +kernel
theorem wit_Reductions_CopyEvictionCombines :
    let c : RedCopy := { loc := 0x1000800, t := .i32, part := 5#64 }
    let s := boot.onMs (fun m => { m with reds := [c] })
    s.MemOk ∧ s.ms.reds[0]? = some c ∧ s.ms.keyed = [] ∧ c.key = none ∧ s.ms.reds.Nodup ∧ ∀ d ∈ s.ms.reds, d = c := by unfold State.MemOk; decide +kernel
/-- A load with nothing left to read, one whose AMO still has to write, and one that may still be performed. -/
theorem wit_LoadValues_LoadReturn :
    let p : LoadPart := { locs := locRange 0x1000800 8 }
    let go (e : LoadEnt) : Prop :=
      let s := ios boot (fun o => { o with lq := [e] })
      s.loadPlaces[0]? = some (1, 0, 0) ∧ (s.task 1).io.lq[0]? = some e ∧ s.MemOk ∧ (Map.get? s.tasks 1).isSome = true
    go {} ∧ go { write := (locRange 0x1000800 8).zip (leBytes 8 7) } ∧
    (go { dst := .x 1#5 .i64, bytes := List.replicate 8 0#8, parts := [p] } ∧ p.idx = 0 ∧
      (ios boot (fun o => { o with lq := [{ parts := [p] }] })).Calm ∧
      (ios boot (fun o => { o with lq := [{ parts := [p] }] })).hostBusy p.locs = false ∧ (boot.task 1).tid.ord = false) := by
  unfold State.Calm State.MemOk State.OneKey State.HeldOneKey; decide +kernel
/-- A load that may take what was read ahead, or bytes that are still to be found (one that is an acquire may not), and a choice that
reads ahead. -/
theorem wit_LoadValues_LoadReturnEarly :
    let p : LoadPart := { locs := locRange 0x1000800 8, early := List.replicate 8 1#8 }
    let e : LoadEnt := { dst := .x 1#5 .i64, bytes := List.replicate 8 0#8, parts := [p] }
    let s := ios boot (fun o => { o with lq := [e] })
    s.loadPlaces[1]? = none ∧ s.earlyPlaces[1 - s.loadPlaces.length]? = some (1, 0, 0) ∧ (s.task 1).io.lq[0]? = some e ∧
    (Map.get? s.tasks 1).isSome = true ∧ p.idx = 0 ∧ e.bytes.length = p.early.length ∧
    s.loadPlaces.length + s.earlyPlaces.length ≤ 2 ∧ p.due = false ∧
    (let p := { p with due := true }
     let go (acq : Bool) : Prop :=
       let s := ios boot (fun o => { o with lq := [{ e with parts := [p], acq := acq }] })
       s.loadPlaces[1]? = none ∧ s.earlyPlaces[1 - s.loadPlaces.length]? = some (1, 0, 0)
     go true ∧ go false) := by decide +kernel

theorem wit_FencesAndSystemForms_FenceAndDrain :
    let s1 := ios armed (fun o => { o with sq := [{}] })
    let s2 := ios armed (fun o => { o with upds := [{}] })
    let s3 := ios armed (fun o => { o with sfq := [{ q2 := 0x20804#64 }] })
    let s4 := boot.onCore 0 (fun c => { c with tileq := [{ owner := 1, what := .load .f32 false [] }] })
    (s1.me.io.sq ≠ [] ∧ s2.me.io.upds ≠ []) ∧
    (s3.me.pl.pend = none ∧ s3.me.io.sq = [] ∧ s3.me.io.upds = [] ∧ s3.me.io.sfq = [{ q2 := 0x20804#64 }]) ∧
    (s4.me.pl.pend = none ∧ s4.me.io.sq = [] ∧ s4.me.io.upds = [] ∧ s4.me.io.sfq = [] ∧ s4.tilesPending = true) ∧
    (boot.me.io.sfq = [] ∧ boot.tilesPending = false ∧ boot.me.io.lq = [] ∧ boot.ms.l1 = [] ∧
      boot.flightsPending (boot.me.pl.core / 80) = false) ∧
    (boot.onMs (fun m => { m with l1 := [{}] })).ms.l1 = [{}] ∧
    (let q : L1Piece := { cells := [(0x1000800, 7#8)] }
     let s (pins : List Pin) := boot.onMs (fun m => { m with l1 := [q], pins := pins })
     (s []).ms.l1 = [q] ∧ q.unit = boot.me.pl.core ∧ (s []).tilesPending = false ∧ (s []).pinnedAway 0 [0x1000800] = false ∧
     (s [{ core := 9, owner := 5, line := 0x1000800 / 512 }]).pinnedAway 0 [0x1000800] = true) ∧
    (let s := boot.onMs (fun m => { m with pins := [{ core := 0, owner := 1, line := 0x1000800 / 512 }] })
     s.ms.pins.any (fun p => p.owner == s.cur) = true ∧ s.tilesPending = false ∧ s.ms.l1 = [] ∧ s.flightsPending (s.me.pl.core / 80) = false) ∧
    doomed.me.pl.pend = some { code := 0x19#8 } := by decide +kernel
/-- Limits at, one below, and above a counter, and the two that bound nothing. -/
theorem wit_FencesAndSystemForms_WaitForCounters :
    let s := ios boot (fun o => { o with lq := List.replicate 64 {}, sq := [{}], tiles := 2, crecs := [{ id := 1#16 }] })
    let within (lim : BitVec 32) (i maximum count : Nat) : Bool :=
      let l := (lim.extractLsb' (8 * i) 8).toNat
      decide (l = 255 ∨ maximum ≤ l ∨ count ≤ l)
    let met (lim : BitVec 32) : Bool := within lim 0 64 s.me.io.lq.length && within lim 1 64 s.me.io.sq.length &&
      within lim 2 32 (s.me.io.crecs.countP (fun r => r.st == .busy)) && within lim 3 32 s.me.io.tiles
    met 0x02010140#32 = true ∧ met 0xFFFFFFFF#32 = true ∧ met 0x0201013F#32 = false ∧ met 0x02010040#32 = false ∧
    met 0x02000140#32 = false ∧ met 0x01010140#32 = false ∧ s.me.pl.pend = none ∧ s.me.io.sfq = [] ∧ s.me.io.upds = [] ∧
    (∀ r ∈ s.me.io.crecs, r.unreported = false) := by decide +kernel
theorem wit_FencesAndSystemForms_SimpleSystemForms : boot.me.pl.pend = none ∧ doomed.me.pl.pend = some { code := 0x19#8 } ∧
    (regs boot [(1, 0x1000000)]).x 1#5 = 0x1000000#64 := by decide +kernel
/-- A helper's delay table with an entry of a sender and with the overflow bucket. -/
def delayed (sender : Nat) : State := boot.onCore 0 (fun c => { c with delay := [(1, [{ sender := sender, count := 3 }])] })
theorem wit_SystemRegisterReads :
    (boot.det = false ∧ (boot.launch boot.me.tid.launch).core = false ∧ boot.delayEntry = none) ∧
    (delayed 80).delayEntry = some { sender := 80, count := 3 } ∧
    (delayed 5120).delayEntry = none ∧ (sys (delayed 5120) (fun y => { y with mdsel := 64#7 })).delayEntry = some { sender := 5120, count := 3 } ∧
    (let s := sys (mode boot 1) (fun y => { y with timeok := true })
     s.det = true ∧ s.me.sy.timeok = true) ∧
    (let s := boot.onLaunch 1 (fun x => { x with core := true })
     (s.launch s.me.tid.launch).core = true ∧ (plc s (fun p => { p with ctx := 0 })).me.pl.ctx = 0) := by decide +kernel
theorem wit_SystemRegisterReads_SystemRegisterReadTraps :
    let s := armed.onLaunch 1 (fun x => { x with core := true })
    (s.provisional s.cur = false ∧ s.me.sy.trapLevel ≠ 3 ∧ (s.launch s.me.tid.launch).core = true ∧ s.me.pl.ctx ≠ 0) ∧
    (mode armed 2).det = true ∧ armed.me.sy.timeok = false ∧ (0x007#12).toNat = 7 ∧ (0xFFF#12).toNat = 0xFFF := by decide +kernel
/-- The last value that mdsel takes, and a status that changes only what software may change. -/
theorem wit_SystemRegisterWrites :
    (let s := regs boot [(1, 64)]
     (s.x 1#5).toNat ≤ 64) ∧
    (let s := regs boot [(1, 0x100C)]
     let v := s.x 1#5
     v.extractLsb' 0 2 = s.me.sy.tl ∧ v.extractLsb' 4 12 = s.statusWord.extractLsb' 4 12 ∧ s.det = false ∧ s.provisional s.cur = false) ∧
    (let v := 0x0000FFFFC0FFFFFF#64
     v.extractLsb' 48 16 = 0#16 ∧ v.extractLsb' 24 6 = 0#6) := by decide +kernel
theorem wit_SystemRegisterWrites_RecordPops : (boot.launch boot.me.tid.launch).core = false ∧ boot.me.pl.ctx = 1 := by decide +kernel
theorem wit_SystemRegisterWrites_SystemRegisterWriteTraps :
    let s := regs armed [(1, 65), (2, 0x0001000000000000), (3, 1), (4, 0x1000)]
    (s.provisional s.cur = false ∧ s.me.sy.trapLevel ≠ 3) ∧ 64 < (s.x 1#5).toNat ∧ (s.x 2#5).extractLsb' 48 16 ≠ 0#16 ∧
    (s.x 3#5).extractLsb' 0 2 ≠ s.me.sy.tl ∧ (s.x 24#5).extractLsb' 4 12 ≠ s.statusWord.extractLsb' 4 12 ∧
    (0x1C1#12).toNat = 0x1C1 := by decide +kernel
theorem wit_SystemRegisterWrites_TimeokWaives :
    let s := regs (mode boot 1) [(1, 0x1008)]
    s.det = true ∧ s.provisional s.cur = false ∧ (s.x 1#5).extractLsb' 0 2 = s.me.sy.tl ∧
    (s.x 1#5).extractLsb' 4 12 = s.statusWord.extractLsb' 4 12 ∧ (s.x 1#5).getLsbD 3 = true ∧
    Map.get? s.launches s.me.tid.launch = some { bootLaunch with mode := 1 } := by decide +kernel
theorem wit_CounterCapture :
    (boot.det = false ∧ boot.provisional boot.cur = false) ∧
    (let s := mode armed 1
     s.det = true ∧ s.me.sy.timeok = false ∧ s.provisional s.cur = false ∧ s.me.sy.trapLevel ≠ 3) ∧
    (let s := regs boot [(1, 0x1000840)]
     (s.perfWords.1 = [0#64, 4#64, 0#64, 0#64, 0#64, 0#64, 0#64, 0#64] ∧ s.me.io.perf.active = false) ∧ (s.x 1#5).toNat % 64 = 0 ∧
     s.me.io.sq.length ≤ 56 ∧ (s.perfWords.2.storeWords (s.x 1#5) s.perfWords.1).1 = .ok ()) ∧
    (let s := ios boot (fun o => { o with perf := { active := true, group := 2 } })
     s.me.io.perf.active = true ∧ 2 ≤ s.me.io.perf.group.toNat) := by decide +kernel

/-- Vector registers 2, 3 and 4 of one tag. -/
def vecs (t : Tag) : State := rfs armed (fun r => { r with v := [(2, 5#1024), (3, 6#1024), (4, 7#1024)], vt := [(2, t), (3, t), (4, t)], m := [(1, 1#32)] })
/-- A channel of the core that holds one entry. -/
def headed (q : Nat) (t : Tag) : State := (vecs t).onCore 0 (fun c => { c with chans := [(q, [{ val := 9#1024, tag := t }])] })

/-- A register and a channel head as sources, and the three ways to meet a masked write. -/
theorem wit_VectorInteger :
    ((vecs .i8).vsrc 2#5 = some (5#1024, .i8) ∧ (vecs .i8).vsrc 3#5 = some (6#1024, .i8)) ∧
    (headed 3 .n64).vsrc 31#5 = some (9#1024, .n64) ∧
    maskedOk (vecs .i8) 9#5 .i8 0#3 ∧ maskedOk (vecs .i8) 2#5 .i8 1#3 ∧ maskedOk (vecs .i8) 9#5 .i8 7#3 := by
  unfold maskedOk; decide +kernel
theorem wit_VectorFloatingPoint :
    (vecs .bf16).vsrc 2#5 = some (5#1024, .bf16) ∧ (vecs .bf16).vsrc 3#5 = some (6#1024, .bf16) ∧
    (vecs .bf16).vsrc 4#5 = some (7#1024, .bf16) ∧ maskedOk (vecs .bf16) 9#5 .bf16 1#3 := by unfold maskedOk; decide +kernel
theorem wit_VectorMoves :
    (maskedOk (vecs .n32) 9#5 .f32 1#3 ∧ (vecs .n32).vsrc 2#5 = some (5#1024, .n32) ∧ Tag.n32 ≠ .empty ∧ Tag.n32.width = Tag.f32.width) ∧
    ((vecs .bits).vsrc 2#5 = some (5#1024, .bits) ∧ Tag.bits.width ≠ Tag.i8.width) ∧
    (Tag.n32.isUnsigned = true ∧ Tag.i64.isSigned = true ∧ (vecs .n32).vsrc 3#5 = some (6#1024, .n32)) ∧
    ((0 : Int) + (0x80000000#32).toInt < 0 ∧ (0 : Int) + (31#32).toInt < Tag.n32.elems ∧ ¬ (0 : Int) + (32#32).toInt < Tag.n32.elems) := by
  unfold maskedOk; decide +kernel
theorem wit_VectorMasks :
    (vecs .n64).vsrc 2#5 = some (5#1024, .n64) ∧ (vecs .n64).vsrc 3#5 = some (6#1024, .n64) ∧ Tag.n64.isFp = false ∧
    (vecs .f32).vsrc 2#5 = some (5#1024, .f32) ∧ Tag.f32.isFp = true ∧ Tag.f32.width = 32 ∧ Tag.n64.width = 64 := by decide +kernel
theorem wit_VectorReductionsAndConversion_VectorReductions :
    ((vecs .f64).vsrc 2#5 = some (5#1024, .f64) ∧ Tag.f64.width = 64 ∧ Tag.f64.isFp = true) ∧
    ((vecs .i32).vsrc 2#5 = some (5#1024, .i32) ∧ Tag.i32.width = 32 ∧ Tag.i32.isFp = false ∧
      active ((vecs .i32).me.mask 1) 32 0 = true ∧ 0 < Tag.i32.elems) := by decide +kernel
/-- Equal widths, widening in its last part and narrowing in its last part. -/
theorem wit_VectorReductionsAndConversion_VectorConversion :
    (vecs .i8).vsrc 2#5 = some (5#1024, .i8) ∧ Tag.i8.width = Tag.e4m3.width ∧
    (Tag.i8.width < Tag.f64.width ∧ (7#3).toNat < Tag.f64.width / Tag.i8.width) ∧
    ((vecs .f64).vsrc 2#5 = some (5#1024, .f64) ∧ Tag.i8.width < Tag.f64.width ∧ (7#3).toNat < Tag.f64.width / Tag.i8.width ∧
      (vecs .f64).me.vtag 9 = .empty) ∧ maskedOk (vecs .i8) 9#5 .f64 1#3 := by unfold maskedOk; decide +kernel
/-- A source of each operand code with a tag that is not admitted, an empty channel, and destinations that a masked or a narrowing write
does not admit. -/
theorem wit_VectorSources :
    (vecSources (.vffma 0 .f32 false 0 9 2 3 4)).map (fun q => (q.op, q.r)) = [(1, 2), (2, 3), (3, 4)] ∧
    (vecSources (.vscat .i8 false 0 0 3 1 2 (.imm 0) 0)).map (fun q => (q.op, q.r)) = [(2, 2), (5, 3)] ∧
    (let admits (i : Instr) (s : State) : List (Option Bool) := (vecSources i).map (fun q => (s.vsrc q.r).map (fun x => q.ok x.2))
     let mixed : State := rfs (vecs .f32) (fun r => { r with vt := [(2, .f32), (3, .f32), (4, .f64)] })
     admits (.vadd .i16 false 0 9 2 3) (vecs .i8) = [some false, some false] ∧ admits (.vffma 0 .f32 false 0 9 2 3 4) mixed = [some true, some true, some false] ∧
     admits (.vffma 0 .f32 false 0 9 2 4 3) mixed = [some true, some false, some true] ∧ admits (.vst .f64 false 0 0 2 1 (.imm 0)) (vecs .f32) = [some false] ∧
     admits (.vadd .i8 false 0 9 2 31) (vecs .i8) = [some true, none] ∧ admits (.vcvt .i8 0 0 9 2 7 false) (vecs .f64) = [some true]) ∧
    (vecs .i8).provisional (vecs .i8).cur = false ∧ (vecs .i8).me.sy.trapLevel ≠ 3 ∧
    (vecDest (.vadd .i16 false 1 3 2 2) = some (3, .i16, 1) ∧ ¬ maskedOk (vecs .i8) 3#5 .i16 1#3) ∧
    (Tag.i8.width < Tag.f64.width ∧ (vecs .f64).me.vtag 3 = .f64 ∧ Tag.f64 ≠ .i8 ∧ Tag.f64 ≠ .empty) ∧
    ((31#5).toNat = 28 + 3 ∧ Map.get [] (boot.coreSt 0).chans 3 = []) ∧
    ((28#5).toNat = 28 + 0 ∧ Map.get [] ((headed 0 .i8).coreSt 0).chans 0 = [{ val := 9#1024, tag := .i8 }]) ∧ (27#5).toNat < 28 := by
  unfold maskedOk; decide +kernel
/-- The three forms of a vector load, with the last element at the end of the page for vld and one active element for the others. -/
theorem wit_VectorMemory_VectorLoads :
    let s := ios (regs (vecs .n32) [(2, 0x11FFF80), (3, 0xFFFFFFFFFFFFFFFC), (4, 0x1000800)]) (fun o => { o with lq := List.replicate 63 {} })
    let on (k : BitVec 3) := fun j => active (s.me.mask k) 32 j
    let go (k : BitVec 3) (va : Nat → Word) : Prop :=
      let f := s.vaddrs { rd := true } 8#4 4 (((List.range 32).filter (on k)).map (fun j => (j, va j)))
      f.2.1 = none ∧ f.2.2.mustWait false (f.1.flatMap (fun e => segLocs e.gs)) = false ∧ f.1.map (·.j) = (List.range 32).filter (on k)
    (maskedOk s 9#5 .f32 1#3 ∧ s.me.io.lq.length < 64 ∧ s.Calm ∧ s.det = false ∧ s.me.tid.ord = false) ∧
    go 0#3 (fun j => s.x 2#5 + (Src.imm 0).sext + BitVec.ofNat 64 (j * (32 / 8))) ∧
    go 1#3 (fun j => s.x 4#5 + (Src.imm 0).sext + BitVec.ofNat 64 j * s.x 3#5) ∧
    (s.vsrc 2#5 = some (5#1024, .n32) ∧ Tag.n32.isUnsigned = true ∧
      go 1#3 (fun j => s.x 4#5 + (Src.imm 0).sext + (((velem 5#1024 .n32 j).setWidth 64) <<< (3#2).toNat))) := by
  unfold maskedOk State.Calm State.MemOk State.OneKey State.HeldOneKey; decide +kernel
theorem wit_VectorMemory_VectorStores :
    let s := ios (regs (vecs .n32) [(2, 0x11FFF80), (3, 0xFFFFFFFFFFFFFFFC), (4, 0x1000800)]) (fun o => { o with sq := List.replicate 63 {} })
    let on (k : BitVec 3) := fun j => active (s.me.mask k) 32 j
    let go (k : BitVec 3) (va : Nat → Word) : Prop :=
      let f := s.vaddrs { w := true } 9#4 4 (((List.range 32).filter (on k)).map (fun j => (j, va j)))
      f.2.1 = none ∧ f.2.2.tileBlocks (f.1.flatMap (fun e => segLocs e.gs)) = false ∧ f.2.2.owesAt f.2.2.cur (f.1.flatMap (fun e => segLocs e.gs)) = false
    (s.vsrc 3#5 = some (6#1024, .n32) ∧ s.me.io.sq.length < 64 ∧ s.tilesPending = false ∧ s.provisional s.cur = false) ∧
    go 0#3 (fun j => s.x 2#5 + (Src.imm 0).sext + BitVec.ofNat 64 (j * (32 / 8))) ∧
    go 1#3 (fun j => s.x 4#5 + (Src.imm 0).sext + BitVec.ofNat 64 j * s.x 3#5) ∧
    (s.vsrc 2#5 = some (5#1024, .n32) ∧ Tag.n32.isUnsigned = true ∧
      go 1#3 (fun j => s.x 4#5 + (Src.imm 0).sext + (((velem 5#1024 .n32 j).setWidth 64) <<< (3#2).toNat))) := by decide +kernel

/-- An access whose first element faults, one whose second does, each by alignment and by a page that is not there. -/
theorem wit_VectorMemory_VectorFaults :
    let s := regs (rfs (vecs .n32) (fun r => { r with m := [(1, 3#32)] })) [(2, 0x11FFFFC), (3, 0x1000801), (4, 4)]
    let f (need : Need) (kind : BitVec 4) (va : Nat → Word) : List VElem × Option TrapInfo × State := s.vaddrs need kind 4
      (((List.range 32).filter (fun j => active (s.me.mask 1#3) 32 j)).map (fun j => (j, va j)))
    let unit (a : BitVec 5) (j : Nat) : Word := s.x a + (Src.imm 0).sext + BitVec.ofNat 64 (j * (32 / 8))
    let strided (j : Nat) : Word := s.x 2#5 + (Src.imm 0).sext + BitVec.ofNat 64 j * s.x 4#5
    (s.provisional s.cur = false ∧ s.me.sy.trapLevel ≠ 3 ∧ maskedOk s 9#5 .f32 1#3 ∧ s.me.io.lq.length < 64 ∧ s.Calm ∧ s.det = false ∧
      s.me.tid.ord = false ∧ s.me.io.sq.length < 64 ∧ s.tilesPending = false ∧ s.me.io.sfq.length < 8) ∧
    ((f { rd := true } 8#4 (unit 2#5)).2.1 = some { code := 0x04#8, tval := 0x1200000#64, kind := 8#4, wlev := 2#4, detail := 1#8 } ∧
      (f { rd := true } 8#4 (unit 2#5)).1.map (·.j) = [0] ∧
      (f { rd := true } 8#4 (unit 2#5)).2.2.mustWait false ((f { rd := true } 8#4 (unit 2#5)).1.flatMap (fun e => segLocs e.gs)) = false) ∧
    ((f { rd := true } 8#4 (unit 3#5)).2.1 = some { code := 0x07#8, tval := 0x1000801#64, kind := 8#4 } ∧ (f { rd := true } 8#4 (unit 3#5)).1 = []) ∧
    ((f { w := true } 9#4 strided).2.1 = some { code := 0x04#8, tval := 0x1200000#64, kind := 9#4, wlev := 2#4, detail := 1#8 } ∧
      (f { w := true } 9#4 strided).2.2.tileBlocks ((f { w := true } 9#4 strided).1.flatMap (fun e => segLocs e.gs)) = false ∧
      (f { w := true } 9#4 strided).2.2.owesAt 1 ((f { w := true } 9#4 strided).1.flatMap (fun e => segLocs e.gs)) = false) := by
  refine ⟨⟨?_, ?_, ?_, ?_, ?_, ?_, ?_, ?_, ?_, ?_⟩, ?_, ?_, ?_⟩ <;> (try unfold maskedOk) <;>
    (try unfold State.Calm State.MemOk State.OneKey State.HeldOneKey) <;> decide +kernel
/-- A page table entry that is poisoned refuses a vector store's translation with MCHK. -/
theorem wit_VectorMemory_VectorFaultsPoison :
    let s := (regs (vecs .n32) [(2, 0x1000800)]).onMs (fun m => { m with poison := [(0x201040 / 4, 1)] })
    (s.vaddrs { w := true } 9#4 4 [(0, s.x 2#5)]).2.1.map (fun x => (x.code, x.tval, x.kind, x.detail)) =
      some (0x1C#8, 0x100000000#64, 9#4, 1#8) ∧
    (s.vaddrs { w := true } 9#4 4 [(0, s.x 2#5)]).1 = [] := by decide +kernel

/-- Handle register `h` holds `v`. -/
def handle (s : State) (h : Nat) (v : Word) : State := rfs s (fun r => { r with h := Map.set r.h h v })
/-- A LIVE Onyx handle of a tag, of `bc` columns and `br` rows of blocks at slot `b`. -/
def onyx (t : Tag) (bc br b : Nat) : Word := mkHandle 1 true t false false 0 0 bc bc br b
/-- Three tiles of one block each, of one tag, in registers 1, 2 and 3, in a cluster that holds their slots. -/
def tiled (t c : Tag) : State :=
  (handle (handle (handle armed 1 (onyx t 1 1 0)) 2 (onyx t 1 1 1)) 3 (onyx c 1 1 2)).onCluster 0
    (fun x => { x with slots := [(0, 1), (1, 1), (2, 1)] })

theorem ready_armed : armed.MatrixReady := by unfold State.MatrixReady; decide +kernel
/-- The first base and the last, and a cluster without a free run. -/
theorem wit_TileClaimAndHandles_TileClaim :
    (armed.MatrixReady ∧ armed.MemOk ∧ armed.roomIn 4#4) ∧
    (let s := tiled .f32 .f32
     (∀ i, i < 2 → Map.get? (s.cluster 0).slots (3 + i) = none) ∧ (∀ b, b < 3 → ¬ ∀ i, i < 2 → Map.get? (s.cluster 0).slots (b + i) = none)) ∧
    (let s := armed.onCluster 0 (fun x => { x with slots := (List.range 8).map (fun k => (64 * k + 63, 9)) })
     s.MatrixReady ∧ s.me.sy.trapLevel ≠ 3 ∧ ∀ b, b + 64 ≤ 512 → ¬ ∀ i, i < 64 → Map.get? (s.cluster 0).slots (b + i) = none) := by
  refine ⟨⟨ready_armed, by unfold State.MemOk; decide +kernel, by unfold State.roomIn; decide +kernel⟩, by decide +kernel, ?_⟩
  refine ⟨by unfold State.MatrixReady; decide +kernel, by decide +kernel, fun b hb h => ?_⟩
  have hk : ∀ k, k < 8 → Map.get? ((armed.onCluster 0 (fun x => { x with slots := (List.range 8).map (fun k => (64 * k + 63, 9)) })).cluster 0).slots
      (64 * k + 63) ≠ none := by decide +kernel
  have hb' := h (64 * ((b + 0) / 64) + 63 - b) (by omega)
  rw [show b + (64 * ((b + 0) / 64) + 63 - b) = 64 * (b / 64) + 63 by omega] at hb'
  exact hk (b / 64) (by omega) hb'
theorem wit_TileClaimAndHandles_HandleMoves :
    let s := tiled .f32 .f32
    (s.MatrixReady ∧ s.onyxIn 1#4 ∧ hLk (s.me.hreg 1#4) = false ∧ s.slotsBusy 0 (hSlots (s.me.hreg 1#4)) = false) ∧
    (s.liveIn 1#4 ∧ s.roomIn 0#4) ∧ hOnyx (s.me.hreg 1#4) = true ∧
    (let r := (handle s 4 (mkHandle 1 false .f32 false false 0 0 1 1 1 5)).onCluster 0 (fun x => { x with refs := [(5, 1023)] })
     r.MatrixReady ∧ r.liveIn 4#4 ∧ r.roomIn 0#4 ∧ hLk (r.me.hreg 4#4) = false ∧ Map.get 1 (r.cluster 0).refs (hBase (r.me.hreg 4#4)) < 1024) ∧
    (s.det = false ∧ (mode s 1).det = true ∧ hSt ((mode s 1).me.hreg 1#4) ≠ 2) := by
  unfold State.MatrixReady State.onyxIn State.liveIn State.roomIn; decide +kernel
/-- A second context on core 0 and one on core 8, which is in another cluster of the same partition. -/
def peers : State :=
  let s := (tiled .f32 .f32).onLaunch 1 (fun x => { x with cores := [0, 8] })
  let s := s.onVf 1 (fun v => { v with part := some { bootPart with clusters := [0, 1], perm := [3, 3] } })
  regs { s with tasks := Map.set (Map.set s.tasks 2 { bootTask with pl := { core := 0, ctx := 2, life := .resident } }) 3 { bootTask with pl := { core := 8, ctx := 10, life := .resident } } }
    [(1, 0), (2, 8)]
theorem wit_HandleSendAndSplit_HandleSend :
    (peers.MatrixReady ∧ peers.liveIn 1#4) ∧
    (peers.placeOk (peers.x 1#5) = true ∧ peers.holderOf (peers.x 1#5).toNat 1 = some peers.cur ∧ peers.roomIn 15#4) ∧
    (peers.holderOf (peers.x 1#5).toNat 2 = some 2 ∧ 2 ≠ peers.cur ∧
      hSt ((peers.task 2).hreg 15#4) = 0 ∧ clusterOf (peers.x 1#5).toNat = clusterOf peers.me.pl.core) ∧
    peers.me.pl.pend = none ∧ (plc peers (fun p => { p with pend := some { code := 0x19#8 } })).me.pl.pend = some { code := 0x19#8 } ∧
    (peers.me.io.sq = [] ∧ peers.me.io.lq = [] ∧ peers.ms.flights = [] ∧ peers.ms.l1 = []) ∧
    (peers.placeOk (peers.x 2#5) = true ∧ peers.holderOf (peers.x 2#5).toNat 10 = some 3 ∧
      hSt ((peers.task 3).hreg 0#4) = 0 ∧ clusterOf (peers.x 2#5).toNat ≠ clusterOf peers.me.pl.core ∧
      hLk (peers.me.hreg 1#4) = false ∧ (peers.cluster 0).copyq.length < 128 ∧
      firstFit (peers.cluster 1).slots (hBr (peers.me.hreg 1#4) * hBc (peers.me.hreg 1#4)) = some 0) := by
  unfold State.MatrixReady State.liveIn State.roomIn; decide +kernel
theorem wit_HandleSendAndSplit_SplitAndRejoin :
    (let s := handle armed 1 (onyx .f32 8 8 0)
     s.MatrixReady ∧ s.onyxIn 1#4 ∧ s.roomIn 2#4 ∧ 1#4 ≠ 2#4 ∧ (7#3).toNat < hBc (s.me.hreg 1#4) ∧ (7#3).toNat < hBr (s.me.hreg 1#4) ∧
       Map.get? (s.cluster 0).lineage 0 = none) ∧
    (let e : Lineage := { parent := onyx .f32 8 8 0, axis := true, cut := 7#3, launch := 1 }
     let s := (handle (handle armed 1 (mkHandle 1 true .f32 true false 5 0 8 7 8 0)) 2 (mkHandle 1 true .f32 true true 5 0 8 1 8 7)).onCluster 0
       (fun x => { x with lineage := [(5, e)] })
     let p := s.me.hreg 1#4
     let q := s.me.hreg 2#4
     s.MatrixReady ∧ s.onyxIn 1#4 ∧ s.onyxIn 2#4 ∧ s.me.pl.reserve = none ∧ s.roomIn 3#4 ∧ hLk p = true ∧ hLk q = true ∧
       hLin p = hLin q ∧ hSide p = false ∧ hSide q = true ∧ hTag p = hTag q ∧ Map.get? (s.cluster 0).lineage (hLin p) = some e ∧
       e.launch = s.me.tid.launch) := by
  unfold State.MatrixReady State.onyxIn State.roomIn; decide +kernel
theorem wit_TileAcceptance :
    ((tiled .i8 .bits).MatrixReady ∧ (tiled .i8 .bits).liveIn 1#4 ∧ (tiled .i8 .bits).liveIn 2#4 ∧ (tiled .i8 .bits).onyxIn 3#4 ∧
      mmaTags .i8 .i8 .bits = none ∧ hTag ((tiled .i8 .bits).me.hreg 3#4) = .bits ∧ hSteps ((tiled .i8 .bits).me.hreg 3#4) + 1 ≤ 2 ^ 20) ∧
    ((tiled .f32 .f32).onyxIn 3#4 ∧ mmaTags .f32 .f32 .f32 = none ∧ (hTag ((tiled .f32 .f32).me.hreg 1#4)).isFp = true) ∧
    (let s := rfs (tiled .bits .f32) (fun r => { r with k := (List.range 16).map (fun i => (i, 0x3F800000#32)) })
     s.MatrixReady ∧ s.liveIn 1#4 ∧ s.onyxIn 3#4 ∧ hTag (s.me.hreg 1#4) = .bits ∧ resTarget .f16 = true ∧ (15#4).toNat + 1 ≤ 16 ∧
       (∀ k, badScale (s.me.kreg k) = false)) ∧
    (let s := regs (tiled .n8 .i8) [(2, 0x1000800)]
     let f (nd : Need) := s.xlateBlocks nd (imageBlocks 0x1000800 (1 * 128 * 8) 8 1 1)
     s.MatrixReady ∧ s.onyxIn 3#4 ∧ s.liveIn 3#4 ∧ (s.x 2#5 + (0#32).signExtend 64).toNat % 512 = 0 ∧ s.det = false ∧ s.me.tid.ord = false ∧
       (f { rd := true }).1 = .ok [dataSeg 0x1000800 1024] ∧ (f { rd := true }).2.imageWaits (locRange 0x1000800 1024) = false ∧
       s.releaseWaits 1#3 = false ∧ (f { w := true }).1 = .ok [dataSeg 0x1000800 1024] ∧
       (f { w := true }).2.imageWaits (locRange 0x1000800 1024) = false ∧ hTag (s.me.hreg 3#4) = .i8) := by
  unfold State.MatrixReady State.onyxIn State.liveIn; decide +kernel
theorem wit_TileAcceptanceCalm : (regs (tiled .n8 .i8) [(2, 0x1000800)]).Calm := by
  unfold State.Calm State.MemOk State.OneKey State.HeldOneKey; decide +kernel
/-- A core's queue with one entry of each kind. -/
def queued (what : TileKind) : State := (tiled .f32 .f32).onCore 0 (fun c => { c with tileq := [{ owner := 1, what := what, dst := onyx .f32 1 1 2 }] })
theorem wit_TileCompletion :
    ((queued .zero).coreSt 0).tileq = [{ owner := 1, what := .zero, dst := onyx .f32 1 1 2 }] ∧
    (Map.get? (queued .zero).tasks 1).isSome = true ∧ (queued .zero).ms.poison = [] ∧
    ((queued (.mma (onyx .f32 1 1 0) (onyx .f32 1 1 1))).coreSt 0).tileq.head? =
      some { owner := 1, what := .mma (onyx .f32 1 1 0) (onyx .f32 1 1 1), dst := onyx .f32 1 1 2 } ∧
    hTag (onyx .f32 1 1 0) ≠ .bits ∧ (queued (.load .f32 false (locRange 0x1000800 4096))).ms.reds = [] ∧
    hTag (onyx .bits 1 1 0) = .bits ∧ Tag.i8 ≠ .bits := by decide +kernel
/-- A load of INT4 elements and a store, in a calm memory system. -/
theorem wit_TileCompletionMemory :
    (queued (.load .i8 true (locRange 0x1000800 512))).Calm ∧ (queued (.store (locRange 0x1000800 4096) (locRange 0x1000800 4096) [] [] .f32)).Calm ∧
    (let s := queued (.store (locRange 0x1000800 4096) (locRange 0x1000800 4096) [] [] .f32)
     (s.task 1).tid.ord = false ∧ dmodeOf (s.launchOf 1).mode = 0 ∧ s.quorumOf 1 = none ∧ (s.task 1).pl.saved = false) := by
  refine ⟨?_, ?_, ?_⟩ <;> (try unfold State.Calm State.MemOk State.OneKey State.HeldOneKey) <;> decide +kernel
/-- A store that has been made and waits for its release, with a write of its die on its way and without. -/
theorem wit_TileCompletionReleases :
    let o : TileOp := { owner := 1, what := .store [] [] [] [] .f32, dst := onyx .f32 1 1 2, rel := some 4#3, wrote := true }
    let s (fs : List Flight) := ((tiled .f32 .f32).onCore 0 (fun c => { c with tileq := [o] })).onMs (fun m => { m with flights := fs })
    ((s []).coreSt 0).tileq = [o] ∧ (Map.get? (s []).tasks 1).isSome = true ∧ (s []).ms.poison = [] ∧ 3 ≤ (4#3).toNat ∧
    (s []).flightsPending 0 = false ∧ (s [{ die := 1, src := 0 }]).flightsPending 0 = true := by decide +kernel
theorem wit_TileCompletion_TileElementsHold : boot.MemOk ∧
    (let h := onyx .i8 2 1 510
     ([List.replicate 1024 255, List.replicate 1024 0]).length = (hSlots h).length ∧ (hSlots h).Nodup ∧
     ∀ es ∈ [List.replicate 1024 255, List.replicate 1024 0], es.length = 1024 ∧ ∀ e ∈ es, e < 2 ^ tileWidth (hTag h)) := by
  unfold State.MemOk; decide +kernel
theorem wit_TileAcceptance_TileOrderAndStates :
    (let o : TileOp := { owner := 1, what := .zero, dst := onyx .f32 1 1 2 }
     let s := armed.onCore 0 (fun c => { c with tileq := [o, o] })
     (s.coreSt 0).tileq[1]? = some o ∧ o ∈ (s.coreSt 0).tileq.take 1 ∧ o.names.any (fun x => o.names.any (hOverlap x)) = true) ∧
    ((handle armed 1 (hWithSt (onyx .f32 1 1 0) 2)).MatrixReady ∧ hSt ((handle armed 1 (hWithSt (onyx .f32 1 1 0) 2)).me.hreg 1#4) = 2) ∧
    ((handle armed 1 0xC000000000000000).MatrixReady ∧ (handle armed 1 0xC000000000000000).me.sy.trapLevel ≠ 3 ∧
      hSt ((handle armed 1 0xC000000000000000).me.hreg 2#4) ≠ 2 ∧ hSt ((handle armed 1 0xC000000000000000).me.hreg 1#4) = 3) ∧
    hSt (armed.me.hreg 1#4) = 0 ∧
    (let s := handle (tiled .f32 .f32) 4 (hWithSt (onyx .f32 1 1 3) 2)
     s.MatrixReady ∧ s.me.sy.trapLevel ≠ 3 ∧ hSt (s.me.hreg 1#4) = 1 ∧ hSt (s.me.hreg 2#4) = 1 ∧ hSt (s.me.hreg 4#4) = 2 ∧
       s.commandHolds s.cur 4 = false) := by unfold State.MatrixReady; decide +kernel

/-- A DONE copy record and a BUSY one with a promise. -/
def copies (st : CopyState) : State := ios armed (fun o => { o with cc := 1#16, crecs := [{ id := 1#16, st := st, promise := some 100#64 }] })
def at_ (s : State) (t : Word) : State := { s with dtime := t }

theorem wit_CopyCommandsAccepted :
    let s := regs (tiled .f32 .f32) [(1, 0x1000800), (2, 0x1000000), (3, 0xFFFFFFFF), (4, 0x1001000), (5, 0x1000A00)]
    (s.CopyReady true true 1#3 ∧ s.pathOf (s.x 1#5) = some 210 ∧ s.pathOf (s.x 2#5) = some 210 ∧ 0 < (s.x 3#5).toNat ∧ (s.x 3#5).toNat < 2 ^ 32) ∧
    (s.ms.poison = [] ∧ s.onyxIn 1#4 ∧ s.liveIn 1#4 ∧ hTag (s.me.hreg 1#4) ≠ .empty ∧ (s.x 5#5).toNat % 512 = 0 ∧ s.pathOf (s.x 5#5) = some 210) ∧
    (let words : List Byte := [16, 0x1000001, 32, 32, 0, 0].flatMap (leBytes 8)
     let r := { s with mem := memPut s.mem ((locRange 0x1001000 48).zip words) }
     r.Calm ∧ r.det = false ∧ r.me.tid.ord = false ∧ (r.x 4#5).toNat % 8 = 0 ∧ (r.readRun 1#4 (r.x 4#5) 48).1 = .ok (words, [dataSeg 0x1001000 48]) ∧
     (r.readRun 1#4 (r.x 4#5) 48).2.takeEarly r.me.io.early (words, [dataSeg 0x1001000 48]) = words ∧
     leNat ((words.drop 0).take 8) = 16 ∧ leNat ((words.drop 8).take 8) % 2 ^ 24 = 1 ∧ leNat ((words.drop 8).take 8) / 2 ^ 24 = 1) := by
  refine ⟨?_, ?_, ?_, ?_, ?_, ?_, ?_, ?_, ?_⟩ <;> (try unfold State.CopyReady) <;> (try unfold State.onyxIn State.liveIn) <;>
    (try unfold State.Calm State.MemOk State.OneKey State.HeldOneKey) <;> decide +kernel
theorem wit_CopyCommandsAccepted_UnsealAccepted :
    let s := regs armed [(1, 0x1000800), (2, 0x1000000), (3, 0x000000010001000F)]
    let x := (s.x 3#5).toNat
    (x % 16 ≠ 0 ∧ x / 16 % 2 ^ 12 = 0 ∧ x / 2 ^ 16 % 2 ^ 16 ≠ 0 ∧ (s.x 1#5).toNat % 128 = 0 ∧ (s.x 2#5).toNat % 64 = 0) ∧
    (let r := s.onVf 1 (fun v => { v with keys := [(15, (7#256, 1#64))] })
     r.CopyReady false false 0#3 ∧ Map.get? (r.vf r.me.tid.vf).keys 15 = some (7#256, 1#64) ∧ r.pathOf (r.x 2#5) = some 210 ∧
     r.pathOf (r.x 1#5) = some 210) ∧
    (let r := (regs (tiled .f32 .f32) [(2, 0x1000000), (3, 0x000000010001000F)]).onVf 1 (fun v => { v with keys := [(15, (7#256, 1#64))] })
     let v := r.me.hreg 1#4
     r.CopyReady true false 0#3 ∧ Map.get? (r.vf r.me.tid.vf).keys 15 = some (7#256, 1#64) ∧ r.pathOf (r.x 2#5) = some 210 ∧ r.onyxIn 1#4 ∧
     r.ms.poison = [] ∧ hBr v * hBc v * (128 * tileWidth (hTag v)) = (r.x 3#5).toNat / 2 ^ 16 % 2 ^ 16 * 4096) ∧
    (Map.get? (s.vf s.me.tid.vf).keys 15 = none ∧ s.provisional s.cur = false ∧ s.me.sy.trapLevel ≠ 3) := by
  unfold State.CopyReady State.onyxIn; decide +kernel
/-- A command DONE, BUSY one cycle before and at its promise plus slack, and an identifier without a record. -/
theorem wit_CopyWaits :
    (let s := regs (copies .done) [(1, 1)]
     s.me.io.copyRec (s.x 1#5) = some { id := 1#16, st := .done, promise := some 100#64 } ∧
     (∀ q ∈ s.me.io.crecs, q.id = 1#16 → q = { id := 1#16, st := .done, promise := some 100#64 }) ∧ s.me.pl.pend = none ∧ s.det = false) ∧
    (let s := regs (at_ (copies .busy) 109) [(1, 1)]
     s.me.io.copyRec (s.x 1#5) = some { id := 1#16, st := .busy, promise := some 100#64 } ∧ s.dtime.toNat < (100#64).toNat + (10#32).toNat) ∧
    (let s := regs (at_ (copies .busy) 110) [(1, 1)]
     s.det = false ∧ (100#64).toNat + (10#32).toNat ≤ s.dtime.toNat ∧ s.me.pl.pend = none ∧ s.provisional s.cur = false ∧
     s.me.sy.trapLevel ≠ 3) ∧
    (let s := regs (ios armed (fun o => { o with crecs := [{ id := 1#16 }] })) [(1, 1)]
     s.me.io.copyRec (s.x 1#5) = some { id := 1#16 } ∧ ({ id := 1#16 } : CopyRec).st = .busy ∧ ({ id := 1#16 } : CopyRec).promise = none) ∧
    (armed.me.io.copyRec (armed.x 1#5) = none) ∧ doomed.me.pl.pend = some { code := 0x19#8 } := by decide +kernel
/-- A fill of one beat and a byte: its first beat, its last, and one whose destination is refused. -/
def filling (pos : Nat) (dst : Word) : CopyCmd :=
  { owner := 1, ctx := 1, launch := 1, vf := 1, id := 1#16, what := .fill dst 0x0102030405060708#64 513, size := 513, pos := pos }
def filled (q : CopyCmd) : State := (copies .busy).onCluster 0 (fun c => { c with copyq := [q] })
/-- What `PlainCopy` says of a command at the head of cluster 0's queue but for the task itself. -/
def plainFor (s : State) (q : CopyCmd) : Prop :=
  ((s.cluster 0).copyq = [q] ∧ q.pos < q.total ∧ (Map.get? s.tasks q.owner).isSome = true) ∧ s.Calm ∧ q.track = false ∧
  (q.rel = false ∨ q.scope.toNat < 3) ∧ s.quorumOf q.owner = none ∧ q.dead = false ∧ q.core / 8 = 0 ∧ (s.task q.owner).tid.ord = false
theorem plainFor_copy (s : State) (q : CopyCmd) (h : plainFor s q) : ∃ t, s.PlainCopy 0 q t := by
  obtain ⟨⟨h1, h2, h3⟩, h4, h5, h6, h7, h8, h9, ha⟩ := h
  obtain ⟨t, ht⟩ := Option.isSome_iff_exists.mp h3
  exact ⟨t, h1, h2, ht, h4, h5, h6, h7, h8, h9, by simpa [State.task, Map.get, ht] using ha⟩
/-- `MovesApart` as a check. -/
def movesApart (q : CopyCmd) (todo : List (Sum Nat Byte × Nat)) : Bool :=
  decide (todo.length ≤ 512) && decide (todo ≠ []) && decide (todo.map (·.2)).Nodup &&
  todo.all (fun p => match p.1 with | .inl l => (cellGet q.old l).isNone && todo.all (fun x => x.2 != l) | .inr _ => true)
theorem movesApart_sound (q : CopyCmd) (todo : List (Sum Nat Byte × Nat)) (h : movesApart q todo = true) : MovesApart q todo := by
  simp only [movesApart, Bool.and_eq_true, decide_eq_true_eq, List.all_eq_true] at h
  refine ⟨h.1.1.1, h.1.1.2, h.1.2, fun p hp l hl => ?_⟩
  have := h.2 p hp
  simp [hl] at this
  exact ⟨by simpa using this.1, fun x hx => by rcases x with ⟨a | b, c⟩; exacts [this.2.1 a c hx, this.2.2 b c hx]⟩
theorem wit_CopyBeats_FillBeat :
    let same (q : CopyCmd) : Prop := plainFor (filled q) q ∧ q.todo = [] ∧ ((filled q).task 1).io.crecs.any (fun r => r.id == q.id) = true
    let one (q : CopyCmd) (at_ : Word) (n : Nat) : Except XFault (List Seg) := ((filled q).xlate ((filled q).copyAgent q) { w := true } at_ n).1
    same (filling 0 0x1000800) ∧ same (filling 512 0x1000800) ∧ same (filling 0 0x3FFFFFFF) ∧ same (filling 0 0xF00000000010) ∧
    one (filling 0 0x1000800) 0x1000800#64 512 = .ok [dataSeg 0x1000800 512] ∧ (∀ l ∈ segLocs [dataSeg 0x1000800 512], isOpm l = false) ∧
    one (filling 512 0x1000800) 0x1000A00#64 1 = .ok [dataSeg 0x1000A00 1] ∧
    one (filling 0 0x3FFFFFFF) 0x3FFFFFFF#64 505 = .error { va := 0x3FFFFFFF#64, code := 0x04#8, wlev := 2#4 } ∧
    (filled (filling 0 0x1000800)).hostBusy (segLocs [dataSeg 0x1000800 512]) = false := by
  refine ⟨?_, ?_, ?_, ?_, ?_, ?_, ?_, ?_, ?_⟩ <;> (try unfold plainFor State.Calm State.MemOk State.OneKey State.HeldOneKey) <;> decide +kernel
theorem wit_CopyBeats_FillBeatDistinct : (segLocs [dataSeg 0x1000800 512]).Nodup := by
  have : segLocs [dataSeg 0x1000800 512] = (List.range 512).map (0x1000800 + ·) := by simp [segLocs, dataSeg, locRange]
  rw [this]
  exact List.nodup_range.map (fun a b h => by simpa using h)
/-- A command of 16 bytes of each kind: a shape within the placed page, one of a source or a destination that is refused, a beat in hand of
two CLM accesses of which the second begins in a destination word, and unseals whose destination is and is not its key's page. -/
def moving (what : CopyKind) : CopyCmd := { owner := 1, ctx := 1, launch := 1, vf := 1, id := 1#16, what := what, size := 16 }
theorem wit_CopyBeats_BeatMoves :
    (let shape (dst src : Word) := moving (.shape src dst 16 1 1 0#64 0#64 0#64 0#64)
     let good := shape 0x1000900 0x1000800
     let srcs (q : CopyCmd) := (filled q).placeEnds ((filled q).copyAgent q) { rd := true } ((q.pieces 0 512 0 16).map (fun p => (p.src, p.n)))
     let dsts (q : CopyCmd) := (srcs q).2.placeEnds ((filled q).copyAgent q) { w := true } ((q.pieces 0 512 0 16).map (fun p => (p.dst, p.n)))
     let at_ (n : Nat) : Placed := { gs := [dataSeg (BitVec.ofNat 64 n) 16], locs := locRange n 16, vas := locRange n 16 }
     plainFor (filled good) good ∧ (srcs good).1 = .ok [at_ 0x1000800] ∧ (dsts good).1 = .ok [at_ 0x1000900] ∧
     (dsts good).2.copyWaits 0 good [at_ 0x1000800, at_ 0x1000900] = false ∧
     movesApart good ((takeAhead [] { old := [] } (wordRuns 513 (pairUp [at_ 0x1000800] [at_ 0x1000900]))).flatMap id) = true ∧
     plainFor (filled (shape 0x1000900 0x3FFFFFFF)) (shape 0x1000900 0x3FFFFFFF) ∧
     (srcs (shape 0x1000900 0x3FFFFFFF)).1 = .error { detail := 0x04#8, tval := 0x3FFFFFFF#64, wlev := 2#4 } ∧
     plainFor (filled (shape 0x3FFFFFFF 0x1000800)) (shape 0x3FFFFFFF 0x1000800) ∧
     (dsts (shape 0x3FFFFFFF 0x1000800)).1 = .error { detail := 0x04#8, tval := 0x3FFFFFFF#64, wlev := 2#4 }) ∧
    (let todo := (locRange (clmBase 0 + 124) 8).map Sum.inl |>.zip (locRange 0x1000900 8)
     let q := { moving (.shape 0x1000900 0#64 16 1 1 0#64 0#64 0#64 0#64) with todo := todo, upto := 16 }
     plainFor (filled q) q ∧ movesApart q q.todo = true ∧ accessLen todo = 4 ∧ wholeRuns 4 (wordRuns 513 todo) = 0) ∧
    (let q := { moving (.unseal 0x1000900 none 0x1000800 3 0 1 5#256) with plain := List.replicate 16 7#8 }
     let ps := q.pieces 0 512 0 16
     let dsts := (filled q).placeEnds ((filled q).copyAgent q) { w := true } (ps.map (fun p => (p.dst, p.n)))
     plainFor (filled q) q ∧ q.plain ≠ [] ∧ dsts.1 = .ok [{ gs := [dataSeg 0x1000900 16], locs := locRange 0x1000900 16, vas := locRange 0x1000900 16 }] ∧
     sealFault 3 [{ gs := [dataSeg 0x1000900 16] }] = some { detail := 0x33#8, tval := 0x1000900#64 } ∧
     sealFault 0 [{ gs := [dataSeg 0x1000900 16] }] = none) := by
  refine ⟨⟨?_, ?_, ?_, ?_, ?_, ?_, ?_, ?_, ?_⟩, ⟨?_, ?_, ?_, ?_⟩, ?_, ?_, ?_, ?_, ?_⟩ <;>
    (try unfold plainFor State.Calm State.MemOk State.OneKey State.HeldOneKey) <;> decide +kernel
/-- A record of zeros at the source has index 0: it is not the one of a command whose first index is 7; and a record that verifies. -/
theorem wit_CopyBeats_ChunkOpens :
    let q := { moving (.unseal 0x1004000 none 0x1002000 3 7 1 5#256) with size := 4096 }
    plainFor (filled q) q ∧ ((filled q).xlate ((filled q).copyAgent q) { rd := true } 0x1002000#64 4160).1 = .ok [dataSeg 0x1002000 4160] ∧
    (segLocs [dataSeg 0x1002000 4160]).all (fun l => !isClm l && !isHost l) = true ∧ leNat [0#8, 0#8, 0#8, 0#8] ≠ (7 + 0) % 2 ^ 32 := by
  refine ⟨?_, ?_, ?_, ?_⟩ <;> (try unfold plainFor State.Calm State.MemOk State.OneKey State.HeldOneKey) <;> decide +kernel
theorem wit_CopyBeats_ChunkOpensVerified (key iv ct : List Byte) (h : iv.length = 12) :
    ∃ tag pt, gcmOpen key iv (iv ++ leBytes 4 7) ct tag = some pt ∧ leNat (leBytes 4 7) = (7 + 0) % 2 ^ 32 ∧ (iv ++ leBytes 4 7).length = 16 :=
  ⟨_, _, if_pos rfl, by decide, by simp [h, leBytes]⟩
/-- The last byte of a row and of a block. -/
theorem wit_CopyBeats_CopyStreams : 0 < 512 ∧ 0 < 16 ∧ 31 % 16 + 1 ≤ 16 ∧ 0 < 3 ∧ blockBytes .i8 = 1024 ∧ 1023 / 1024 < (hSlots (onyx .i8 1 1 0)).length := by
  decide +kernel
theorem wit_CopyWaits_LandingAndExpiry :
    (let q : CopyCmd := { owner := 1, vf := 1, launch := 1, what := .hsend (onyx .f32 1 1 0) (hWithSt (onyx .f32 1 1 0) 2) 1 3 0#4, pos := 4096, size := 4096 }
     let s := peers.onCluster 0 (fun c => { c with copyq := [q] })
     (s.carriedCopies.map (fun p => (p.1, p.2.1)))[0]? = some (0, 0) ∧ (Map.get? s.tasks 3).isSome = true ∧
     (Map.get? s.tasks q.owner).isSome = true ∧ 3 ≠ q.owner ∧ (∀ o ∈ s.tileOps 0, (3, (0#4).toNat) ∉ o.holds) ∧
     (s.task 3).pl.life ≠ .exited ∧ (s.task 3).pl.saved = false ∧ 0 / 10 = 1 / 10) ∧
    (let q : CopyCmd := { owner := 1, vf := 1, launch := 1, what := .hsend (onyx .f32 1 1 0) (hWithSt (onyx .f32 1 1 0) 2) 10 3 0#4, pos := 4096, size := 4096 }
     let s := (peers.onCluster 0 (fun c => { c with copyq := [q] })).onMs (fun m => { m with flights := [{ die := 1, src := 0 }] })
     (s.carriedCopies.map (fun p => (p.1, p.2.1)))[0]? = some (0, 0) ∧ 0 / 10 ≠ 10 / 10 ∧ s.flightsPending 0 = true) ∧
    (let busy : CopyRec := { id := 1#16, promise := some 100#64 }
     let go (r : CopyRec) (tm : Word) : Prop :=
       let w := (sys (State.reset.withWord ([0x018040B6#32, 0#32, 500#32].flatMap bytes32)) (fun y => { y with b1 := { tvec := 4 } }))
       let s := at_ (plc (regs (ios w (fun o => { o with crecs := [r] })) [(2, 1)]) (fun p => { p with run := .wait })) tm
       let f := ({ s with cur := 1 }).fetchDecode
       (s.task 1).live = true ∧ (s.task 1).pl.run = .wait ∧ (s.task 1).pl.saved = false ∧ (s.task 1).pl.answer = false ∧
       f.1 = .ok (.sleepu 2#5 500#32) ∧ f.2.me.pl.pend = none ∧ f.2.me.io.copyRec (f.2.x 2#5) = some r ∧ f.2.det = false ∧
       f.2.provisional f.2.cur = false ∧ f.2.me.sy.trapLevel = 1 ∧ f.2.dtime = tm
     (go busy 600 ∧ (100#64).toNat + (500#32).toNat ≤ (600#64).toNat) ∧ go busy 599 ∧ (go { busy with st := .done } 0 ∧ busy.unreported = false)) ∧
    (boot.task 9).live = false := by decide +kernel

/-- The task in context 0. -/
def control (s : State) : State := plc s (fun p => { p with ctx := 0 })
/-- More tasks on the same core. -/
def also (s : State) (l : List (Nat × Task)) : State := { s with tasks := s.tasks ++ l }
/-- A queued task of the launch on core 0, with a key. -/
def waiting (key : Word) : Task := { tid := { lid := 9#64, launch := 1, vf := 1, entry := 0x1000040#64, born := 0 }, pl := { core := 0, life := .queued }, sy := { key := key } }
/-- The task ordered and the holder of the horizon. -/
def holder : State := tids armed (fun i => { i with ord := true })

theorem wit_TaskFieldsYieldExit_TaskFields :
    (boot.det = false ∧ boot.me.tid.ord = false) ∧
    (boot.lmode.getLsbD 4 = false ∧ (mode holder 0x10).lmode.getLsbD 4 = true ∧ ((mode holder 0x10).horizon 1).isSome = true ∧
      (mode boot 0x10).horizon 1 = none) ∧
    (let s := mode armed 1
     s.det = true ∧ s.me.sy.timeok = false ∧ s.provisional s.cur = false ∧ s.me.sy.trapLevel ≠ 3) ∧
    (holder.me.tid.ord = true ∧ holder.provisional holder.cur = false ∧ holder.me.sy.trapLevel ≠ 3) := by decide +kernel
theorem wit_TaskCreation :
    let s := regs boot [(1, 0xFFFFFFFFFFFFFFFF), (2, 7), (3, 63), (5, 0x1000040), (6, 5)]
    (s.cur < s.nextUid ∧ ((0x1000040#32).setWidth 64).extractLsb' 0 2 = 0#2) ∧
    (s.x 1#5 = BitVec.allOnes 64 ∧ s.me.tid.ord = false ∧ s.releaseWaits 1#3 = false ∧
      (s.released true 1#3).queuedOnChip 7 < 31) ∧
    (s.x 2#5 ≠ BitVec.allOnes 64 ∧ s.placeOk (s.x 2#5) = true) ∧ s.me.pl.pend = none ∧ doomed.me.pl.pend = some { code := 0x19#8 } ∧
    (let r := also (control boot) ((List.range 10).map (fun k => (k + 2, { bootTask with pl := { core := 0, ctx := k + 1, life := .resident } })))
     r.me.pl.ctx = 0 ∧ r.emptyHelpers r.me.pl.core = [] ∧ r.releaseWaits 0#3 = false ∧
     (r.released true 0#3).queuedOnChip 0 < 31) ∧
    (let r := also s ((List.range 31).map (fun k => (k + 2, waiting 0)))
     let q (k : Nat) : State := r.onVf 1 (fun v => { v with part := some { bootPart with qunits := k } })
     let w (k : Nat) : State := (mode r 1).onLaunch 1 (fun x => { x with swap := 0x1200000#64, swsize := k })
     (r.det = false ∧ ((r.released true 0#3).queueSpace 0 1 false).1 = none) ∧
     (((q 3).queueSpace 0 1 false).1 = some true ∧ 2 ≤ (q 3).unitsFree 0 1 false ∧ ((q 2).queueSpace 0 1 false).1 = none) ∧
     ((w 128).det = true ∧ (w 128).swapRoom 1 128 = true ∧ (w 127).swapRoom 1 128 = false)) ∧
    (let r := control boot
     r.me.tid.ord = false ∧ r.me.pl.ctx = 0 ∧ r.releaseWaits 0#3 = false ∧ r.emptyHelpers r.me.pl.core = [1, 2, 3, 4, 5, 6, 7, 8, 9, 10] ∧
     r.mayDispatch r.me.pl.core r.me.tid.launch = true ∧ r.lmode.getLsbD 4 = false ∧ (r.launchOf r.cur).stackUse = [] ∧
     0 < (r.launchOf r.cur).scount) ∧
    ((s.x 3#5).toNat ≤ 63 ∧ (Map.get {} (s.cluster (clusterOf s.me.pl.core)).cells (s.x 3#5).toNat).st ≠ .armed ∧
      (s.x 5#5).extractLsb' 0 2 = 0#2 ∧ (s.x 6#5).toNat % 2 ^ 48 ≠ 0 ∧ s.releaseWaits 2#3 = false) := by decide +kernel
theorem wit_TaskCreation_CreationChecks :
    let s := regs armed [(1, 8), (3, 63)]
    (s.provisional s.cur = false ∧ s.me.sy.trapLevel ≠ 3) ∧ ((0x1000042#32).setWidth 64).extractLsb' 0 2 ≠ 0#2 ∧
    s.lmode.getLsbD 4 = false ∧ holder.me.tid.ord = true ∧ holder.provisional holder.cur = false ∧
    (s.me.tid.ord = false ∧ s.x 1#5 ≠ BitVec.allOnes 64 ∧ s.placeOk (s.x 1#5) = false) ∧
    ((s.x 3#5).toNat ≤ 63 ∧ (Map.get {} (s.cluster (clusterOf s.me.pl.core)).cells (s.x 3#5).toNat).st ≠ .armed ∧
      (s.x 2#5).extractLsb' 0 2 = 0#2 ∧ (s.x 2#5).toNat % 2 ^ 48 = 0) := by decide +kernel
theorem wit_TaskFieldsYieldExit_YieldAndExit :
    let behind (s : State) : Bool := s.tasks.any (fun p => p.2.pl.life == .queued && p.2.pl.core == s.me.pl.core &&
      p.2.tid.launch == s.me.tid.launch && decide (p.2.sy.key.toNat ≤ s.me.sy.key.toNat))
    let s := also (sys boot (fun y => { y with key := 5#64 })) [(2, waiting 5)]
    let c := (control boot).onLaunch 1 (fun x => { x with core := true })
    (ios boot (fun o => { o with lq := [{}] })).me.io.lq ≠ [] ∧ (boot.onMs (fun m => { m with owed := [{ owner := 1 }] })).ms.owed = [{ owner := 1 }] ∧
    boot.ms.owed = [] ∧
    (behind s = true ∧ s.me.io.lq = [] ∧ s.me.io.sq = [] ∧ s.me.io.upds = [] ∧ s.me.pl.pend = none ∧
      s.queuedOnChip s.me.pl.core < 31) ∧
    (behind (ios s (fun o => { o with sq := [{}] })) = true) ∧
    ((boot.onLaunch 1 (fun x => { x with preempt := 2 })).launchOf 1).preempt = 2 ∧
    (behind (also boot [(2, waiting 1)]) = false ∧ boot.me.io.lq = [] ∧ boot.me.pl.pend = none ∧ (boot.launchOf 1).preempt = 0) ∧
    (boot.me.io.sfq = [] ∧ boot.me.io.crecs = [] ∧ boot.clusters = [] ∧ boot.me.rf.h = [] ∧ boot.me.tid.cell = none ∧
      boot.me.tid.bind = none ∧ boot.me.tid.handler = false ∧ (boot.vf boot.me.tid.vf).trace.en = false ∧ boot.me.tid.ord = false ∧
      boot.me.pl.ctx ≠ 0) ∧
    (holder.me.tid.ord = true ∧ holder.me.io.sfq = []) ∧
    (c.me.pl.ctx = 0 ∧ c.me.tid.handler = false ∧ (c.launchOf c.cur).core = true ∧ c.tasks.length = 1 ∧
      (also c [(2, waiting 1)]).tasks.any (fun p => p.1 != 1 && p.2.pl.life == .queued && p.2.tid.launch == 1) = true) := by decide +kernel
theorem wit_Messages_MessagesSent :
    let s := regs boot [(1, 7), (2, 5)]
    let p := regs above [(1, 7), (2, 5)]
    (s.placeOk (s.x 1#5) = true ∧ s.releaseWaits 1#3 = false ∧ s.det = false ∧ s.provisional s.cur = false ∧
      Map.get? (s.coreSt 7).posts 31 = none) ∧
    (p.placeOk (p.x 1#5) = true ∧ p.provisional p.cur = true ∧ p.det = false ∧ Map.get? (p.coreSt 7).binds 31 = none ∧
      Map.get? ((p.onCore 7 (fun c => { c with binds := [(31, { ord := true })] })).coreSt 7).binds 31 = some { ord := true }) ∧
    (let v := regs (vecs .i8) [(1, 7)]
     v.placeOk (v.x 1#5) = true ∧ v.vsrc 2#5 = some (5#1024, .i8) ∧ (Map.get [] (v.coreSt 7).chans 3).length < 16) ∧
    (let a := regs armed [(1, 8)]
     a.provisional a.cur = false ∧ a.me.sy.trapLevel ≠ 3 ∧ a.placeOk (a.x 1#5) = false) ∧
    (let a := (regs (mode armed 1) [(1, 7)]).onCore 7 (fun c => { c with senders := [(5 + 64 * 1, (0, 77#64))] })
     a.placeOk (a.x 1#5) = true ∧ a.det = true ∧ 77#64 ≠ a.me.tid.lid ∧
     Map.get? (a.coreSt 7).senders (5 + 64 * a.me.tid.launch) = some ((a.launchOf a.cur).phase, 77#64)) := by decide +kernel
theorem wit_Messages_BindingsAndWaits :
    let m : Msg := { idx := 31, val := 6#1024 }
    let s := boot.onCore 0 (fun c => { c with posts := [(31, m)], pendPosts := [{ m with val := 7#1024, launch := 1 }] })
    let b := armed.onCore 0 (fun c => { c with binds := [(35, {})] })
    ((0#64).extractLsb' 0 2 = 0#2 ∧ boot.me.tid.ord = false) ∧
    (Map.get? (boot.coreSt 0).binds 35 = none ∧ 0x1000040#64 ≠ 0#64 ∧ (mode boot 0x10).lmode.getLsbD 4 = true) ∧
    ((Map.get? (b.coreSt 0).binds 35).isSome = true ∧ b.provisional b.cur = false ∧ b.me.sy.trapLevel ≠ 3) ∧
    (Map.get? (boot.coreSt 0).posts 31 = none ∧ boot.me.pl.got = none) ∧
    ((plc boot (fun p => { p with got := some m })).me.pl.got = some m ∧ m.idx = (31#5).toNat) ∧
    (let l : Msg := { m with kill := true }
     ((([l] : List Msg).filter (fun x => x.chan = false ∧ x.idx = (31#5).toNat ∧ x.kill = true)).head?) = some l) ∧
    (Map.get? (s.coreSt 0).posts 31 = some m ∧ s.me.pl.pend = none ∧ Map.get? (s.coreSt 0).binds 31 = none ∧
      (s.coreSt 0).pendPosts.find? (fun x => x.idx == 31) = some { m with val := 7#1024, launch := 1 } ∧ s.halted 0 1 = false) := by
  decide +kernel
theorem wit_Messages_MessageArrivals :
    let m : Msg := { idx := 31, dst := 7, val := 6#1024, launch := 1, sender := 1 }
    let s := { boot with msgs := [m] }
    let b : Binding := { entry := 0x1000040#64, launch := 1, vf := 1, binder := 1 }
    (s.msgs[0]? = some m ∧ s.msgs.take 0 = [] ∧ m.chan = false ∧ (∀ x ∈ (s.coreSt 7).inbuf, x.chan = false → x.idx ≠ m.idx) ∧ Map.get? (s.coreSt 7).posts 31 = none ∧ s.halted 7 1 = false ∧
      Map.get? (s.coreSt 7).binds 31 = none) ∧
    (let r := s.onCore 7 (fun c => { c with binds := [(31, b)] })
     r.queuedOnChip 7 < 31 ∧ Map.get? (r.coreSt 7).binds m.idx = some b ∧ m.idx < 32 ∧ b.ord = false ∧ r.halted m.dst b.launch = false ∧ r.postWaiter m.dst m.idx = none ∧
     (also r [(2, { bootTask with pl := { core := 7, ctx := 1, life := .resident, run := .wait, waitPost := some 31 } })]).postWaiter m.dst m.idx = some 2) ∧
    (let r := boot.onCore 7 (fun c => { c with inbuf := [m] })
     (r.coreSt 7).inbuf = [m] ∧ r.halted 7 1 = false ∧ Map.get? (r.coreSt 7).posts 31 = none ∧ Map.get? (r.coreSt 7).binds 31 = none) ∧
    (let e := { m with chan := true, idx := 3 }
     let r := boot.onCore 7 (fun c => { c with inbuf := [e] })
     (r.coreSt 7).inbuf = [e] ∧ e.chan = true ∧ e.dst = 7 ∧ e.idx < 4 ∧ r.halted 7 e.launch = false ∧
     Map.get? (r.coreSt 7).binds (32 + e.idx) = none ∧ (Map.get [] (r.coreSt 7).chans e.idx).length < 16) := by decide +kernel
theorem wit_TaskEngineSteps :
    (let s := also boot [(2, waiting 0)]
     Map.get? s.tasks 2 = some (waiting 0) ∧ (waiting 0).pl.life = .queued ∧ (waiting 0).tid.kind ≠ 1#4 ∧ (waiting 0).pl.want = none ∧
     s.tasks.all (fun p => p == (2, waiting 0) || (p.2.pl.life == .resident && p.2.pl.run != .out)) = true ∧ s.mayDispatch 0 1 = true ∧ (waiting 0).pl.pend = none ∧
     s.emptyHelpers 0 = [2, 3, 4, 5, 6, 7, 8, 9, 10] ∧ (waiting 0).pl.stack = none ∧ s.stackSlot 2 = some 0) ∧
    (let s := plc boot (fun p => { p with run := .out, saved := true })
     (s.task 1).pl.life = .resident ∧ (s.task 1).pl.run = .out ∧ s.taskAt 0 (s.task 1).pl.ctx = none ∧ s.tasks.length = 1 ∧
     s.mayDispatch 0 1 = true ∧ (s.task 1).tid.kind ≠ 1#4) ∧
    (let s := sys armed (fun y => { y with budOn := true })
     (s.task 1).live = true ∧ (s.task 1).pl.run = .ready ∧ (s.task 1).sy.budOn = true ∧ (s.task 1).sy.budLeft = 0#63 ∧
     (s.task 1).tid.handler = false ∧ s.provisional 1 = false ∧ (s.task 1).sy.trapLevel ≠ 3) ∧
    (let s := sys boot (fun y => { y with key := 5#64 })
     (at_ s 5).me.tid.ord = false ∧ (at_ s 5).me.pl.passed = false ∧ (at_ s 5).me.sy.key.toNat ≤ (at_ s 5).dtime.toNat ∧
     ((at_ s 5).vf 1).trace.en = false) ∧
    (boot.ownerOf (clusterOf 0) = some 1 ∧ (holder.horizon 1).isSome = true) ∧
    (let w : Task := { waiting 0 with tid := { (waiting 0).tid with ord := true } }
     let run (k : Nat) : Task := { bootTask with pl := { core := 0, ctx := k + 1, life := .resident }, sy := { key := BitVec.ofNat 64 k } }
     let s := also { boot with tasks := [] } ((11, w) :: (List.range 10).map (fun k => (k + 1, run k)))
     s.mayDispatch 0 w.tid.launch = true ∧ s.isHolder 11 = true ∧ s.emptyHelpers 0 = [] ∧ (run 9).pl.stopped = false ∧
     (s.tasks.all (fun p => p.1 == 11 || p.1 == 10 || taskBefore p.2 (run 9))) = true ∧ (run 9).pl.ctx ≠ 0 ∧ (run 9).tid.handler = false) := by decide +kernel
theorem wit_CommitAbortAndKill :
    (let s := plc (tids boot (fun i => { i with ord := true })) (fun p => { p with life := .exited })
     let w : Version := { owner := 1, sector := 0x20010, cells := [(0x1000800, 7#8)] }
     let s := s.onMs (fun m => { m with versions := [w] })
     s.me.pl.life = .exited ∧ s.me.pl.doomed = false ∧ s.isHolder 1 = true ∧ (∀ p ∈ s.tasks, p.2.pl.life = .exited → p.1 = 1) ∧ s.MemOk ∧
     s.ms.reds = [] ∧ s.ms.atomics = [] ∧ s.ms.pins = [] ∧ s.ms.l1 = [] ∧ s.ms.flights = [] ∧ s.ms.lagging = [] ∧
     (∀ c ∈ w.cells, c.1 / 128 = w.sector) ∧ s.ms.keyed = [] ∧ s.ms.base = [] ∧ w.key = none ∧ s.ms.versions = [w] ∧ w.owner = 1 ∧ w.quorum = none ∧ s.me.io.unord = [] ∧ s.clusters = [] ∧
     (s.vf 1).trace.en = false ∧ s.me.tid.bind = none ∧ s.me.tid.handler = false) ∧
    (above.me.pl.doomed = false ∧ (plc above (fun p => { p with doomed := true })).me.pl.doomed = true ∧ above.me.pl.discard = false ∧
      1 < above.nextUid) ∧
    (let s := plc doomed (fun p => { p with run := .wait })
     s.me.pl.pend = some { code := 0x19#8 } ∧ s.me.live = true ∧ s.me.pl.run = .wait) ∧
    ((boot.onHub (fun h => { h with attached := true })).hub.attached = true ∧ boot.hub.attached = false ∧ boot.me.pl.pend = none) := by
  unfold State.MemOk; decide +kernel

/-- Cluster 0 with one group entry 5, and with one cell 5. -/
def grouped (g : Group) : State := armed.onCluster 0 (fun c => { c with groups := [(5, g)] })
def celled (c : Opal) (g : Group) : State := armed.onCluster 0 (fun k => { k with cells := [(5, c)], groups := [(9, g)] })
/-- A barrier over core 0 whose member 1 is the task. -/
def joined (ms : List Member) (phase out : Nat) : State :=
  grouped { st := .barrier, launch := 1, rows := 10, cols := 8, members := ms, phase := phase, out := out }

theorem wit_BarrierGroups :
    let s := regs armed [(1, 5), (2, 0x88A0), (3, 0x4000000000000005), (4, 0x105)]
    let id := s.x 1#5
    (s.provisional s.cur = false ∧ s.me.sy.trapLevel ≠ 3 ∧ s.me.pl.pend = none ∧ doomed.me.pl.pend = some { code := 0x19#8 }) ∧
    ((s.x 3#5).extractLsb' 26 38 ≠ 0#38 ∧ (s.x 4#5).extractLsb' 8 8 ≠ 0#8) ∧
    (id.extractLsb' 26 38 = 0#38 ∧ id.extractLsb' 8 8 = 0#8 ∧ (s.part 1).clusterAt (id.extractLsb' 16 10).toNat = some 0 ∧
      (s.part 1).mayReach (clusterOf s.me.pl.core) 0 = true ∧ (s.group 0 5).st = .free) ∧
    (let x := 0x80A0
     x ≠ 0 ∧ x < 65536 ∧ x / 16 % 16 ≠ 0 ∧ x / 4096 ≠ 0 ∧ x % 16 + x / 16 % 16 ≤ 10 ∧ x / 256 % 16 + x / 4096 ≤ 8) ∧
    ((joined [] 0 0).group 0 5).st = .barrier ∧
    (let r := joined [{ uid := 2 }] 0 0
     (∀ q ∈ (r.group 0 5).members, q.uid ≠ r.cur) ∧ r.memberships r.cur .barrier < 8 ∧ (r.group 0 5).members.length < 1024 ∧
     (r.group 0 5).covers 0 r.me.pl.core = true) ∧
    (let r := joined [{ uid := 1 }, { uid := 2 }] 0 0
     (r.group 0 5).members.find? (fun q => q.uid == r.cur) = some { uid := 1 } ∧
     r.arrivalReady { uid := 1, due := some (r.me.pl.retired, r.ms.vseq) } = true ∧ ((r.group 0 5).members.map (·.uid)).Nodup ∧
     (∀ q ∈ (r.group 0 5).members, q.uid ≠ r.cur → r.arrivalReady q = false) ∧ r.arrivals (r.group 0 5) = [] ∧
     (ios r (fun o => { o with sq := [{}] })).arrivalReady { uid := 1, due := some (r.me.pl.retired + 1, r.ms.vseq) } = false ∧
     (r.group 0 5).members.filter (fun q => q.uid != r.cur) = [{ uid := 2 }]) ∧
    (let r := joined [{ uid := 1 }, { uid := 2, arrived := true }] 0 0
     (r.group 0 5).members.find? (fun q => q.uid == r.cur) = some { uid := 1 }) ∧
    (let r := joined [{ uid := 1, due := some (0, 0) }, { uid := 2 }] 0 0
     r.arrivals (r.group 0 5) = [1] ∧ (r.group 0 5).members.find? (fun q => q.uid == r.cur) = some { uid := 1, due := some (0, 0) }) ∧
    (joined [{ uid := 1, due := some (0, 0) }] 0 0).arrivals ((joined [{ uid := 1, due := some (0, 0) }] 0 0).group 0 5) = [1] ∧
    (let r := joined [{ uid := 1, arrived := true }] 1 1
     (r.group 0 5).phase = 1 ∧ (r.group 0 5).out = 1) ∧
    (let r := joined [{ uid := 1, arrived := true }] 1 0
     (r.group 0 5).out ≠ (r.group 0 5).phase) ∧
    (let q : Group := { st := .quorum, launch := 1, cell := 5, n := 8, members := [{ uid := 2, idx := 6 }] }
     let r := (grouped q).onCluster 0 (fun c => { c with cells := [(5, { st := .armed, n := 8 })] })
     (r.group 0 5).st = .quorum ∧ r.memberships r.cur .quorum = 0 ∧ 7 < (r.cell 0 (r.group 0 5).cell).n ∧
     (∀ m ∈ (r.group 0 5).members, m.idx ≠ 7) ∧ 7 ∉ (r.cell 0 5).departed) := by decide +kernel
theorem wit_QuorumCells :
    let id : Word := 5#64
    (armed.provisional armed.cur = false ∧ id.extractLsb' 26 38 = 0#38 ∧ id.extractLsb' 6 10 = 0#10 ∧
      (armed.part 1).clusterAt (id.extractLsb' 16 10).toNat = some 0 ∧ (armed.part 1).mayReach (clusterOf armed.me.pl.core) 0 = true) ∧
    (let words : List Byte := [0x04000400, 9, 0, 0x1000040, 0, 0, 0, 0].flatMap (leBytes 8)
     let s := { (celled { st := .released } {}) with mem := memPut armed.mem ((locRange 0x1000800 64).zip words) }
     (s.cell 0 5).st ≠ .armed ∧ (0x1000800#64).toNat % 64 = 0 ∧ (s.syncRead 0x1000800#64 64).1 = .ok words ∧
     leNat (words.take 8) = 1024 + 1024 * 2 ^ 16 ∧ leNat ((words.drop 24).take 8) % 4 = 0 ∧ (s.group 0 9).st = .free ∧ s.det = false ∧
     (∀ k ∈ s.clusters, ∀ x ∈ k.2.cells, s.cellDue x.2 = false)) ∧
    (let c : Opal := { st := .armed, n := 3, q := 2, launch := 1, group := 9, arrived := [0], init := 1 }
     let g : Group := { st := .quorum, launch := 1, cell := 5, n := 3, members := [{ uid := 1, idx := 2 }, { uid := 2, idx := 0, arrived := true }] }
     let s := celled c g
     (s.cell 0 5) = c ∧ (s.group 0 9) = g ∧ g.members.find? (fun x => x.uid == s.cur) = some { uid := 1, idx := 2 } ∧
     s.releaseWaits 4#3 = false ∧ c.arrived.length + 1 = c.q ∧ ({ c with q := 3 }).arrived.length + 1 ≠ 3 ∧
     dmodeOf (s.launch c.launch).mode = 0 ∧ (Map.get? s.launches c.launch).isSome = true ∧ s.cur < s.nextUid) ∧
    (let c : Opal := { st := .armed, n := 3, q := 3, launch := 1, group := 9, tag := 3#4, stage := 0x1000800#64, wts := [1#64, 1#64, 2#64], initId := { vf := 1 } }
     let s := (vecs .i32).onCluster 0 (fun k => { k with cells := [(5, c)] })
     s.vsrc 2#5 = some (5#1024, .i32) ∧ c.arrived.length + 1 ≠ c.q ∧
     ((s.released true 4#3).hubWrite (engineAgent c.initId.vf 0) (c.stage + BitVec.ofNat 64 (128 * 3)) (List.replicate 128 0#8)).1 = true) ∧
    (let c : Opal := { st := .armed, n := 3, q := 2, launch := 1, group := 9, dl := true, deadline := 7#64 }
     (at_ (celled c {}) 7).cellDue c = true ∧ (at_ (celled c {}) 6).cellDue c = false ∧ (0x7#64).toNat ≤ (at_ (celled c {}) 7).dtime.toNat ∧
     dmodeOf ((celled c {}).launch c.launch).mode = 0) := by decide +kernel
theorem wit_QuorumCells_CellReads :
    (let s := celled { st := .released, seq := 2#16, last := 9#64 } {}
     s.me.pl.pend = none ∧ s.me.pl.waitSeq = none ∧ (s.cell 0 5).st = .released) ∧
    ((celled { st := .armed, seq := 2#16 } {}).cell 0 5).st ≠ .released ∧
    (let s := plc (celled { st := .armed, seq := 2#16 } {}) (fun p => { p with waitSeq := some 2#16 })
     s.me.pl.waitSeq = some (s.cell 0 5).seq) ∧
    (let s := plc (celled { st := .armed, seq := 2#16 } {}) (fun p => { p with waitSeq := some 1#16 })
     s.me.pl.waitSeq = some 1#16 ∧ 1#16 ≠ (s.cell 0 5).seq) ∧
    ((mode armed 1).det = true ∧ armed.me.sy.timeok = false ∧ armed.me.sy.trapLevel ≠ 3) := by decide +kernel

/-- Cluster 0 with region 0 and its leaves; a register that holds 0 names it. -/
def region (x : Region) (ls : Map Word) : State := armed.onCluster 0 (fun c => { c with regions := [(0, { x with launch := 1 })], leaves := ls })

theorem wit_GarnetReadsAndUpdates_RegionReads :
    let x : Region := { leaves := 4, launch := 1, neigh := [] }
    let s := region x [(0, 3#64), (3, 5#64)]
    (s.me.pl.pend = none ∧ s.me.io.upds = [] ∧ s.provisional s.cur = false ∧ s.me.sy.trapLevel ≠ 3 ∧ s.det = false) ∧
    ((64#64).extractLsb' 6 10 ≠ 0#10 ∧ (0x4000000#64).extractLsb' 26 38 ≠ 0#38) ∧
    (ios s (fun o => { o with upds := [{}] })).afterUpds.me.pl.pend = none ∧
    ((s.x 1#5).extractLsb' 26 38 = 0#38 ∧ (s.x 1#5).extractLsb' 6 10 = 0#10 ∧ (s.part 1).clusterAt 0 = some 0 ∧
      (s.part 1).mayReach 0 0 = true ∧ s.region 0 0 = some x ∧ x.ordered = false ∧ 3 < x.leaves ∧ ¬ 4 < x.leaves ∧ x.leaves ≤ 32768 ∧
      x.wide = 1 ∧ ((s.cluster 0).leaves.map (·.1)).Nodup) ∧
    (let y : Region := { x with ordered := true, neigh := [0] }
     let r := tids (region y []) (fun i => { i with ord := true })
     r.me.tid.ord = true ∧ y.log = [] ∧ r.provisional r.cur = false ∧ r.region 0 0 = some y ∧ (r.regionBound 1 y).isSome = true) := by
  decide +kernel
theorem wit_GarnetReadsAndUpdates_RegionUpdates :
    let x : Region := { leaves := 4, launch := 1 }
    let s := region x [(3, 5#64)]
    let up (v : Word) (add : Bool) (leaf : Word) : LeafUpd := { add := add, val := v, leaf := leaf }
    let r (u : LeafUpd) := ios s (fun o => { o with upds := [u] })
    (s.updRegion s.cur (s.x 1#5) = some (0, 0) ∧ s.provisional s.cur = false) ∧
    ((r (up 0xFFFFFFFFFFFF 0 3)).me.io.upds = [up 0xFFFFFFFFFFFF 0 3] ∧ s.region 0 0 = some x ∧ dmodeOf (s.launchOf 1).mode = 0 ∧
      (3#64).toNat < x.leaves ∧ (0xFFFFFFFFFFFF#64).extractLsb' 56 8 = 0#8 ∧ (0xFFFFFFFFFFFF#64).extractLsb' 48 4 = 0#4 ∧
      s.regionSum 0 x - (s.leaf 0 x 3).toNat % 2 ^ 48 + (0xFFFFFFFFFFFF#64).toNat % 2 ^ 48 < 2 ^ 64) ∧
    ((0#64).extractLsb' 48 16 = (s.leaf 0 x 3).extractLsb' 48 16 ∧
      (((0#64).toNat % 2 ^ 48 : Nat) : Int) = ((s.leaf 0 x 3).toNat % 2 ^ 48 : Nat) + (0xFFFFFFFFFFFFFFFB#64).toInt) ∧
    (∀ k ∈ s.clusters, ∀ q ∈ k.2.regions, q.2.held = none) ∧
    (x.leaves ≤ (4#64).toNat ∧ s.me.io.sfq = [] ∧ s.me.pl.doomed = false) ∧
    (plc s (fun p => { p with doomed := true })).me.pl.doomed = true := by decide +kernel
/-- A table for one leaf, a region without rates, one with a rate, one with a queued event, and ones that send to each other. -/
theorem wit_GarnetEvents_RegionEvents :
    let x : Region := { leaves := 4, launch := 1, draws := 0#2 }
    let s := region x []
    let ev : Bound := { time := 0x4000000000000000#64, leaf := 1 }
    (s.me.pl.pend = none ∧ s.me.io.upds = [] ∧ s.provisional s.cur = false ∧ s.det = false ∧ s.updRegion s.cur (s.x 1#5) = some (0, 0)) ∧
    (let words : List Byte := ([1, 0] ++ List.replicate 16 0x1000040).flatMap (leBytes 8)
     let r := { armed with mem := memPut armed.mem ((locRange 0x1000800 144).zip words) }
     r.region 0 0 = none ∧ r.releaseWaits 1#3 = false ∧ (0x1000800#64).toNat % 8 = 0 ∧
     (r.readTable 0 0x1000800#64 144).1 = .ok words ∧ leNat (words.take 8) % 2 ^ 32 = 2 ^ 0 ∧
     leNat (words.take 8) / 2 ^ 32 < 64 ∧ 32767 % 2 ^ 0 = 0 ∧ 32767 + 2 ^ 0 ≤ 32768 ∧ (∀ q ∈ r.leafRanges 0, q.1 + q.2 ≤ 32767)) ∧
    (s.region 0 0 = some x ∧ x.log = [] ∧ x.queue = [] ∧ x.armed = false ∧ s.regionSum 0 x = 0 ∧ s.releaseWaits 1#3 = false) ∧
    (let y : Region := { x with ordered := true, armed := true }
     let r := mode (tids (region y []) (fun i => { i with ord := true })) 0x10
     r.region 0 0 = some y ∧ r.me.tid.ord = true ∧ r.lmode.getLsbD 4 = true ∧ r.releaseWaits 4#3 = false ∧ r.provisional r.cur = false ∧
       (∀ k ∈ r.clusters, ∀ q ∈ k.2.regions, q.2.held = none)) ∧
    (let r := region x [(2, 5#64)]
     r.regionSum 0 x ≠ 0 ∧ (match r.stochastic 0 0 x (r.regionSum 0 x) with | .stoch _ leaf => decide (leaf < 2 ^ 61) | _ => false) = true) ∧
    (let y : Region := { x with queue := [ev] }
     let r := region y []
     r.regionSum 0 y = 0 ∧ y.clock.toNat ≤ ev.time.toNat ∧ ev.leaf < 2 ^ 61) ∧
    (let y : Region := { x with ordered := true, queue := [ev] }
     let r := mode (tids (region y [(1, 0#64)]) (fun i => { i with ord := true })) 0x10
     y.armed = false ∧ y.rearm = none ∧ y.conservative = false ∧ r.lmode.getLsbD 4 = true ∧ r.region 0 0 = some y) ∧
    (let y : Region := { x with ordered := true, queue := [ev], handlers := [0x40#64] }
     let r := mode (tids (region y [(1, 0#64)]) (fun i => { i with ord := true })) 0x10
     (r.handlerScope 0 0 true).isSome = true ∧ r.releaseWaits 4#3 = false ∧ r.owes r.cur = false ∧
     (r.handlerScope 0 0 false).isNone = true) ∧
    ((0x7FEFFFFFFFFFFFFF#64).toNat < 0x7FF0000000000000 ∧ (3#64).toNat < x.leaves ∧ x.queue.length < 63) ∧
    (let y : Region := { x with ordered := true, look := 0x3FF0000000000000#64 }
     let r := tids (region y []) (fun i => { i with ord := true })
     let tm := 0x3FF0000000000000#64
     r.updRegion r.cur (r.x 2#5) = some (0, 0) ∧ r.region 0 0 = some y ∧ timeBefore tm r.me.sy.key = false ∧
     timeBefore tm (BitVec.ofNat 64 (fpAdd 0#2 .f64 y.clock.toNat y.look.toNat).1) = false ∧
     (∀ k ∈ r.clusters, ∀ q ∈ k.2.regions, q.2.held = none)) := by decide +kernel
theorem wit_GarnetEvents_SelectionFindsTheLeaf : 7 < sumRange [(0, 3#64), (3, 5#64)] 0 (2 ^ 2) ∧ 2 < sumRange [(0, 3#64), (3, 5#64)] 0 (2 ^ 2) := by
  decide +kernel

/-- A second launch, and what is done to it. -/
def second (f : Launch → Launch) : State := { boot with launches := [(1, bootLaunch), (2, f { bootLaunch with num := 2#16, order := 7 })] }
/-- Slot 7 of VF 1 with a record of zeros but its entry, and a placement block at 0x1000800 with the words given. -/
def slotted (blk : List Nat) : State :=
  { boot with mem := memPut boot.mem ((locRange 0x1000800 128).zip (padTo 128 (blk.flatMap (leBytes 8)))) }
theorem wit_LaunchCommit :
    let blk := [0x80000, 0, 0x1100000, 0x0000000100002400]
    let s := slotted blk
    let bs := padTo 128 (blk.flatMap (leBytes 8))
    let b (o : Nat) : Word := field64 bs o
    let c : Word := 0x1000801#64
    let rec_ := (padTo 64 (Map.get [] (s.vf 1).slots 7)).take 56 ++ leBytes 8 c.toNat
    (s.isVf 1 = true ∧ Map.get? (s.vf 1).slotLaunch 7 = none ∧ 7 ∉ (s.vf 1).relaxed) ∧
    (let r := s.onVf 1 (fun f => { f with slotLaunch := [(7, 1)] })
     Map.get? (r.vf 1).slotLaunch 7 = some 1 ∧ (r.launch 1).st = .running) ∧
    (let m : BitVec 32 := (field64 rec_ 0x30).extractLsb' 0 32
     m.extractLsb' 9 23 = 0#23 ∧ m.extractLsb' 5 2 ≠ 3#2 ∧ m.extractLsb' 0 2 ≠ 3#2) ∧
    (0xF0 ≤ ((0x00F0000000000000#64).extractLsb' 48 8).toNat ∧ ((0x00EF000000000000#64).extractLsb' 48 8).toNat < 0xF0 ∧
      (s.vf 1).part ≠ none ∧ (State.reset.vf 1).part = none) ∧
    ((s.hubRead (hostAgent 1) (c &&& 0x00FFFFFFFFFFFF80#64) 128).1 = some bs ∧ (s.hubRead (hostAgent 1) 0x40000000#64 128).1 = none) ∧
    ((field64 rec_ 0).extractLsb' 0 2 = 0#2 ∧ (field64 rec_ 0).extractLsb' 56 8 = 0#8 ∧ c.extractLsb' 3 4 = 0#4 ∧ (b 0).extractLsb' 30 34 = 0#34 ∧
      (b 0).extractLsb' 13 3 = 0#3 ∧ ((b 0).extractLsb' 16 13).toNat ≤ 5120 ∧ (b 8).getLsbD 63 = false ∧ (b 0x10).extractLsb' 0 7 = 0#7 ∧
      (b 0x18).extractLsb' 32 32 ≠ 0#32 ∧ ((b 0x18).extractLsb' 0 32).toNat % 128 = 0 ∧ 0x2400 ≤ ((b 0x18).extractLsb' 0 32).toNat ∧
      (b 0x20).extractLsb' 0 6 = 0#6 ∧ (b 0x28).extractLsb' 48 16 = 0#16 ∧ (b 0x28).extractLsb' 0 6 = 0#6 ∧
      (b 0x30).extractLsb' 0 2 = 0#2 ∧ (b 0x38).extractLsb' 32 32 = 0#32 ∧ (b 0x40).extractLsb' 0 12 = 0#12 ∧
      (b 0x48).extractLsb' 36 28 = 0#28 ∧ (∀ i, i < 6 → b (0x50 + 8 * i) = 0#64) ∧ c.getLsbD 2 = false ∧ (b 8).extractLsb' 0 63 = 0#63 ∧
      (b 0x48).extractLsb' 32 4 = 0#4 ∧ ((b 0).extractLsb' 0 13).toNat + 8 ≤ 8 * (s.part 1).clusters.length) ∧
    ((s.launches.map (·.1)).Nodup ∧ s.launches.length < 65535 ∧ (∀ p ∈ s.launches, p.2.st ≠ .reserved)) := by decide +kernel
theorem wit_LaunchPlacement_LaunchService :
    (boot.launches.filter (fun q => q.2.st == .queued || q.2.st == .out) = []) ∧
    (let s := second (fun x => { x with st := .queued })
     s.nextLaunch.1 = some 2 ∧ s.hasRoom 2 = true ∧ Map.get 0 s.hub.rr (64 * 0 + 1) < (s.part 1).wv) := by decide +kernel
theorem wit_LaunchPlacement :
    ((second (fun x => { x with st := .queued })).nextLaunch.1 = some 2 ∧ bootLaunch.npkg = 0 ∧ bootLaunch.n = 1 ∧
      (∀ h ∈ bootLaunch.cores, (second id).queuedOnChip h + 1 ≤ 31)) ∧
    ((second (fun x => { x with st := .queued, npkg := 1 })).nextLaunch.1 = some 2) ∧
    (let s := second (fun x => { x with st := .out, saved := [(0, { slots := [(5, 2)] })] })
     s.nextLaunch.1 = some 2 ∧ (s.launch 2).savesClusters = false ∧ (boot.nextLaunch.1 = none) ∧ (s.launch 2).savedCores = [] ∧
     (∀ cl ∈ (s.launch 2).clusterList, ({ s with launches := Map.set s.launches 2 { s.launch 2 with st := .running } } : State).unitsUsed cl none ≤
       (s.part (s.launch 2).vf).qunits)) ∧
    (let x := (at_ (second (fun x => { x with st := .reserved, gangC := 5#64 })) 9).launch 2
     x.st ∈ [LaunchSt.queued, .reserved, .running, .out] ∧ x.gangGo = false ∧ x.gangC ≠ 0#64 ∧ ¬ 5 < x.gangC.toNat ∧
       x.gangC.toNat ≤ 5 ∧ 5 ≤ (9#64).toNat ∧ 4 < x.gangC.toNat) ∧
    (let s (w : Nat) : State := { (second (fun x => { x with st := .out, mode := 0x80, sarea := 0x1000800#64 })) with mem := memPut boot.mem ((locRange 0x1000800 8).zip (leBytes 8 w)) }
     ((s 0).launch 2).savesClusters = true ∧ (s 0).nextLaunch.1 = some 2 ∧ ((s 0).launch 2).clusterList.headD 0 = 0 ∧
     ((s 0).nextLaunch.2.hubRead (engineAgent 1 0) 0x1000800#64 8).1 = some (leBytes 8 0) ∧
     ((s 0x5AFE0001).nextLaunch.2.hubRead (engineAgent 1 0) 0x1000800#64 8).1 = some (leBytes 8 0x5AFE0001) ∧ field64 (leBytes 8 0x5AFE0001) 0 = 0x000000005AFE0001#64) ∧
    (let s (t : Word) := at_ (second (fun x => { x with st := .reserved, gangGo := true, gangT := 9#64 })) t
     ((s 9).launch 2).st = .reserved ∧ ((s 9).launch 2).gangT.toNat ≤ (s 9).dtime.toNat ∧ (s 8).dtime.toNat < ((s 8).launch 2).gangT.toNat) := by
  decide +kernel
/-- A launch that holds a lower priority and differs in fl1 waits for launch 1. -/
def held (f : Launch → Launch) : State :=
  { boot with launches := [(1, f { bootLaunch with eff := 1 }), (2, { bootLaunch with st := .queued, mode := 8, eff := 0 })] }
theorem wit_PreemptionAndReset_PreemptionSteps :
    ((held id).launch 1 = { bootLaunch with eff := 1 } ∧ ((held id).launches.map (·.1)).Nodup ∧ (held id).hasRoom 2 = false ∧
      (held id).blocksLaunch 1 2 = true) ∧
    (let s := held (fun x => { x with eff := 0 })
     (s.launch 1).eff = (s.launch 2).eff ∧ s.blocksLaunch 1 2 = true ∧ s.hasRoom 2 = false) ∧
    (let s (t : Word) := at_ (held (fun x => { x with preempt := 2 })) t
     (((s 9999).dtime - ((s 9999).launch 1).preAt).toNat < 1000 * ((s 0).part 1).grace) ∧
     (1000 * ((s 0).part 1).grace ≤ ((s 10000).dtime - ((s 10000).launch 1).preAt).toNat ∧ (s 0).cur < (s 0).nextUid ∧
      ((s 0).tasks.map (·.1)).Nodup ∧ (s 0).tasks = [(1, bootTask)] ∧ bootTask.tid.ord = false ∧ bootTask.io = {})) ∧
    (let s := held (fun x => { x with preempt := 5 })
     (s.launch 1).preempt = 5 ∧ 7 ∈ (s.launch 1).cores ∧ (∀ p ∈ s.launches, p.1 ≠ 1 → p.2.preempt ≠ 5) ∧ (s.launch 2).preempt ≠ 5 ∧ s.enginesIdle 1 = true ∧ (s.launch 1).savesClusters = false ∧ (s.coreSt 7).postsOf 1 = [] ∧
     0 ∈ (s.launch 1).clusterList ∧ (s.onCore 3 (fun c => { c with tileq := [{ launch := 1 }] })).enginesIdle 1 = false) ∧
    (let s := held (fun x => { x with preempt := 6 })
     (s.launch 1).preempt = 6 ∧ 7 ∈ (s.launch 1).cores ∧ ∀ p ∈ s.launches, p.2.preempt ≠ 5 ∧ (p.1 ≠ 1 → p.2.preempt ≠ 6)) ∧
    (∀ p ∈ (held id).tasks, p.2.tid.launch = 1 → p.2.pl.life = .exited ∨ (p.2.pl.life = .queued ∧ p.2.pl.saved = true) →
      (held id).provisional p.1 = false) ∧
    (let s := tids (sys boot (fun y => { y with budOn := true })) (fun i => { i with handler := true })
     let r := s.onLaunch 1 (fun x => { x with preempt := 4, handlers := [1] })
     s.me.tid.handler = true ∧ s.me.live = true ∧ s.me.sy.budOn = true ∧ s.me.sy.budLeft = 0#63 ∧ s.me.tid.launch = 1 ∧
     (r.launch 1).preempt = 4 ∧ (r.launch 1).handlers = [1]) ∧
    (boot.launchBusy 1 = true ∧ (let s := { boot with tasks := [] }
      (s.launch 1).st = .running ∧ s.tasks = [] ∧ s.clusters = [] ∧ s.cores = [])) := by decide +kernel
theorem wit_PreemptionAndReset_FunctionLevelReset : (∀ w, (boot.vf w).trace.en = false) ∧ boot.MemOk ∧
    (Map.get? boot.launches 1 = some bootLaunch ∧ bootLaunch.vf = 1 ∧ bootLaunch.st = .running) := by
  refine ⟨fun w => ?_, by unfold State.MemOk; decide +kernel, by decide +kernel⟩
  by_cases h : w = 1
  · subst h; decide +kernel
  · have hw : boot.vf w = {} := Map.get_set_ne ({} : Vf) State.reset.vfs { State.reset.vf 1 with part := some bootPart } h
    rw [hw]

/-- VF 1 with a request in its mailbox. -/
def mailed (ctl : Word) : State := boot.onVf 1 (fun f => { f with mctl := ctl })
theorem wit_HostRequests :
    let op (s : State) : Nat := ((s.vf 1).mctl.extractLsb' 16 16).toNat
    let len (s : State) : Nat := ((s.vf 1).mctl.extractLsb' 32 16).toNat
    let busy (s : State) : Prop := (s.vf 1).mctl.extractLsb' 0 2 = 1#2
    (busy (mailed 0x0000000800010001) ∧ op (mailed 0x0000000800010001) = 1 ∧ len (mailed 0x0000000800010001) = 8) ∧
    (busy (mailed 0x0000000700010001) ∧ op (mailed 0x0000000700010001) = 1 ∧ len (mailed 0x0000000700010001) ≠ 8) ∧
    (busy (mailed 0x0000000000020001) ∧ op (mailed 0x0000000000020001) = 2) ∧
    (busy (mailed 0x000000F800300001) ∧ op (mailed 0x000000F800300001) = 0x30 ∧ (boot.vf 1).passed = false) ∧
    (busy (mailed 0x000000F900100001) ∧ op (mailed 0x000000F900100001) = 0x10 ∧ 248 < len (mailed 0x000000F900100001)) ∧
    (busy (mailed 0x000000F800100001) ∧ 1 ≤ len (mailed 0x000000F800100001) ∧ len (mailed 0x000000F800100001) ≤ 248) ∧
    (¬ busy boot) ∧ (boot.vf 1).part ≠ none ∧ (boot.vf 1).sessions.length < 4 ∧ (State.reset.vf 1).part = none ∧
    (let s := boot.onVf 1 (fun f => { f with sessions := [{ id := 3, finished := true }], keys := [(15, (7#256, 1#64))] })
     (s.vf 1).sessions[0]? = some { id := 3, finished := true } ∧ Map.get? (s.vf 1).keys 15 ≠ none ∧ Map.get? (s.vf 1).keys 1 = none ∧
     s.liveLaunches 1 = [1] ∧ ({ s with launches := [] }).liveLaunches 1 = []) ∧
    (boot.vf 1).sessions[0]? = none ∧
    (let s := (mailed 0x0000000800010001).onVf 1 (fun f => { f with passed := true })
     (s.vf 1).passed = true ∧ busy s ∧ op s = 1 ∧ len s = 8) ∧
    (0x0000000800010001#64).extractLsb' 16 16 = 1#16 ∧ (0x0000000800010001#64).extractLsb' 32 16 = 8#16 ∧
    (let s := (mailed 0x0000000000300001).onVf 1 (fun f => { f with passed := true })
     1 ≤ 1 ∧ 1 ≤ 63 ∧ (s.vf 1).passed = true ∧ busy s ∧ 0x100 ≤ 0x1F8 ∧ 0x1F8 + 8 ≤ 0x200 ∧ (boot.vf 1).passed = false) ∧
    (let s := (mailed 0x0000000800100001).onVf 1 (fun f => { f with sessions := [{}, {}, {}, {}] })
     4 ≤ (s.vf 1).sessions.length ∧ busy s ∧ op s = 0x10 ∧ len s = 8) := by decide +kernel
/-- The PF's window for VF 1 with cluster 0, slice 0 and link 0, and a link map with that link. -/
def asked (f : List Byte → List Byte) (cmd : Word) : State :=
  { State.reset with
    hub := { window := f ((List.range 256).map (fun i => if i = 1 then 1#8 else if i = 8 then 100#8 else if i = 12 then 1#8 else if i = 0x12 then 0x10#8 else if i = 0x18 then 20#8 else if i = 0x20 then 1#8 else if i = 0x70 then 1#8 else if i = 0xF2 then 0x30#8 else if i = 0xFA then 0x31#8 else 0#8)), pcmd := cmd }
    mem := memPut [] ((locRange 0x310000 8).zip (leBytes 8 0x8000000000000000)) }
theorem wit_Partitions :
    let s := asked id 0x101
    let busyVf := { boot with hub := s.hub }
    (s.hub.pcmd = BitVec.ofNat 64 (1 + 0x100) ∧ s.isVf 1 = true ∧ s.launches = [] ∧ s.applyCheck 1 = 0) ∧
    (busyVf.isVf 1 = true ∧ (busyVf.launch 1).st.live = true ∧ (busyVf.launch 1).vf = 1) ∧
    ((asked (fun w => w.set 1 0#8) 0x101).applyCheck 1 = 2 ∧ (asked (fun w => w.set 0x20 0#8) 0x101).applyCheck 1 = 3) ∧
    ((let r := { s with hub := { s.hub with fenced := [0] } }
      r.applyCheck 1 = 4 ∧ 0 ∈ r.hub.fenced ∧ r.askedPart.links = [(0, 0)])) ∧
    ((asked (fun w => w.set 0xF7 1#8) 0x101).applyCheck 1 = 5) ∧
    ((asked id 0x201).hub.pcmd = BitVec.ofNat 64 (1 + 0x200) ∧ boot.hub.pcmd ≠ BitVec.ofNat 64 (1 + 0x200)) ∧
    (let r := (asked id 0x201).onVf 1 (fun f => { f with part := some bootPart })
     r.isVf 1 = true ∧ r.launches = [] ∧ ∃ x ∈ (r.part 1).links, x.1 = r.hub.pkg ∧ x.1 * 64 + x.2 = 0x1000800 / 2 ^ 39) := by decide +kernel
theorem wit_HostMemory :
    let f (nd : Need) (va : Word) (n : Nat) := boot.hostXlate 1 nd va n
    let seg (n : Nat) : List Seg := [dataSeg 0xFFFF8 n]
    let tab (n : Nat) : List Seg := [dataSeg 0x1000800 n]
    let big := boot.onVf 1 (fun v => { v with part := some { bootPart with b2 := 45 } })
    (boot.vf 1).part ≠ none ∧ (0xFFFF8#64).toNat + 8 ≤ 2 ^ (boot.part 1).b2 ∧ ¬ (0xFFFF9#64).toNat + 8 ≤ 2 ^ (boot.part 1).b2 ∧
    ((boot.hostXlate 1 { rd := true } 0xFFFF8#64 8).1 = .error { va := 0xFFFF8#64, code := 0x04#8, wlev := 2#4 }) ∧
    ((boot.hostXlate 1 { rd := true, w := true } 0xFFFF8#64 8).1 = .error { va := 0xFFFF8#64, code := 0x04#8, wlev := 2#4 }) ∧
    ((big.hostXlate 1 { rd := true, w := true } 0x1000800#64 4).1 = .ok (tab 4) ∧ (big.hostXlate 1 { w := true } 0x1000800#64 8).1 = .ok (tab 8) ∧
      (0x1000800#64).toNat + 8 ≤ 2 ^ (big.part 1).b2 ∧ (0x1000800#64).toNat % (32 / 8) = 0 ∧ (0x1000801#64).toNat % (32 / 8) ≠ 0) ∧
    (big.trackingLaunches 1 = [] ∧ (mode big 1).trackingLaunches 1 = [1] ∧ (seg 8).length = 1 ∧ (f { rd := true } 0x1000800#64 8).1 = .ok (tab 8)) ∧
    big.Calm := by unfold State.Calm State.MemOk State.OneKey State.HeldOneKey; decide +kernel
/-- A read by the host of a word that a task wrote in the phase. -/
theorem wit_HostMemoryTracked :
    let s := (mode (boot.onVf 1 (fun v => { v with part := some { bootPart with b2 := 45 } })) 1).onMs (fun m => { m with track := [{ sector := 0x1000800 / 128, launch := 1, phase := 0, subs := [{ writer := some { lid := 5#64 }, wmask := 1 }] }] })
    s.trackingLaunches 1 = [1] ∧ (s.hostXlate 1 { rd := true } 0x1000800#64 4).1 = .ok [dataSeg 0x1000800 4] ∧
    (match s.trackAccess 1 { lid := 0x0000FFFFFFFFFFFF#64 } none .read (trackedLocs [dataSeg 0x1000800 4]) with | .error _ => true | .ok _ => false) = true ∧
    (s.hostXlate 1 { rd := true, w := true } 0x1000800#64 4).1 = .ok [dataSeg 0x1000800 4] ∧
    (match s.trackAccess 1 { lid := 0x0000FFFFFFFFFFFF#64 } none .both (trackedLocs [dataSeg 0x1000800 4]) with | .error _ => true | .ok _ => false) = true ∧
    (match s.trackAccess 1 { lid := 0x0000FFFFFFFFFFFF#64 } none .write (trackedLocs [dataSeg 0x1000800 4]) with | .error _ => true | .ok _ => false) = true := by
  decide +kernel
/-- The first and the last offset of each range of a write, a part of a register, and a write over two registers. -/
theorem wit_HostRegistersOffsets :
    (0x900 < 0x908 ∧ 0x908 < 0xA00 ∧ 0xC00 ≤ 0x4800 ∧ 0x4800 ≠ 0x4808 ∧ 0x4800 < 0x11000 ∧ 0x50000 ≤ 0x50000 ∧ 0x7F8 < 0x800) ∧
    (0x800 ≤ 0x8FF ∧ 0x8FF < 0x900 ∧ 0x900 < 0x8FF + 8) ∧ (0x100 ≤ 0x1F8 ∧ 0x100 < 0x1F8 + 8 ∧ 0x1F8 + 8 ≤ 0x200) ∧
    (0x200 ≤ 0x204 ∧ 0x204 + 4 ≤ 0x208) ∧ (0x208 ≤ 0xFF8 ∧ 0xFF8 < 0x1000 ∧ 0xFF8 + 8 ≤ 0x1000) ∧ (0x1FF8 < 0x2000 ∧ 0x1FF8 + 8 ≤ 0x2000) ∧
    (4 < 5 ∧ 4 + 4 ≤ 8 ∧ 0 + 4 ≤ 8) ∧
    (0xFF8 + 8 ≤ 0x1000 ∧ 0x1200 ≤ 0x1200 ∧ 0x1200 + 8 ≤ 0x2000 ∧ 0x2028 ≤ 0x2FF8 ∧ 0x2FF8 + 8 ≤ 0x3000 ∧ 0x6000 ≤ 0x6000) ∧
    (match exec (.bar0Write 1 0x2010 (leBytes 8 0) false) boot with | .next u => u.isVf 1 | _ => false) = true := by decide +kernel
theorem wit_HostRegisters :
    (0x800 ≤ 0x8F8 ∧ 0x8F8 + 8 ≤ 0x900) ∧ State.reset.isVf 64 = false ∧ State.reset.isVf 63 = true ∧ boot.isVf 1 = true ∧
    (0x30 + 8 ≤ 0x38 ∧ 0x38 < 0x34 + 8 ∧ 0x34 + 8 ≤ 0x40) ∧ (0xF8 + 8 ≤ 0x100 ∧ 0x100 < 0xF9 + 8) ∧
    ((boot.vf 1).trace.en = false ∧ (boot.vf 1).trace.tsize = 0#32 ∧ (0x1000000#64).toNat % 4096 = 0 ∧ (0x1000001#64).toNat % 4096 ≠ 0) ∧
    (let s := boot.onVf 1 (fun f => { f with trace := { tsize := 64#32, tbase := 0x1001000#64 } })
     (s.vf 1).trace.tsize ≠ 0#32 ∧ (s.hostXlate 1 { w := true } 0x1001000#64 (32 * 64)).1 = .ok [dataSeg 0x1001000 2048] ∧
     (s.hostXlate 1 { w := true } 0x2000000#64 (32 * 64)).1 = .error { va := 0x2000000#64, code := 0x04#8, wlev := 2#4 }) ∧
    (64 = 2 ^ 6 ∧ 2 ^ 24 = 16777216) ∧
    (let t : Trace := { en := true, cls := 0x7F#7, tsize := 64#32, tridx := 1#32 }
     t.cls.getLsbD (7 - 1) = true ∧ t.dropped = 0 ∧ (t.twidx.toNat + 1) % t.tsize.toNat = t.tridx.toNat ∧
     (({ t with tridx := 0#32 }).twidx.toNat + 1) % 64 ≠ ({ t with tridx := 0#32 }).tridx.toNat) := by decide +kernel

/-- The debugger at the stopped core 0. -/
def stopped : State := ((plc boot (fun p => { p with stopped := true })).onHub (fun h => { h with attached := true })).onCore 0 (fun c => { c with stopped := true })
theorem wit_DebuggingRegions :
    let s := stopped.onCluster 0 (fun c => { c with regions := [(5, {})] })
    s.hub.attached = true ∧ (s.coreSt 0).stopped = true ∧ Map.get? (s.cluster (clusterOf 0)).regions 5 = some {} ∧
    Map.get? (s.cluster (clusterOf 0)).regions 6 = none := by decide +kernel
theorem wit_Debugging :
    (stopped.hub.attached = true ∧ (stopped.coreSt 0).stopped = true ∧ (stopped.tasks.map (·.1)).Nodup) ∧
    (boot.hub.attached = false ∧ boot.me.pl.stopped = false ∧ (boot.coreSt 0).stopped = false) ∧
    (stopped.me.pl.stopped = true ∧ stopped.me.pl.reserve = none ∧ stopped.me.pl.core = 0 ∧ stopped.me.pl.saved = false ∧
      (stopped.fetchWords stopped.me.rf.pc 1).1 = .ok [0x008000D8#32]) ∧
    ((mode boot 0x100).launch 1).mode.getLsbD 8 = true ∧
    (let who : Agent := { engineAgent ((stopped.ownerOf 0).getD 0) 0 with queueArea := true }
     (stopped.xlate who { rd := true } 0x1000000#64 4).1 = .ok [dataSeg 0x1000000 4] ∧
     (stopped.xlate who { rd := true } 0x3FFFFFF8#64 4).1 = .error { va := 0x3FFFFFF8#64, code := 0x04#8, wlev := 2#4 }) ∧
    (plc boot (fun p => { p with run := .out })).me.pl.run = .out ∧
    (0x1FFFFF + 1 ≤ 2 ^ 21 ∧ 511 < 512 ∧ 8191 + 1 ≤ 8192 ∧ 32767 < 32768 ∧ 0x1FFF < 0x2000) ∧ stopped.Calm := by
  unfold State.Calm State.MemOk State.OneKey State.HeldOneKey; decide +kernel
/-- A port whose alternative has failed at every start that the counter holds, and results in which step 2 fails. -/
theorem wit_Starting :
    let s := boot.onHub (fun h => { h with record := { steps := [{ step := 8, unit := 3, starts := 0xFFFF#16, form := 1#2, result := 1#8 }] } })
    let xs : List StepResult := [⟨1, 0, .pass⟩, ⟨2, 0, .fail⟩, ⟨8, 15, .timeout⟩]
    startWord s.hub.record.steps 8 3 = { step := 8, unit := 3, starts := 0xFFFF#16, form := 1#2, result := 1#8 } ∧
    startWord s.hub.record.steps 8 15 = { step := 8, unit := 15 } ∧ (xs.find? (fun x => x.step == 1 && x.unit == 0)).map (·.outcome) = some .pass ∧
    (xs.find? (fun x => x.step == 2 && x.unit == 0)).map (·.outcome) = some .fail ∧
    (match exec (.startSequence xs) s with | .next u => u.hub.halted | _ => false) = true ∧
    State.reset.hub.record.steps = [] ∧ boot.MemOk ∧ isHost 0x8000000000000 = true ∧ isHost 0x7FFFFFFFFFFFF = false := by
  unfold State.MemOk; decide +kernel
/-- Two writes under way to die 1: in causal order, and not. -/
theorem wit_PowerErrorsAndReplicas :
    let f (src n : Nat) (stamp : Map Nat) : Flight := { die := 1, src := src, stamp := stamp, cells := [(0x1000800, BitVec.ofNat 8 n)] }
    let s := boot.onMs (fun m => { m with flights := [f 0 1 [(0, 1)], f 2 2 [(0, 1), (2, 1)]] })
    let r := boot.onMs (fun m => { m with flights := [f 0 0 [(0, 1)]], lagging := [(1, [(0x1000800, 9#8)])] })
    ((s.flightsTo 1)[1]? = some (1, f 2 2 [(0, 1), (2, 1)]) ∧ clockOf [(0, 1)] 0 ≤ clockOf [(0, 1), (2, 1)] 0 ∧ (s.flightsTo 2)[0]? = none) ∧
    ((r.flightsTo 1)[0]? = some (0, f 0 0 [(0, 1)]) ∧ cellGet (Map.get [] r.ms.lagging 1) 0x1000800 = some 9#8 ∧
      ((Map.get [] r.ms.lagging 1).map (·.1)).Nodup ∧ ((f 0 0 [(0, 1)]).cells.map (·.1)).Nodup ∧ (f 0 0 [(0, 1)]).ser = 0 ∧
      (∀ x ∈ Map.get [] r.ms.lagging 1, x.1 ≠ 0x1000800 → x.1 / 8 ≠ 0x1000800 / 8) ∧ r.ms.flights.eraseIdx 0 = [] ∧ memGet r.mem 0x1000800 = 0#8 ∧ cellGet (Map.get [] s.ms.lagging 1) 0x1000800 = none) ∧
    (let under := boot.onMs (fun m => { m with flights := [f 0 1 [(0, 1)], f 2 2 [(2, 1)]], lagging := [(1, [(0x1000800, 9#8)])] })
     (under.flightsTo 1)[0]? = some (0, f 0 1 [(0, 1)]) ∧ under.ms.flights.eraseIdx 0 = [f 2 2 [(2, 1)]] ∧
     cellGet (Map.get [] under.ms.lagging 1) 0x1000800 = some 9#8) ∧
    (let r := { boot with ms := { s.ms with flights := [f 0 1 [(0, 1)]] } }
     (r.flightsTo 1)[0]? = some (0, f 0 1 [(0, 1)]) ∧ (f 0 1 [(0, 1)]).home = false ∧ (f 0 1 [(0, 1)]).src ≠ 1 ∧
     clockOf (Map.get [] r.ms.clocks 1) 0 < clockOf [(0, 1)] 0 ∧ r.ms.flights.eraseIdx 0 = [] ∧
     (r.onMs (fun m => { m with flights := [{ f 0 1 [(0, 1)] with home := true }] })).flightsTo 1 = [(0, { f 0 1 [(0, 1)] with home := true })]) ∧
    (let q : L1Piece := { owner := 1, cells := [(0x1000800, 7#8)] }
     let p : Pin := { owner := 1, line := 0x1000800 / 512 }
     let t := boot.onMs (fun m => { m with pins := [p], l1 := [q] })
     t.ms.pins[0]? = some p ∧ t.ms.pins[1]? = none ∧ coreSees p.core q.unit = true ∧ q.onLines [p.line] = true ∧ t.MemOk ∧ t.ms.reds = [] ∧ t.ms.keyed = [] ∧ t.ms.base = [] ∧ q.keys = [] ∧ t.ms.lagging = []) ∧
    (let t (n : Nat) : State := plc (ios armed (fun o => { o with sq := [{ issued := 5 }] })) (fun p => { p with retired := n })
     (t 70).me.live = true ∧ (t 70).me.pl.saved = false ∧ (t 70).me.pl.pend = none ∧ 5 + 65 ≤ (t 70).me.pl.retired ∧ ¬ 5 + 65 ≤ (t 69).me.pl.retired) ∧
    (let t := plc (ios armed (fun o => { o with sfq := [{ issued := 5 }] })) (fun p => { p with retired := 70 })
     t.me.io.sq = [] ∧ t.me.io.upds = [] ∧ t.provisional 1 = false ∧ t.me.sy.trapLevel ≠ 3) := by unfold State.MemOk; decide +kernel
theorem wit_StepKeepsTaskNumbers : boot.Numbered ∧ Runs (step boot) := by
  refine ⟨⟨by decide, fun u h => ?_⟩, _, rfl⟩
  have : u = 1 := by
    by_contra hu
    have : Map.get? boot.tasks u = none := Map.get?_set_ne State.reset.tasks _ hu
    rw [this] at h
    exact absurd h (by decide)
  subst this; decide

end Sys2Proof.Tests
end

section
/-! SUPPORT. Proofs about the scalar integer instructions: what an ending does where the statement writes its value in another form
than the model, traps that wait or enter a level, and the words that several instructions form. -/
namespace Sys2Proof.Machine

/-! ### Endings -/

/-- An instruction that ends in `result` with a value equal to `w` writes `w`. -/
theorem writes_of_result_eq {i : Instr} {s : State} {d : BitVec 5} {v w : Word} {n : Nat}
    (h : exec i s = .next (s.result d v n)) (hv : v = w) : Writes i s d w 0#5 n :=
  hv ▸ writes_of_result h

theorem State.block_of_pend_none {s : State} (h : s.me.pl.pend = none) :
    s.block = s.setMe { s.me with pl := { s.me.pl with run := .wait } } := by
  unfold State.block
  rw [h]
  rfl

/-- A trap of an ordered task above the horizon waits (08 R169). -/
theorem waits_of_trap {i : Instr} {s : State} {c : BitVec 8} {x : Word} (h : exec i s = .next (s.trap c x))
    (hp : s.provisional s.cur = true) : Waits i s := by
  intro hk
  rw [h, ← State.block_of_pend_none hk]
  simp [State.trap, State.fault, hp]

/-- Any other trap enters the level that handles it. -/
theorem traps_of_trap {i : Instr} {s : State} {c : BitVec 8} {x : Word} (h : exec i s = .next (s.trap c x))
    (hp : s.provisional s.cur = false) (hl : s.me.sy.trapLevel ≠ 3) :
    Traps i s s.me.sy.trapLevel (causeWord { code := c, tval := x } 0 false) s.pc x 0#64 := by
  have h' : exec i s = .next (s.takeTrap { code := c, tval := x } s.pc) := by
    simpa [State.trap, State.fault, hp] using h
  exact traps_of h' hl

/-! ### Words -/

/-- A shift count is the low six bits of its register (08 R171). -/
theorem toNat_mod_64 (v : Word) : v.toNat % 64 = (v.extractLsb' 0 6).toNat := by
  simp

theorem low32_eq (v : Word) : low32 v = (v.extractLsb' 0 32).signExtend 64 := by
  simp [low32, BitVec.setWidth_eq_extractLsb']

theorem toInt_low32 (v : Word) : (low32 v).toInt = (v.extractLsb' 0 32).toInt := by
  rw [low32_eq, BitVec.toInt_signExtend_of_le (by decide)]

theorem low32_eq_zero_iff (v : Word) : low32 v = 0#64 ↔ v.extractLsb' 0 32 = 0#32 := by
  rw [← BitVec.toInt_inj, ← BitVec.toInt_inj (x := v.extractLsb' 0 32), toInt_low32]
  rfl

end Sys2Proof.Machine
end

section
/-! SUPPORT. 08 R171-R173: the integer ALU, registers and immediates. -/
namespace Sys2Proof.Machine

/-- Where a tie does not matter, a choice by < is the choice by ≤. -/
theorem ite_lt_eq_ite_le {α β : Type} [LinearOrder α] {x y : α} {p q : β} (tie : x = y → p = q) :
    (if x < y then p else q) = if x ≤ y then p else q := by
  rcases eq_or_ne x y with h | h
  · simp [h, tie h]
  · simp [lt_iff_le_and_ne, h]

/-- Choosing by the signed order, where only equal words tie. -/
theorem ite_slt_eq_ite_le {β : Type} {x y : Word} {p q : β} (tie : x = y → p = q) :
    (if x.slt y then p else q) = if x.toInt ≤ y.toInt then p else q := by
  simpa [BitVec.slt] using ite_lt_eq_ite_le (fun h => tie (BitVec.eq_of_toInt_eq h))

/-- Choosing by the unsigned order, where only equal words tie. -/
theorem ite_ult_eq_ite_le {β : Type} {x y : Word} {p q : β} (tie : x = y → p = q) :
    (if x.ult y then p else q) = if x.toNat ≤ y.toNat then p else q := by
  simpa [BitVec.ult] using ite_lt_eq_ite_le (fun h => tie (BitVec.eq_of_toNat_eq h))

/-- Settles O9: every variant ends in `result`; shift counts, low words, minima and maxima are rewritten to the statement's form. -/
theorem integerAlu : Obligations.IntegerAlu := by
  refine ⟨fun s d a b => ?_, fun s d a imm v lit n => ?_⟩
  · refine ⟨writes_of_result rfl, writes_of_result rfl, writes_of_result rfl, writes_of_result rfl, writes_of_result rfl,
      writes_of_result rfl, ?sll, ?srl, ?sra, ?addw, ?subw, ?min, ?max, ?minn, ?maxn⟩
    case sll => exact writes_of_result_eq rfl (by rw [toNat_mod_64])
    case srl => exact writes_of_result_eq rfl (by rw [toNat_mod_64])
    case sra => exact writes_of_result_eq rfl (by rw [toNat_mod_64])
    case addw => exact writes_of_result_eq rfl (low32_eq _)
    case subw => exact writes_of_result_eq rfl (low32_eq _)
    case min => exact writes_of_result_eq rfl (ite_slt_eq_ite_le id)
    case max => exact writes_of_result_eq rfl (ite_slt_eq_ite_le Eq.symm)
    case minn => exact writes_of_result_eq rfl (ite_ult_eq_ite_le id)
    case maxn => exact writes_of_result_eq rfl (ite_ult_eq_ite_le Eq.symm)
  · exact ⟨writes_of_result rfl, writes_of_result rfl, writes_of_result rfl, writes_of_result rfl, writes_of_result rfl,
      writes_of_result rfl, writes_of_result rfl, writes_of_result rfl, writes_of_result rfl, writes_of_result rfl,
      writes_of_result rfl, writes_of_result rfl, writes_of_result rfl⟩

end Sys2Proof.Machine
end

section
/-! SUPPORT. 08 R174: products, quotients and remainders, and the division by 0. -/
namespace Sys2Proof.Machine

theorem toInt_signExtend_64 {w : Nat} (hw : w ≤ 64) (p : BitVec w) : (p.signExtend 64).toInt = p.toInt :=
  BitVec.toInt_signExtend_of_le hw

theorem toInt_eq_neg_one_iff {w : Nat} (hw : 0 < w) (q : BitVec w) : q.toInt = -1 ↔ q = -1#w := by
  rw [← BitVec.toInt_inj, BitVec.neg_one_eq_allOnes, BitVec.toInt_allOnes, if_pos hw]

theorem toInt_eq_min_iff {w : Nat} (hw : 0 < w) (p : BitVec w) : p.toInt = -(2 ^ (w - 1) : Int) ↔ p = BitVec.intMin w := by
  rw [← BitVec.toInt_inj, BitVec.toInt_intMin_of_pos hw]

/-- The model's signed quotient of a width is that of the narrow operands, the overflowing one included. -/
theorem sdiv_signExtend {w : Nat} (h0 : 0 < w) (hw : w ≤ 64) (p q : BitVec w) :
    sdiv w (p.signExtend 64) (q.signExtend 64) = (p.sdiv q).signExtend 64 := by
  unfold sdiv
  simp only [toInt_signExtend_64 hw, toInt_eq_neg_one_iff h0, toInt_eq_min_iff h0]
  split
  case isTrue h =>
    obtain ⟨rfl, rfl⟩ := h
    rw [BitVec.intMin_sdiv_neg_one]
  case isFalse h =>
    rw [← BitVec.toInt_sdiv_of_ne_or_ne p q (by tauto)]
    rfl

/-- The model's signed remainder of a width is that of the narrow operands; a divisor of -1 leaves 0. -/
theorem srem_signExtend {w : Nat} (hw : w ≤ 64) (p q : BitVec w) :
    srem w (p.signExtend 64) (q.signExtend 64) = (p.srem q).signExtend 64 := by
  have hrem : (p.srem q).signExtend 64 = BitVec.ofInt 64 (p.toInt.tmod q.toInt) := by
    rw [← BitVec.toInt_srem]
    rfl
  unfold srem
  rw [hrem, toInt_signExtend_64 hw, toInt_signExtend_64 hw]
  split
  case isTrue h => simp [h.1]
  case isFalse => rfl

theorem sdiv_64 (x y : Word) : sdiv 64 x y = x.sdiv y := by
  simpa using sdiv_signExtend (by decide) (by decide) x y

theorem srem_64 (x y : Word) : srem 64 x y = x.srem y := by
  simpa using srem_signExtend (by decide) x y

theorem sdiv_low32 (x y : Word) :
    sdiv 32 (low32 x) (low32 y) = ((x.extractLsb' 0 32).sdiv (y.extractLsb' 0 32)).signExtend 64 := by
  rw [low32_eq, low32_eq, sdiv_signExtend (by decide) (by decide)]

theorem srem_low32 (x y : Word) :
    srem 32 (low32 x) (low32 y) = ((x.extractLsb' 0 32).srem (y.extractLsb' 0 32)).signExtend 64 := by
  rw [low32_eq, low32_eq, srem_signExtend (by decide)]

theorem udiv_eq (x y : Word) : udiv x y = x / y := by
  simp [udiv, ← BitVec.toNat_udiv]

theorem urem_eq (x y : Word) : urem x y = x % y := by
  simp [urem, ← BitVec.toNat_umod]

/-- The upper half of a 128-bit product is its signed value divided by 2^64, rounded down. -/
theorem upperHalf_eq_ofInt (p : BitVec 128) : p.extractLsb' 64 64 = BitVec.ofInt 64 (p.toInt / 2 ^ 64) := by
  have hshift : p.extractLsb' 64 64 = (p.sshiftRight 64).signExtend 64 := by
    rw [BitVec.signExtend_eq_setWidth_of_le _ (by decide)]
    ext i hi
    have hi' : ¬ 128 ≤ i := by omega
    have hin : 64 + i < 128 := by omega
    simp [BitVec.getLsbD_sshiftRight, hi', hin]
  rw [hshift, BitVec.signExtend, BitVec.toInt_sshiftRight, Int.shiftRight_eq_div_pow]
  rfl

theorem toInt_product (x y : Word) : (x.signExtend 128 * y.signExtend 128).toInt = x.toInt * y.toInt := by
  have hle := BitVec.toInt_mul_toInt_le (x := x) (y := y)
  have hge := BitVec.le_toInt_mul_toInt (x := x) (y := y)
  rw [BitVec.toInt_mul, BitVec.toInt_signExtend_of_le (by decide), BitVec.toInt_signExtend_of_le (by decide)]
  exact Int.bmod_eq_of_le_mul_two (by omega) (by omega)

theorem mulh_eq (x y : Word) :
    BitVec.ofInt 64 (x.toInt * y.toInt / 2 ^ 64) = (x.signExtend 128 * y.signExtend 128).extractLsb' 64 64 := by
  rw [upperHalf_eq_ofInt, toInt_product]

theorem mulhn_eq (x y : Word) :
    BitVec.ofNat 64 (x.toNat * y.toNat / 2 ^ 64) = (x.setWidth 128 * y.setWidth 128).extractLsb' 64 64 := by
  have hlt : x.toNat * y.toNat < 2 ^ 128 := Nat.lt_of_lt_of_eq (Nat.mul_lt_mul'' x.isLt y.isLt) (by decide)
  have hx := x.isLt
  have hy := y.isLt
  apply BitVec.eq_of_toNat_eq
  rw [BitVec.extractLsb'_toNat, BitVec.toNat_mul, BitVec.toNat_setWidth, BitVec.toNat_setWidth, BitVec.toNat_ofNat,
    Nat.mod_eq_of_lt (a := x.toNat) (by omega), Nat.mod_eq_of_lt (a := y.toNat) (by omega), Nat.mod_eq_of_lt (a := _ * _) hlt,
    Nat.shiftRight_eq_div_pow]

/-- A division writes its quotient or remainder for every divisor but a 0 under status.dz. -/
theorem writes_of_divide {i : Instr} {s : State} {d : BitVec 5} {x y zero v : Word} {f : Word → Word → Word}
    (h : exec i s = .next (s.divide d x y f zero)) (hz : s.me.sy.dz = false ∨ y ≠ 0#64)
    (hv : (if y = 0#64 then zero else f x y) = v) : Writes i s d v 0#5 4 := by
  refine writes_of_result_eq (h.trans ?_) hv
  unfold State.divide
  by_cases hy : y = 0#64
  · have hd : s.me.sy.dz = false := hz.resolve_right (not_not_intro hy)
    simp [hy, hd]
  · simp [hy]

/-- A division by 0 under status.dz traps with its dividend. -/
theorem State.divide_zero {s : State} {d : BitVec 5} {x y zero : Word} {f : Word → Word → Word} (hd : s.me.sy.dz = true)
    (hy : y = 0#64) : s.divide d x y f zero = s.trap cDIVZ x := by
  simp [State.divide, hd, hy]

/-- The 64-bit divisions by 0. -/
theorem exec_divide_by_zero {s : State} {d a b : BitVec 5} {i : Instr} (hd : s.me.sy.dz = true) (hb : s.x b = 0#64)
    (hi : i ∈ [Instr.div d a b, Instr.divn d a b, Instr.rem d a b, Instr.remn d a b]) :
    exec i s = .next (s.trap cDIVZ (s.x a)) := by
  simp only [List.mem_cons, List.not_mem_nil, or_false] at hi
  rcases hi with rfl | rfl | rfl | rfl <;> exact congrArg _ (State.divide_zero hd hb)

/-- The 32-bit divisions by 0: the dividend is the low word as read. -/
theorem exec_divideLow_by_zero {s : State} {d a b : BitVec 5} {i : Instr} (hd : s.me.sy.dz = true)
    (hb : (s.x b).extractLsb' 0 32 = 0#32) (hi : i ∈ [Instr.divw d a b, Instr.remw d a b]) :
    exec i s = .next (s.trap cDIVZ (((s.x a).extractLsb' 0 32).signExtend 64)) := by
  rw [← low32_eq]
  simp only [List.mem_cons, List.not_mem_nil, or_false] at hi
  rcases hi with rfl | rfl <;> exact congrArg _ (State.divide_zero hd ((low32_eq_zero_iff _).mpr hb))

theorem causeWord_DIVZ (x : Word) : causeWord { code := cDIVZ, tval := x } 0 false = 0x00F00008#64 := by
  simp [causeWord, cDIVZ]

/-- Settles O10: each product is the law of `result`; each quotient and remainder is the law of `divide`, whose one trapping case is
the division by 0 under status.dz. -/
theorem multiplyAndDivide : Obligations.MultiplyAndDivide := by
  refine ⟨fun s d a b => ⟨writes_of_result rfl, writes_of_result_eq rfl (mulh_eq _ _), writes_of_result_eq rfl (mulhn_eq _ _),
    writes_of_result_eq rfl (low32_eq _), fun hz => ⟨?_, ?_, ?_, ?_⟩, fun hz => ?_⟩, fun s d a b i x hd hi => ?_⟩
  · exact writes_of_divide rfl hz (by rw [sdiv_64]; rfl)
  · exact writes_of_divide rfl hz (by rw [udiv_eq]; rfl)
  · exact writes_of_divide rfl hz (by rw [srem_64])
  · exact writes_of_divide rfl hz (by rw [urem_eq])
  · have hz' : s.me.sy.dz = false ∨ low32 (s.x b) ≠ 0#64 := by
      rwa [ne_eq, low32_eq_zero_iff]
    refine ⟨writes_of_divide rfl hz' ?_, writes_of_divide rfl hz' ?_⟩
    · simp only [low32_eq_zero_iff, sdiv_low32]
      rfl
    · simp only [low32_eq_zero_iff, srem_low32]
      rw [low32_eq (s.x a)]
  · have htrap : exec i s = .next (s.trap cDIVZ x) := by
      rcases hi with ⟨hb, rfl, hi⟩ | ⟨hb, rfl, hi⟩
      · exact exec_divide_by_zero hd hb hi
      · exact exec_divideLow_by_zero hd hb hi
    exact ⟨fun hp hl => causeWord_DIVZ x ▸ traps_of_trap htrap hp hl, waits_of_trap htrap⟩

end Sys2Proof.Machine
end

section
/-! SUPPORT. 08 R175, R176: bit operations, compares and the choice by a condition. -/
namespace Sys2Proof.Machine

/-! ### Bit operations, 08 R175 -/

/-- `leadingZeros v n` of the low n bits are 0 from the top, and the bit below them, where there is one, is 1. -/
theorem leadingZeros_spec (v : Word) (n : Nat) :
    leadingZeros v n ≤ n ∧ (∀ k, n - leadingZeros v n ≤ k → k < n → v.getLsbD k = false) ∧
      (leadingZeros v n < n → v.getLsbD (n - 1 - leadingZeros v n) = true) := by
  induction n with
  | zero => exact ⟨Nat.le_refl 0, fun k _ h => absurd h k.not_lt_zero, fun h => absurd h (Nat.lt_irrefl 0)⟩
  | succ n ih =>
    obtain ⟨hle, hzero, hone⟩ := ih
    unfold leadingZeros
    split
    case isTrue hn =>
      exact ⟨Nat.zero_le _, fun k h h' => by omega, fun _ => hn⟩
    case isFalse hn =>
      refine ⟨by omega, fun k h h' => ?_, fun h => ?_⟩
      · rcases Nat.lt_succ_iff_lt_or_eq.mp h' with hk | rfl
        · exact hzero k (by omega) hk
        · simpa using hn
      · rw [show n + 1 - 1 - (leadingZeros v n + 1) = n - 1 - leadingZeros v n by omega]
        exact hone (by omega)

/-- `trailingZeros v n` bits from bit 64 - n on are 0, and the bit above them, where there is one, is 1. -/
theorem trailingZeros_spec (v : Word) {n : Nat} (hn : n ≤ 64) :
    trailingZeros v n ≤ n ∧ (∀ k, 64 - n ≤ k → k < 64 - n + trailingZeros v n → v.getLsbD k = false) ∧
      (trailingZeros v n < n → v.getLsbD (64 - n + trailingZeros v n) = true) := by
  induction n with
  | zero => exact ⟨Nat.le_refl 0, fun k h h' => absurd h' (Nat.not_lt.mpr h), fun h => absurd h (Nat.lt_irrefl 0)⟩
  | succ n ih =>
    obtain ⟨hle, hzero, hone⟩ := ih (by omega)
    have hbit : 64 - (n + 1) = 63 - n := by omega
    unfold trailingZeros
    rw [hbit]
    split
    case isTrue h1 =>
      exact ⟨Nat.zero_le _, fun k h h' => absurd h' (Nat.not_lt.mpr h), fun _ => h1⟩
    case isFalse h1 =>
      refine ⟨by omega, fun k h h' => ?_, fun h => ?_⟩
      · rcases Nat.eq_or_lt_of_le h with rfl | hk
        · simpa using h1
        · exact hzero k (by omega) (by omega)
      · rw [show 63 - n + (trailingZeros v n + 1) = 64 - n + trailingZeros v n by omega]
        exact hone (by omega)

/-- The one bits below n, as the statement counts them. -/
theorem onesBelow_eq_countP (v : Word) (n : Nat) : onesBelow v n = (List.range n).countP (fun k => v.getLsbD k) := by
  induction n with
  | zero => rfl
  | succ n ih => simp [onesBelow, List.range_succ, List.countP_append, List.countP_cons, ih]

theorem onesBelow_le (v : Word) (n : Nat) : onesBelow v n ≤ n := by
  induction n with
  | zero => exact Nat.le_refl 0
  | succ n ih => unfold onesBelow; split <;> omega

theorem onesBelow_mono (v : Word) {k n : Nat} (h : k ≤ n) : onesBelow v k ≤ onesBelow v n := by
  induction h with
  | refl => exact Nat.le_refl _
  | step _ ih => exact Nat.le_trans ih (Nat.le_add_right _ _)

/-- The count grows at each one bit. -/
theorem onesBelow_lt (v : Word) {k n : Nat} (h : k < n) (hk : v.getLsbD k = true) : onesBelow v k < onesBelow v n :=
  calc onesBelow v k < onesBelow v (k + 1) := by simp [onesBelow, hk]
    _ ≤ onesBelow v n := onesBelow_mono v h

/-- Setting bit c of a word where b holds. -/
theorem getLsbD_setBit (w : Word) (b : Bool) {c : Nat} (hc : c < 64) (j : Nat) :
    (if b then w ||| (1#64 <<< c) else w).getLsbD j = (w.getLsbD j || (b && decide (j = c))) := by
  cases b with
  | false => simp
  | true =>
    have hbit : (1#64 <<< c).getLsbD j = decide (j = c) := by
      have := BitVec.getLsbD_twoPow (w := 64) c j
      simpa [BitVec.twoPow, hc, eq_comm] using this
    simp [hbit]

theorem getLsbD_bitsPack_succ (v m : Word) {n : Nat} (hn : n < 64) (j : Nat) :
    (bitsPack v m (n + 1)).getLsbD j =
      ((bitsPack v m n).getLsbD j || ((m.getLsbD n && v.getLsbD n) && decide (j = onesBelow m n))) :=
  getLsbD_setBit _ _ (Nat.lt_of_le_of_lt (onesBelow_le m n) hn) j

theorem getLsbD_bitsDeposit_succ (v m : Word) {n : Nat} (hn : n < 64) (j : Nat) :
    (bitsDeposit v m (n + 1)).getLsbD j =
      ((bitsDeposit v m n).getLsbD j || ((m.getLsbD n && v.getLsbD (onesBelow m n)) && decide (j = n))) :=
  getLsbD_setBit _ _ hn j

/-- bext puts the bits under the mask at their count from bit 0 upward, and 0 above them. -/
theorem bitsPack_spec (v m : Word) {n : Nat} (hn : n ≤ 64) :
    (∀ k, k < n → m.getLsbD k = true → (bitsPack v m n).getLsbD (onesBelow m k) = v.getLsbD k) ∧
      ∀ j, onesBelow m n ≤ j → (bitsPack v m n).getLsbD j = false := by
  induction n with
  | zero => exact ⟨fun k h => absurd h k.not_lt_zero, fun j _ => BitVec.getLsbD_zero⟩
  | succ n ih =>
    obtain ⟨hbelow, habove⟩ := ih (by omega)
    refine ⟨fun k hk hm => ?_, fun j hj => ?_⟩
    · rw [getLsbD_bitsPack_succ v m hn]
      rcases Nat.lt_succ_iff_lt_or_eq.mp hk with hk | rfl
      · simp [hbelow k hk hm, (onesBelow_lt m hk hm).ne]
      · simp [habove _ (Nat.le_refl _), hm]
    · have hle : onesBelow m n ≤ j := Nat.le_trans (onesBelow_mono m (Nat.le_succ n)) hj
      rw [getLsbD_bitsPack_succ v m hn, habove j hle]
      cases hm : m.getLsbD n with
      | false => rfl
      | true =>
        have hlt : onesBelow m n < j := Nat.lt_of_lt_of_le (onesBelow_lt m (Nat.lt_succ_self n) hm) hj
        simp [hlt.ne']

/-- bdep puts the low bits under the mask, and 0 elsewhere. -/
theorem getLsbD_bitsDeposit (v m : Word) {n : Nat} (hn : n ≤ 64) (k : Nat) :
    (bitsDeposit v m n).getLsbD k = (decide (k < n) && (m.getLsbD k && v.getLsbD (onesBelow m k))) := by
  induction n with
  | zero => simp [bitsDeposit]
  | succ n ih =>
    rw [getLsbD_bitsDeposit_succ v m hn, ih (by omega)]
    rcases Nat.lt_trichotomy k n with h | rfl | h
    · simp [h, h.ne, Nat.lt_succ_of_lt h]
    · simp
    · simp [h.ne', Nat.not_lt.mpr h.le, Nat.not_lt.mpr (Nat.succ_le_of_lt h)]

/-! Byte reversal: a number from bytes read back byte by byte. -/

theorem length_leBytes (n x : Nat) : (leBytes n x).length = n := by
  induction n generalizing x with
  | zero => rfl
  | succ n ih => simp [leBytes, ih]

theorem getElem_leBytes {n k : Nat} (x : Nat) (h : k < (leBytes n x).length) :
    (leBytes n x)[k] = BitVec.ofNat 8 (x / 256 ^ k) := by
  induction n generalizing x k with
  | zero => exact absurd h k.not_lt_zero
  | succ n ih =>
    cases k with
    | zero => simp [leBytes]
    | succ k =>
      simp only [leBytes, List.getElem_cons_succ]
      rw [ih, Nat.div_div_eq_div_mul, Nat.pow_succ']

theorem ofNat_leNat_div (bs : List Byte) {k : Nat} (h : k < bs.length) : BitVec.ofNat 8 (leNat bs / 256 ^ k) = bs[k] := by
  induction bs generalizing k with
  | nil => exact absurd h k.not_lt_zero
  | cons b bs ih =>
    have hb := b.isLt
    cases k with
    | zero =>
      apply BitVec.eq_of_toNat_eq
      simp [leNat]
      omega
    | succ k =>
      have hdiv : leNat (b :: bs) / 256 = leNat bs := by
        rw [leNat]
        omega
      rw [List.getElem_cons_succ, ← ih (Nat.lt_of_succ_lt_succ h), Nat.pow_succ', ← Nat.div_div_eq_div_mul, hdiv]

/-- Byte k of a word is its number divided by 256 ^ k. -/
theorem extractLsb'_byte (v : Word) (k : Nat) : v.extractLsb' (8 * k) 8 = BitVec.ofNat 8 (v.toNat / 256 ^ k) := by
  apply BitVec.eq_of_toNat_eq
  rw [BitVec.extractLsb'_toNat, BitVec.toNat_ofNat, Nat.shiftRight_eq_div_pow, Nat.pow_mul]

theorem leNat_lt (bs : List Byte) : leNat bs < 256 ^ bs.length := by
  induction bs with
  | nil => exact Nat.one_pos
  | cons b bs ih =>
    have hb := b.isLt
    simp only [leNat, List.length_cons, Nat.pow_succ']
    omega

/-- Byte k of the reversed word is byte 7 - k of the word. -/
theorem extractLsb'_reversed (x : Word) {k : Nat} (hk : k < 8) :
    (BitVec.ofNat 64 (leNat (leBytes 8 x.toNat).reverse)).extractLsb' (8 * k) 8 = x.extractLsb' (56 - 8 * k) 8 := by
  have hlen : (leBytes 8 x.toNat).reverse.length = 8 := by
    rw [List.length_reverse, length_leBytes]
  have hlt : leNat (leBytes 8 x.toNat).reverse < 2 ^ 64 := by
    have h := leNat_lt (leBytes 8 x.toNat).reverse
    rwa [hlen] at h
  rw [show 56 - 8 * k = 8 * (7 - k) by omega, extractLsb'_byte, extractLsb'_byte, BitVec.toNat_ofNat, Nat.mod_eq_of_lt hlt,
    ofNat_leNat_div _ (by omega), List.getElem_reverse, getElem_leBytes, length_leBytes]

/-! ### Compares and the choice by a condition, 08 R176 -/

theorem boolWord_decide (p : Prop) [Decidable p] : boolWord (decide p) = if p then 1#64 else 0#64 := by
  simp [boolWord]

theorem boolWord_slt (x y : Word) : boolWord (x.slt y) = if x.toInt < y.toInt then 1#64 else 0#64 :=
  boolWord_decide _

theorem boolWord_ult (x y : Word) : boolWord (x.ult y) = if x.toNat < y.toNat then 1#64 else 0#64 :=
  boolWord_decide _

theorem boolWord_beq (x y : Word) : boolWord (x == y) = if x = y then 1#64 else 0#64 := by
  simp [boolWord]

theorem boolWord_bne (x y : Word) : boolWord (x != y) = if x = y then 0#64 else 1#64 := by
  by_cases h : x = y <;> simp [boolWord, h]

/-- Settles O11: each value is the model's function of the same bits, by the lemma that says which bits it holds. -/
theorem bitsAndCompares : Obligations.BitsAndCompares := by
  refine ⟨fun s d a b => ?_, fun s d a b => ⟨?seq, ?sne, ?slt, ?sltn, ?sel⟩⟩
  · simp only [← onesBelow_eq_countP]
    refine ⟨?clz, ?ctz, writes_of_result rfl, ⟨_, writes_of_result rfl, fun k hk => extractLsb'_reversed _ hk⟩, ?rotl, ?rotr,
      ⟨_, writes_of_result rfl, bitsPack_spec _ _ (Nat.le_refl 64)⟩, ⟨_, writes_of_result rfl, fun k hk => ?bdep⟩⟩
    case clz =>
      obtain ⟨hle, hzero, hone⟩ := leadingZeros_spec (s.x a) 64
      refine ⟨_, writes_of_result rfl, hle, fun k hk => ?_, hone⟩
      by_cases hk' : k < 64
      · exact hzero k hk hk'
      · exact BitVec.getLsbD_of_ge _ _ (Nat.not_lt.mp hk')
    case ctz =>
      obtain ⟨hle, hzero, hone⟩ := trailingZeros_spec (s.x a) (Nat.le_refl 64)
      exact ⟨_, writes_of_result rfl, hle, fun k hk => hzero k (Nat.zero_le k) (by omega), fun h => by simpa using hone h⟩
    case rotl => exact writes_of_result_eq rfl (by rw [toNat_mod_64])
    case rotr => exact writes_of_result_eq rfl (by rw [toNat_mod_64])
    case bdep => rw [getLsbD_bitsDeposit _ _ (Nat.le_refl 64), decide_eq_true hk, Bool.true_and]
  case seq => exact writes_of_result_eq rfl (boolWord_beq _ _)
  case sne => exact writes_of_result_eq rfl (boolWord_bne _ _)
  case slt => exact writes_of_result_eq rfl (boolWord_slt _ _)
  case sltn => exact writes_of_result_eq rfl (boolWord_ult _ _)
  case sel => exact writes_of_result_eq rfl (by simp)

end Sys2Proof.Machine
end

section
/-! SUPPORT. 08 R170, R182, R183: compare-branches and j. -/
namespace Sys2Proof.Machine

theorem State.target_eq {n : Nat} (s : State) (disp : BitVec n) : s.target disp = s.pc + BitVec.ofInt 64 (4 * disp.toInt) := by
  unfold State.target
  congr 1
  rw [BitVec.ofInt_mul, BitVec.signExtend, BitVec.shiftLeft_eq_mul_twoPow, BitVec.mul_comm]
  rfl

/-- A jump is taken, as a kill point where it does not go forward. -/
theorem branches_of_jump {n : Nat} {i : Instr} {s : State} {disp : BitVec n} (h : exec i s = .next (s.jump disp)) :
    Branches i s true disp.toInt := by
  constructor
  · intro hgo
    have hjump : s.jump disp = s.retireTo (s.target disp) := by
      rcases hgo with h | hpos | hk
      · contradiction
      · simp [State.jump, not_le.mpr hpos]
      · simp [State.jump, State.atKillPoint, hk]
    rw [if_pos rfl, ← State.target_eq]
    exact goesTo_of_retireTo (h.trans (congrArg _ hjump))
  · intro k _ hle hk
    rw [h]
    simp [State.jump, State.atKillPoint, hle, hk]

/-- A compare-branch whose condition is `taken`. -/
theorem branches_of_branch {i : Instr} {s : State} {taken : Bool} {disp : BitVec 11} (h : exec i s = .next (s.branch taken disp)) :
    Branches i s taken disp.toInt := by
  cases taken with
  | true => exact branches_of_jump h
  | false => exact ⟨fun _ => goesTo_of_retireTo h, fun _ h => nomatch h⟩

/-- As `branches_of_branch`, with the condition in another form. -/
theorem branches_of_branch_eq {i : Instr} {s : State} {c taken : Bool} {disp : BitVec 11}
    (h : exec i s = .next (s.branch c disp)) (hc : c = taken) : Branches i s taken disp.toInt :=
  hc ▸ branches_of_branch h

/-- Settles O14: each instruction ends in `branch` or `jump`; the model's conditions are those of R182. -/
theorem branchesAndJump : Obligations.BranchesAndJump := by
  intro s a b disp far
  refine ⟨branches_of_branch rfl, ?bne, branches_of_branch rfl, ?bge, branches_of_branch rfl, ?bgen, ?bany,
    branches_of_branch rfl, branches_of_jump rfl⟩
  case bne => exact branches_of_branch_eq rfl (Bool.eq_iff_iff.mpr (by simp))
  case bge => exact branches_of_branch_eq rfl (Bool.eq_iff_iff.mpr (by simp [BitVec.slt]))
  case bgen => exact branches_of_branch_eq rfl (Bool.eq_iff_iff.mpr (by simp [BitVec.ult]))
  case bany => exact branches_of_branch_eq rfl (Bool.eq_iff_iff.mpr (by simp))

end Sys2Proof.Machine
end
